-- ==== Sys2Proof/Word.lean ====
section
/-! DEFINITION. The words of the EVD-160 and their plainest arithmetic (spec/00_scope.md R3, spec/02_thread_state.md R24). -/

namespace Sys2Proof

set_option Elab.async false

/-- One byte of any memory (R3). -/
abbrev Byte := BitVec 8

/-- One scalar register, predicate, CSR or doubleword (R24). -/
abbrev Word := BitVec 64

/-- One vector register or 64-byte beat (R24, R22). -/
abbrev Vec := BitVec 512

/-- One bundle: S syllable in bits [63:0], V syllable in bits [127:64] (R43). -/
abbrev Bundle := BitVec 128

/-- Bits [lo+n-1 : lo] of a word, as a number: x[hi:lo] of R11. -/
def bitsAt {w : Nat} (x : BitVec w) (lo n : Nat) : Nat := (x.extractLsb' lo n).toNat

/-- One bit of a word. -/
def bitAt {w : Nat} (x : BitVec w) (i : Nat) : Bool := x.getLsbD i

/-- A word from a number, modulo 2^64. -/
def word (n : Nat) : Word := BitVec.ofNat 64 n

end Sys2Proof
end

