-- ==== Sys2Proof/Config.lean ====
section
/-! DEFINITION. What an EVD-160 fixes (sizes and counts of the spec) and the free values the spec leaves open. -/

namespace Sys2Proof

set_option Elab.async false

/-- Bytes of one TCM (R191). -/
def Config.tcmBytes : Nat := 0x80000
/-- Bytes of one cluster scratchpad (R191). -/
def Config.scratchBytes : Nat := 0x400000
/-- Bytes of one dome: 48 GB (R18, R20). -/
def Config.domeBytes : Nat := 48 * 10 ^ 9
/-- Beats that one receive queue holds (R213). -/
def Config.rxDepth : Nat := 16
/-- Beats that one send queue holds (R213). -/
def Config.txDepth : Nat := 8
/-- Beats that one window may have waiting (R219). -/
def Config.winDepth : Nat := 8
/-- Entries of one copy-engine channel queue (R252). -/
def Config.chanDepth : Nat := 16
/-- Bytes above which a transfer needs leave (R135). -/
def Config.heavyBytes : Nat := 65536
/-- Bundles of one instruction store (R130). -/
def Config.storeFrames : Nat := 64
/-- Entries of the pending-store table (R278). -/
def Config.pstDepth : Nat := 256
/-- Walkers of one die memory agent (R278, R285). -/
def Config.walkers : Nat := 64
/-- Entries of the engine port of one cluster (R278). -/
def Config.enginePort : Nat := 32
/-- Entries of the translation cache (R285). -/
def Config.tlbEntries : Nat := 32768
/-- Dome read and write completion times in slots (R367). -/
def Config.tRd : Nat := 96
def Config.tWr : Nat := 104
/-- Latency of the spire network in slots (R385). -/
def Config.spireSlots : Nat := 318
/-- Slots of one die crossing (R22, R343). -/
def Config.crossing : Nat := 8
/-- Slots from a service of the die SRAM to its reply (R280). -/
def Config.sramReply : Nat := 16
/-- Wheel slots of one power epoch (R469). -/
def Config.epoch : Nat := 20000

/-! Free values. Each is a constant without a body: nothing can be proved about what it is. -/

/-- Kept power of a core at a level, duty and rail voltage, in mW: the keep's calibration (R470, log 30). -/
opaque Config.pred : Nat → Nat → Nat → Nat
/-- Fixed power Pfix of epoch n in mW (R470, log 30). -/
opaque Config.pfix : Nat → Nat
/-- The handle of a spawned task, by its number in its context (R324: the value is not stated, log 36). -/
opaque Config.taskHandle : Nat → BitVec 64
/-- Whether physical core (die, x, y) passes its n-th self-test or retest (R474, R477, log 31). -/
opaque Config.selfTest : Nat → Nat → Nat → Nat → Bool
/-- Whether a signature verifies over the given bytes (R475: ECDSA on P-256 under the key in ROM, log 32). -/
opaque Config.sigOk : List Byte → Bool
/-- SHA-256 of a byte string as 32 bytes (R476, log 32: named by the spec, not stated in it). -/
opaque Config.sha256 : List Byte → List Byte
/-- The 64-byte ECDSA signature of a byte string with the identity key (R476, log 32). -/
opaque Config.sign : List Byte → List Byte
/-- The 64 bytes of the public identity key and the 8 bytes of the ROM version (R476, log 32). -/
opaque Config.identity : List Byte
opaque Config.romVersion : Word
/-- Board readings: module power in mW, tower temperature in m°C, at wheel count n (R472, R473, log 33). -/
opaque Config.modulePower : Nat → Nat
opaque Config.towerTemp : Nat → Nat
/-- Whether the keep has a routine of a number (R475: the spec lists none, log 37). -/
opaque Config.routineKnown : Nat → Bool
/-- Mean path delay of a fabric port at its training, in slots (R484, log 35). -/
opaque Config.pathDelay : Nat → Nat
/-- Whether the retrain of an edge that began at wheel count n succeeds (R478, log 34). -/
opaque Config.retrainOk : Nat → Nat → Bool
/-- Whether the belfry of another module reserves its part of a circuit, by the number of the open (R485, log 35), and whether
another module holds a context (R486, log 35). -/
opaque Config.farOpen : Nat → Bool
opaque Config.farHolds : Nat → Nat → Bool
/-- A byte of another module's memory by module and CPA, as the keep reads it at wheel count n (R487, log 108). -/
opaque Config.farByte : Nat → Nat → Nat → BitVec 8
/-- Whether the CRC of a beat that leaves on a die-edge link at wheel count n fails (R341, log 111). -/
opaque Config.crcFails : Nat → Nat → Bool
/-- Whether the replica of a granule (die, module, CPA) fails when it is read at wheel count n (R295, log 109). -/
opaque Config.replicaFails : Nat → Nat → Nat → Nat → Bool
/-- Energy of a context's towers in mJ at wheel count n (R462 counter 5, log 33). -/
opaque Config.energy : Nat → Nat → Nat
/-- Correctable errors on a context's towers and domes since its creation, as counted by wheel count n (R295, R462 counter 3, log 33). -/
opaque Config.corrected : Nat → Nat → Nat

end Sys2Proof
end

