-- ==== Sys2Proof/Machine/Maps.lean ====
section
/-! DEFINITION. Finite maps, register files and byte memories as plain data: a map is a list of keys and values with keys
strictly rising, a memory a map from byte addresses in which no listed byte is what an unlisted one reads as (log 2). -/

namespace Sys2Proof.Machine

set_option Elab.async false

/-- The value of a key, or the default of a key that is not listed. -/
def mapGet {α : Type} (d : α) : List (Nat × α) → Nat → α
  | [], _ => d
  | (j, w) :: t, k => if j = k then w else mapGet d t k

/-- Set the value of a key, in rising order of keys. -/
def mapSet {α : Type} : List (Nat × α) → Nat → α → List (Nat × α)
  | [], k, v => [(k, v)]
  | (j, w) :: t, k, v =>
    if k < j then (k, v) :: (j, w) :: t
    else if k = j then (k, v) :: t
    else (j, w) :: mapSet t k v

/-- Remove a key. -/
def mapDel {α : Type} : List (Nat × α) → Nat → List (Nat × α)
  | [], _ => []
  | (j, w) :: t, k => if j = k then mapDel t k else (j, w) :: mapDel t k

/-- The value of a key that may be absent. -/
def mapFind {α : Type} : List (Nat × α) → Nat → Option α
  | [], _ => none
  | (j, w) :: t, k => if j = k then some w else mapFind t k

/-- Keys strictly rising, each above a bound. -/
def mapRising {α : Type} : List (Nat × α) → Bool
  | [] => true
  | [_] => true
  | (j, _) :: (k, w) :: t => decide (j < k) && mapRising ((k, w) :: t)

/-- One entry of a register file; the default stands for an index outside it. -/
def vget {α : Type} {n : Nat} (v : Vector α n) (i : Nat) (d : α) : α := (v[i]?).getD d

/-- Set one entry of a register file; an index outside it sets nothing. -/
def vset {α : Type} {n : Nat} (v : Vector α n) (i : Nat) (x : α) : Vector α n := v.setIfInBounds i x

/-- A byte memory (R3): listed bytes, none zero; an unlisted byte reads zero (R198, log 2). -/
abbrev Memory := List Host.Cell

/-- The byte at an address. -/
def mGet (m : Memory) (a : Nat) : Byte := mapGet 0 m a

/-- Write one byte, keeping the canonical form. -/
def mSet (m : Memory) (a : Nat) (b : Byte) : Memory := if b = 0 then mapDel m a else mapSet m a b

/-- The canonical form: addresses strictly rising and no listed byte zero. -/
abbrev Memory.wf (m : Memory) : Prop := mapRising m = true ∧ ∀ c ∈ m, c.2 ≠ 0

/-- n bytes from an address up, as a little-endian number (R3). -/
def mNat (m : Memory) (a : Nat) : Nat → Nat
  | 0 => 0
  | n + 1 => (mGet m a).toNat + 256 * mNat m (a + 1) n

/-- Write the n low bytes of a number from an address up, little-endian (R3). -/
def mPut (m : Memory) (a : Nat) : Nat → Nat → Memory
  | 0, _ => m
  | n + 1, v => mPut (mSet m a (BitVec.ofNat 8 v)) (a + 1) n (v / 256)

/-- A 64-bit word at an address. -/
def mWord (m : Memory) (a : Nat) : Word := BitVec.ofNat 64 (mNat m a 8)

/-- 64 bytes at an address as a vector: byte j is bits [8j+7:8j] (R201). -/
def mVec (m : Memory) (a : Nat) : Vec := BitVec.ofNat 512 (mNat m a 64)

/-- n bytes from an address up. -/
def mBytes (m : Memory) (a : Nat) : Nat → List Byte
  | 0 => []
  | n + 1 => mGet m a :: mBytes m (a + 1) n

/-- Write a list of bytes from an address up. -/
def mPutBytes (m : Memory) (a : Nat) : List Byte → Memory
  | [] => m
  | b :: t => mPutBytes (mSet m a b) (a + 1) t

/-- A list of bytes as a little-endian number. -/
def bytesNat : List Byte → Nat
  | [] => 0
  | b :: t => b.toNat + 256 * bytesNat t

/-- The n low bytes of a number, little-endian. -/
def natBytes : Nat → Nat → List Byte
  | 0, _ => []
  | n + 1, v => BitVec.ofNat 8 v :: natBytes n (v / 256)

/-- A sorted set of numbers: insert and remove. -/
def setIns (l : List Nat) (k : Nat) : List Nat :=
  match l with
  | [] => [k]
  | j :: t => if k < j then k :: j :: t else if k = j then j :: t else j :: setIns t k

def setDel (l : List Nat) (k : Nat) : List Nat := l.filter (· ≠ k)

end Sys2Proof.Machine
end

