-- ==== Sys2Proof/Syntax.lean ====
section
/-! DEFINITION. The syntax of the opcode table: operands, fields and one constructor of Instr per row
(spec/03_bundle_formats_and_opcode_map.md R44 to R55, spec/24_debug_trace_and_counters.md R457). -/

namespace Sys2Proof

set_option Elab.async false

/-- A guard: truth table and three predicate numbers (R29, R44). -/
structure Guard where
  tt : BitVec 8
  pa : BitVec 3
  pb : BitVec 3
  pc : BitVec 3
deriving DecidableEq, Repr

/-- A scalar operand: s0 to s31, or scalar port n (R26). -/
inductive SOp where
  | s (r : BitVec 5)
  | port (n : BitVec 2)
deriving DecidableEq, Repr

/-- A vector operand: v0 to v15, vector port n, or window n (R26). -/
inductive VOp where
  | v (r : BitVec 4)
  | port (n : BitVec 2)
  | win (n : BitVec 2)
deriving DecidableEq, Repr

/-- Field x of format SG: scalar where K = 0, vector where K = 1 (R48, R54). -/
inductive XOp where
  | sc (o : SOp)
  | vec (o : VOp)
deriving DecidableEq, Repr

/-- The second source of format SA: register, or the 23-bit immediate (R46). -/
inductive SrcB where
  | reg (o : SOp)
  | imm (i : BitVec 23)
deriving DecidableEq, Repr

/-- The second source of formats VA and VC: register, or the 8-bit immediate (R47). -/
inductive VSrcB where
  | reg (o : VOp)
  | imm (i : BitVec 8)
deriving DecidableEq, Repr

/-- The four spaces (R191). -/
inductive Space where
  | l | c | d | g
deriving DecidableEq, Repr

/-- The order field of memory syllables (R49). -/
inductive MOrd where
  | plain | acq | rel | acqrel
deriving DecidableEq, Repr

/-- The scopes (R299). -/
inductive Scope where
  | th | co | cl | di | ln | cx | pk | fb | sy
deriving DecidableEq, Repr

/-- The fence kinds (R307). -/
inductive FenceKind where
  | ld | st | all | eng
deriving DecidableEq, Repr

/-- Index scale of the register form of an address: 1, 8 or 64 (R49). -/
inductive Scale where
  | x1 | x8 | x64
deriving DecidableEq, Repr

/-- The second part of a memory operand: byte offset, or scaled index register (R49). -/
inductive MemOff where
  | off (o : BitVec 16)
  | idx (rb : SOp) (sc : Scale)
deriving DecidableEq, Repr

/-- Combine modes of a predicate pair (R91). -/
inductive PMode where
  | set | and | or | andn
deriving DecidableEq, Repr

/-- Comparison codes (R50). -/
inductive Cond where
  | eq | ne | lt | ge | gt | le | ltu | geu | gtu | leu | tst | un
deriving DecidableEq, Repr

/-- The rm field of format VA (R51). -/
inductive Rm where
  | rne | rtz | rdn | rup | sr | dyn
deriving DecidableEq, Repr

/-- Type codes 0 to 24 (R52). -/
inductive Ty where
  | f32 | f16 | bf16 | e4m3 | e5m2 | e3m2 | e2m3 | e2m1
  | mxe4m3 | mxe5m2 | mxe3m2 | mxe2m3 | mxe2m1 | mxi8
  | i16 | i8 | u8 | i4 | u4 | i2 | i32 | u32 | i64 | u64 | u16
deriving DecidableEq, Repr

/-- Operations of amo, aux codes 0 to 8 (R54, R288). -/
inductive AmoOp where
  | add | and | or | xor | min | max | minu | maxu | swap
deriving DecidableEq, Repr

/-- Selector T of format VM: a0, a1 or the pair a0:a1 (R53, R226). -/
inductive TileSel where
  | a0 | a1 | pair
deriving DecidableEq, Repr

/-- The ord field of format VP (R53). -/
inductive SpOrd where
  | plain | rel | acq
deriving DecidableEq, Repr

/-- The name of a thread slot: tower number 8·Y + ⌊X/2⌋, core 8y + x, slot (R9, R322). -/
structure Tid where
  die : Nat
  core : Nat
  slot : Nat
deriving DecidableEq, Repr

/-- The rows of spec/opcode_table.json, one constructor each: the syllables with their guard, the filter words, then the
rows that are events of the machine. An event has no encoding and no operand field; what it acts on (which die, thread,
beat or command) is data of the state that takes it, `State.arg`. -/
inductive Instr where
  /-- NOP (R58). -/
  | nop (g : Guard)
  /-- PLIVE (R108). -/
  | plive (g : Guard) (mask : BitVec 8)
  /-- ADD (R77). -/
  | add (g : Guard) (rd ra : SOp) (b : SrcB)
  /-- SUB (R77). -/
  | sub (g : Guard) (rd ra : SOp) (b : SrcB)
  /-- MUL (R77). -/
  | mul (g : Guard) (rd ra : SOp) (b : SrcB)
  /-- MULH (R79). -/
  | mulh (g : Guard) (uns : Bool) (rd ra : SOp) (b : SrcB)
  /-- DIV (R79). -/
  | div (g : Guard) (uns : Bool) (rd ra : SOp) (b : SrcB)
  /-- REM (R79). -/
  | rem (g : Guard) (uns : Bool) (rd ra : SOp) (b : SrcB)
  /-- MADD (R80). -/
  | madd (g : Guard) (rd ra rb rc : SOp)
  /-- AND (R77). -/
  | and (g : Guard) (rd ra : SOp) (b : SrcB)
  /-- OR (R77). -/
  | or (g : Guard) (rd ra : SOp) (b : SrcB)
  /-- XOR (R77). -/
  | xor (g : Guard) (rd ra : SOp) (b : SrcB)
  /-- ANDN (R77). -/
  | andn (g : Guard) (rd ra : SOp) (b : SrcB)
  /-- ORN (R77). -/
  | orn (g : Guard) (rd ra : SOp) (b : SrcB)
  /-- XNOR (R77). -/
  | xnor (g : Guard) (rd ra : SOp) (b : SrcB)
  /-- SLL (R78). -/
  | sll (g : Guard) (rd ra : SOp) (b : SrcB)
  /-- SRL (R78). -/
  | srl (g : Guard) (rd ra : SOp) (b : SrcB)
  /-- SRA (R78). -/
  | sra (g : Guard) (rd ra : SOp) (b : SrcB)
  /-- ROL (R78). -/
  | rol (g : Guard) (rd ra : SOp) (b : SrcB)
  /-- ROR (R78). -/
  | ror (g : Guard) (rd ra : SOp) (b : SrcB)
  /-- CLZ (R81). -/
  | clz (g : Guard) (rd ra : SOp)
  /-- CTZ (R81). -/
  | ctz (g : Guard) (rd ra : SOp)
  /-- POPC (R81). -/
  | popc (g : Guard) (rd ra : SOp)
  /-- BREV (R81). -/
  | brev (g : Guard) (rd ra : SOp)
  /-- BSWAP (R81). -/
  | bswap (g : Guard) (rd ra : SOp)
  /-- ABS (R81). -/
  | abs (g : Guard) (rd ra : SOp)
  /-- BEXT (R82). -/
  | bext (g : Guard) (sx : Bool) (rd ra : SOp) (b : SrcB)
  /-- BINS (R83). -/
  | bins (g : Guard) (rd ra : SOp) (b : SrcB)
  /-- SEXT (R84). -/
  | sext (g : Guard) (rd ra : SOp) (n : BitVec 23)
  /-- ZEXT (R84). -/
  | zext (g : Guard) (rd ra : SOp) (n : BitVec 23)
  /-- MIN (R85). -/
  | min (g : Guard) (uns : Bool) (rd ra : SOp) (b : SrcB)
  /-- MAX (R85). -/
  | max (g : Guard) (uns : Bool) (rd ra : SOp) (b : SrcB)
  /-- SHADD (R86). -/
  | shadd (g : Guard) (k : BitVec 2) (rd ra : SOp) (b : SrcB)
  /-- LI (R89). -/
  | li (g : Guard) (rd : SOp) (i : BitVec 34)
  /-- LIH (R90). -/
  | lih (g : Guard) (rd : SOp) (i : BitVec 30)
  /-- MOV (R87). -/
  | mov (g : Guard) (rd ra : SOp)
  /-- SEL (R88). -/
  | sel (g : Guard) (q : BitVec 3) (rd ra rb : SOp)
  /-- CMP (R92). -/
  | cmp (g : Guard) (pd pe : BitVec 3) (m : PMode) (cond : Cond) (ra rb : SOp)
  /-- CMPI (R92). -/
  | cmpi (g : Guard) (pd pe : BitVec 3) (m : PMode) (cond : Cond) (ra : SOp) (i : BitVec 22)
  /-- PTT (R97). -/
  | ptt (g : Guard) (pd pe : BitVec 3) (m : PMode) (tt : BitVec 8) (qa qb qc : BitVec 3)
  /-- PMOV (R98). -/
  | pmov (g : Guard) (pd : BitVec 3) (ra : SOp)
  /-- PGET (R98). -/
  | pget (g : Guard) (rd : SOp) (qa : BitVec 3)
  /-- PANY (R99). -/
  | pany (g : Guard) (pd pe : BitVec 3) (m : PMode) (qa : BitVec 3) (lw : BitVec 2)
  /-- PALL (R99). -/
  | pall (g : Guard) (pd pe : BitVec 3) (m : PMode) (qa : BitVec 3) (lw : BitVec 2)
  /-- PCNT (R100). -/
  | pcnt (g : Guard) (rd : SOp) (qa : BitVec 3) (lw : BitVec 2)
  /-- PFIRST (R100). -/
  | pfirst (g : Guard) (rd : SOp) (qa : BitVec 3) (lw : BitVec 2)
  /-- BR (R103). -/
  | br (g : Guard) (off : BitVec 40)
  /-- CALL (R103). -/
  | call (g : Guard) (off : BitVec 40)
  /-- LOOP (R103). -/
  | loop (g : Guard) (ra : SOp) (off : BitVec 34)
  /-- JMP (R103). -/
  | jmp (g : Guard) (ra : SOp)
  /-- CALLR (R103). -/
  | callr (g : Guard) (ra : SOp)
  /-- RET (R103). -/
  | ret (g : Guard)
  /-- JF (R103). -/
  | jf (g : Guard) (seg entry : BitVec 12)
  /-- CALLF (R103). -/
  | callf (g : Guard) (seg entry : BitVec 12)
  /-- TRAP (R106). -/
  | trap (g : Guard) (code : BitVec 16)
  /-- BRK (R106). -/
  | brk (g : Guard) (code : BitVec 16)
  /-- ERET (R113). -/
  | eret (g : Guard)
  /-- HALT (R104). -/
  | halt (g : Guard)
  /-- WFE (R105). -/
  | wfe (g : Guard) (mask : BitVec 8)
  /-- TMARK (R107). -/
  | tmark (g : Guard) (m : BitVec 16)
  /-- CSRR (R114). -/
  | csrr (g : Guard) (x : SOp) (csr : BitVec 12)
  /-- CSRW (R114). -/
  | csrw (g : Guard) (x ra : SOp) (csr : BitVec 12)
  /-- CSRS (R114). -/
  | csrs (g : Guard) (x ra : SOp) (csr : BitVec 12)
  /-- CSRC (R114). -/
  | csrc (g : Guard) (x ra : SOp) (csr : BitVec 12)
  /-- IPI (R115). -/
  | ipi (g : Guard) (ra : SOp) (code : BitVec 8)
  /-- SFENCE (R116). -/
  | sfence (g : Guard) (ra rb : SOp)
  /-- CFETCH (R132). -/
  | cfetch (g : Guard) (sp : Space) (ra : SOp) (seg : BitVec 12)
  /-- LD (R201). -/
  | ld (g : Guard) (sp : Space) (wd : BitVec 2) (sx : Bool) (ord : MOrd) (sco : Scope) (d ra : SOp) (m : MemOff)
  /-- ST (R201). -/
  | st (g : Guard) (sp : Space) (wd : BitVec 2) (ord : MOrd) (sco : Scope) (d ra : SOp) (m : MemOff)
  /-- VLD (R201). -/
  | vld (g : Guard) (sp : Space) (ord : MOrd) (sco : Scope) (d : VOp) (ra : SOp) (m : MemOff)
  /-- VST (R201). -/
  | vst (g : Guard) (sp : Space) (ord : MOrd) (sco : Scope) (d : VOp) (ra : SOp) (m : MemOff)
  /-- VLDS (R202). -/
  | vlds (g : Guard) (sp : Space) (wd : BitVec 2) (ord : MOrd) (sco : Scope) (d : VOp) (ra rb : SOp)
  /-- VSTS (R202). -/
  | vsts (g : Guard) (sp : Space) (wd : BitVec 2) (ord : MOrd) (sco : Scope) (d : VOp) (ra rb : SOp)
  /-- VLDX (R209). -/
  | vldx (g : Guard) (ord : MOrd) (sco : Scope) (d : VOp) (ra rb : SOp)
  /-- VSTX (R209). -/
  | vstx (g : Guard) (ord : MOrd) (sco : Scope) (d : VOp) (ra rb : SOp)
  /-- LDFE (R210). -/
  | ldfe (g : Guard) (ord : MOrd) (sco : Scope) (d ra : SOp) (m : MemOff)
  /-- LDFF (R210). -/
  | ldff (g : Guard) (ord : MOrd) (sco : Scope) (d ra : SOp) (m : MemOff)
  /-- STEF (R210). -/
  | stef (g : Guard) (ord : MOrd) (sco : Scope) (d ra : SOp) (m : MemOff)
  /-- STFF (R210). -/
  | stff (g : Guard) (ord : MOrd) (sco : Scope) (d ra : SOp) (m : MemOff)
  /-- FEST (R210). -/
  | fest (g : Guard) (f : Bool) (ra rb : SOp) (sc : Scale)
  /-- AMO (R288). -/
  | amo (g : Guard) (op : AmoOp) (sp : Space) (w64 : Bool) (ord : MOrd) (sco : Scope) (d ra rb : SOp)
  /-- CAS (R288). -/
  | cas (g : Guard) (sp : Space) (w64 : Bool) (ord : MOrd) (sco : Scope) (d ra rb : SOp)
  /-- FENCE (R307). -/
  | fence (g : Guard) (k : FenceKind) (sco : Scope)
  /-- SEAL (R289). -/
  | seal (g : Guard) (sp : Space) (ra rb : SOp)
  /-- UNSEAL (R289). -/
  | unseal (g : Guard) (sp : Space) (d ra rb : SOp)
  /-- PUBLISH (R291). -/
  | publish (g : Guard) (sp : Space) (ra : SOp)
  /-- RFILL (R211). -/
  | rfill (g : Guard) (x : XOp) (port : BitVec 2) (tgt : BitVec 6)
  /-- REMP (R212). -/
  | remp (g : Guard) (x : XOp)
  /-- BIND (R214). -/
  | bind (g : Guard) (ra rb : SOp) (sel : BitVec 3)
  /-- UNBIND (R216). -/
  | unbind (g : Guard) (sel : BitVec 3)
  /-- WINB (R218). -/
  | winb (g : Guard) (ra : SOp) (n : BitVec 2)
  /-- SBIND (R221). -/
  | sbind (g : Guard) (x : XOp) (ra : SOp)
  /-- SUNBIND (R223). -/
  | sunbind (g : Guard) (x : XOp)
  /-- MARK (R217). -/
  | mark (g : Guard) (ra : SOp) (n : BitVec 2)
  /-- CPY (R255). -/
  | cpy (g : Guard) (x ra rb : SOp) (ch : BitVec 3)
  /-- CPYR (R257). -/
  | cpyr (g : Guard) (i32 : Bool) (x ra rb : SOp) (ch : BitVec 3)
  /-- TWAIT (R265). -/
  | twait (g : Guard) (ra : SOp) (ch : BitVec 3)
  /-- TSTAT (R265). -/
  | tstat (g : Guard) (x : SOp) (ch : BitVec 3)
  /-- MCMD (R245). -/
  | mcmd (g : Guard) (x ra rb : SOp) (n : BitVec 2)
  /-- SPAWN (R324). -/
  | spawn (g : Guard) (hard : Bool) (x ra rb : SOp)
  /-- LNCH (R323). -/
  | lnch (g : Guard) (x ra : SOp)
  /-- TRIG (R325). -/
  | trig (g : Guard)
  /-- SETPH (R292). -/
  | setph (g : Guard) (ra : SOp)
  /-- WAITPH (R294). -/
  | waitph (g : Guard) (ra rb : SOp)
  /-- GANG (R269). -/
  | gang (g : Guard) (k : BitVec 2)
  /-- SPLIT (R273). -/
  | split (g : Guard)
  /-- JOIN (R272). -/
  | join (g : Guard)
  /-- CMREQ (R358). -/
  | cmreq (g : Guard) (x ra : SOp)
  /-- VADD (R170). -/
  | vadd (g : Guard) (ty : Ty) (rm : Rm) (sat : Bool) (vd va : VOp) (b : VSrcB)
  /-- VSUB (R170). -/
  | vsub (g : Guard) (ty : Ty) (rm : Rm) (sat : Bool) (vd va : VOp) (b : VSrcB)
  /-- VMUL (R170). -/
  | vmul (g : Guard) (ty : Ty) (rm : Rm) (sat : Bool) (vd va : VOp) (b : VSrcB)
  /-- VMULH (R170). -/
  | vmulh (g : Guard) (ty : Ty) (vd va : VOp) (b : VSrcB)
  /-- VFMA (R170). -/
  | vfma (g : Guard) (ty : Ty) (rm : Rm) (sat : Bool) (vd va : VOp) (b : VSrcB) (vc : VOp)
  /-- VFMS (R170). -/
  | vfms (g : Guard) (ty : Ty) (rm : Rm) (sat : Bool) (vd va : VOp) (b : VSrcB) (vc : VOp)
  /-- VFNMA (R170). -/
  | vfnma (g : Guard) (ty : Ty) (rm : Rm) (sat : Bool) (vd va : VOp) (b : VSrcB) (vc : VOp)
  /-- VMIN (R171). -/
  | vmin (g : Guard) (ty : Ty) (vd va : VOp) (b : VSrcB)
  /-- VMAX (R171). -/
  | vmax (g : Guard) (ty : Ty) (vd va : VOp) (b : VSrcB)
  /-- VABS (R171). -/
  | vabs (g : Guard) (ty : Ty) (sat : Bool) (vd va : VOp)
  /-- VNEG (R171). -/
  | vneg (g : Guard) (ty : Ty) (sat : Bool) (vd va : VOp)
  /-- VDIV (R160). -/
  | vdiv (g : Guard) (ty : Ty) (rm : Rm) (sat : Bool) (vd va : VOp) (b : VSrcB)
  /-- VSQRT (R160). -/
  | vsqrt (g : Guard) (ty : Ty) (rm : Rm) (sat : Bool) (vd va : VOp)
  /-- VRCP (R160). -/
  | vrcp (g : Guard) (ty : Ty) (rm : Rm) (sat : Bool) (vd va : VOp)
  /-- VRSQ (R160). -/
  | vrsq (g : Guard) (ty : Ty) (rm : Rm) (sat : Bool) (vd va : VOp)
  /-- VEXP2 (R160). -/
  | vexp2 (g : Guard) (ty : Ty) (rm : Rm) (sat : Bool) (vd va : VOp)
  /-- VLOG2 (R160). -/
  | vlog2 (g : Guard) (ty : Ty) (rm : Rm) (sat : Bool) (vd va : VOp)
  /-- VSIGM (R161). -/
  | vsigm (g : Guard) (ty : Ty) (rm : Rm) (sat : Bool) (vd va : VOp)
  /-- VSILU (R162). -/
  | vsilu (g : Guard) (ty : Ty) (rm : Rm) (sat : Bool) (vd va : VOp)
  /-- VAND (R172). -/
  | vand (g : Guard) (ty : Ty) (vd va : VOp) (b : VSrcB)
  /-- VOR (R172). -/
  | vor (g : Guard) (ty : Ty) (vd va : VOp) (b : VSrcB)
  /-- VXOR (R172). -/
  | vxor (g : Guard) (ty : Ty) (vd va : VOp) (b : VSrcB)
  /-- VANDN (R172). -/
  | vandn (g : Guard) (ty : Ty) (vd va : VOp) (b : VSrcB)
  /-- VSLL (R173). -/
  | vsll (g : Guard) (ty : Ty) (vd va : VOp) (b : VSrcB)
  /-- VSRL (R173). -/
  | vsrl (g : Guard) (ty : Ty) (vd va : VOp) (b : VSrcB)
  /-- VSRA (R173). -/
  | vsra (g : Guard) (ty : Ty) (vd va : VOp) (b : VSrcB)
  /-- VCLZ (R174). -/
  | vclz (g : Guard) (ty : Ty) (vd va : VOp)
  /-- VPOPC (R174). -/
  | vpopc (g : Guard) (ty : Ty) (vd va : VOp)
  /-- VCMP (R177). -/
  | vcmp (g : Guard) (pd pe : BitVec 3) (m : PMode) (cond : Cond) (ty : Ty) (va : VOp) (b : VSrcB)
  /-- VCLASS (R175). -/
  | vclass (g : Guard) (ty : Ty) (vd va : VOp)
  /-- VMOV (R176). -/
  | vmov (g : Guard) (vd va : VOp)
  /-- VBC (R178). -/
  | vbc (g : Guard) (ty : Ty) (vd : VOp) (s : SOp)
  /-- VEXT (R179). -/
  | vext (g : Guard) (ty : Ty) (s : SOp) (va : VOp) (i : BitVec 8)
  /-- VINS (R180). -/
  | vins (g : Guard) (ty : Ty) (vd : VOp) (s : SOp) (i : BitVec 8)
  /-- VPERM (R181). -/
  | vperm (g : Guard) (ty : Ty) (vd va vb : VOp)
  /-- VROT (R182). -/
  | vrot (g : Guard) (ty : Ty) (vd va : VOp) (b : VSrcB)
  /-- VZIP (R183). -/
  | vzip (g : Guard) (ty : Ty) (hi : Bool) (vd va vb : VOp)
  /-- VUZP (R183). -/
  | vuzp (g : Guard) (ty : Ty) (hi : Bool) (vd va vb : VOp)
  /-- VCVT (R184). -/
  | vcvt (g : Guard) (ty tys : Ty) (rm : Rm) (sat : Bool) (vd va : VOp) (q : BitVec 8)
  /-- VSCL (R185). -/
  | vscl (g : Guard) (ty tys : Ty) (rm : Rm) (sat : Bool) (vd va vb : VOp) (q : BitVec 8)
  /-- VDOT (R186). -/
  | vdot (g : Guard) (ty tys : Ty) (rm : Rm) (vd va vb : VOp)
  /-- VREDADD (R187). -/
  | vredadd (g : Guard) (ty : Ty) (rm : Rm) (sat : Bool) (vd va : VOp)
  /-- VREDMAX (R187). -/
  | vredmax (g : Guard) (ty : Ty) (vd va : VOp)
  /-- VREDMIN (R187). -/
  | vredmin (g : Guard) (ty : Ty) (vd va : VOp)
  /-- VSCAN (R188, R189). -/
  | vscan (g : Guard) (ty : Ty) (vd va : VOp) (s : SOp)
  /-- VRNG (R190). -/
  | vrng (g : Guard) (ty : Ty) (vd : VOp) (s : SOp) (st : BitVec 8)
  /-- VACCRD (R240). -/
  | vaccrd (g : Guard) (t : TileSel) (sa : SOp) (vd : VOp) (gr : BitVec 8)
  /-- VACCWR (R240). -/
  | vaccwr (g : Guard) (t : TileSel) (sa : SOp) (vs : VOp) (gr : BitVec 8)
  /-- VACCZR (R239). -/
  | vacczr (g : Guard) (t : TileSel)
  /-- MLDB (R237). -/
  | mldb (g : Guard) (bm : BitVec 4) (sa : SOp)
  /-- MMA (R238). -/
  | mma (g : Guard) (t : TileSel) (bm : BitVec 4) (sa : SOp)
  /-- MCLAIM (R241). -/
  | mclaim (g : Guard) (t : TileSel)
  /-- MREL (R241). -/
  | mrel (g : Guard) (t : TileSel)
  /-- MFENCE (R242). -/
  | mfence (g : Guard)
  /-- SPJOIN (R376). -/
  | spjoin (g : Guard) (ch : BitVec 5) (s : SOp)
  /-- SPSCAN (R383, R384). -/
  | spscan (g : Guard) (ord : SpOrd) (ch : BitVec 5) (vd va : VOp) (s : SOp)
  /-- SPRED (R383, R384). -/
  | spred (g : Guard) (ord : SpOrd) (ch : BitVec 5) (vd va : VOp) (s : SOp)
  /-- SPBAR (R383, R384). -/
  | spbar (g : Guard) (ord : SpOrd) (ch : BitVec 5)
  /-- SPBC (R383, R384). -/
  | spbc (g : Guard) (ord : SpOrd) (ch : BitVec 5) (vd va : VOp) (s : SOp)
  /-- LANTERN_LDR (R457, filter word). -/
  | lanternLdr (d a : BitVec 4) (i : BitVec 18)
  /-- LANTERN_LDI (R457, filter word). -/
  | lanternLdi (d a : BitVec 4) (i : BitVec 18)
  /-- LANTERN_ADD (R457, filter word). -/
  | lanternAdd (d a b : BitVec 4)
  /-- LANTERN_AND (R457, filter word). -/
  | lanternAnd (d a b : BitVec 4)
  /-- LANTERN_OR (R457, filter word). -/
  | lanternOr (d a b : BitVec 4)
  /-- LANTERN_XOR (R457, filter word). -/
  | lanternXor (d a b : BitVec 4)
  /-- LANTERN_SHR (R457, filter word). -/
  | lanternShr (d a : BitVec 4) (i : BitVec 18)
  /-- LANTERN_SHL (R457, filter word). -/
  | lanternShl (d a : BitVec 4) (i : BitVec 18)
  /-- LANTERN_ANDI (R457, filter word). -/
  | lanternAndi (d a : BitVec 4) (i : BitVec 18)
  /-- LANTERN_BEQ (R457, filter word). -/
  | lanternBeq (d a : BitVec 4) (i : BitVec 18)
  /-- LANTERN_BNE (R457, filter word). -/
  | lanternBne (d a : BitVec 4) (i : BitVec 18)
  /-- LANTERN_BLTU (R457, filter word). -/
  | lanternBltu (d a : BitVec 4) (i : BitVec 18)
  /-- LANTERN_BGEU (R457, filter word). -/
  | lanternBgeu (d a : BitVec 4) (i : BitVec 18)
  /-- LANTERN_KEEP (R457, filter word). -/
  | lanternKeep (d a : BitVec 4) (i : BitVec 18)
  /-- LANTERN_DROP (R457, filter word). -/
  | lanternDrop (d a : BitVec 4) (i : BitVec 18)
  /-- LANTERN_CNT (R457, filter word). -/
  | lanternCnt (d a : BitVec 4) (i : BitVec 18)
  /-- LANTERN_TRIG (R457, filter word). -/
  | lanternTrig (d a : BitVec 4) (i : BitVec 18)
  /-- THREAD_RETIRE (R104, event). -/
  | threadRetire
  /-- IPI_DELIVERY (R115, event). -/
  | ipiDelivery
  /-- INTERRUPT (R112, event). -/
  | interrupt
  /-- PARK_WAKE (R123, event). -/
  | parkWake
  /-- FE_TIMEOUT (R127, event). -/
  | feTimeout
  /-- DUTY_TAKES_EFFECT (R124, event). -/
  | dutyTakesEffect
  /-- LEAVE_GRANT (R135, event). -/
  | leaveGrant
  /-- SEGMENT_LANDED (R133, event). -/
  | segmentLanded
  /-- CORE_QUARANTINE (R137, event). -/
  | coreQuarantine
  /-- SPARE_SHIFT (R138, event). -/
  | spareShift
  /-- SEAL_EFFECT (R290, event). -/
  | sealEffect
  /-- UNSEAL_EFFECT (R290, event). -/
  | unsealEffect
  /-- PUBLISH_SERIALISE (R291, event). -/
  | publishSerialise
  /-- PUBLISH_EFFECT (R291, event). -/
  | publishEffect
  /-- MCMD_TIMEOUT (R245, event). -/
  | mcmdTimeout
  /-- GANG_FORM (R269, event). -/
  | gangForm
  /-- MATRIX_COMMAND_ADMIT (R227, event). -/
  | matrixCommandAdmit
  /-- MATRIX_COMMAND_BEGIN (R228, event). -/
  | matrixCommandBegin
  /-- MATRIX_COMMAND_RETIRE (R228, event). -/
  | matrixCommandRetire
  /-- MATRIX_SCRUB (R247, event). -/
  | matrixScrub
  /-- SPIRE_GROUP_FORM (R376, event). -/
  | spireGroupForm
  /-- SPIRE_RESULT_DELIVERY (R385, event). -/
  | spireResultDelivery
  /-- SPIRE_FAULT_DELIVERY (R388, event). -/
  | spireFaultDelivery
  /-- REQUEST_ACCEPT (R278, event). -/
  | requestAccept
  /-- TRANSLATION_WALK (R285, event). -/
  | translationWalk
  /-- WALK_ENTRY_REPLY (R285, event). -/
  | walkEntryReply
  /-- DIE_SRAM_SERVICE (R280, event). -/
  | dieSramService
  /-- LOAD_TABLE_COMPARE (R279, event). -/
  | loadTableCompare
  /-- DOME_SERVICE (R367, event). -/
  | domeService
  /-- DOME_REQUEST_COMPLETE (R367, event). -/
  | domeRequestComplete
  /-- MEMORY_REPLY (R194, event). -/
  | memoryReply
  /-- AGENT_STATE_ERROR (R296, event). -/
  | agentStateError
  /-- PHASE_PUBLISH (R293, event). -/
  | phasePublish
  /-- TRANSFER_BEGIN (R262, event). -/
  | transferBegin
  /-- ENGINE_SLOT_SERVICE (R267, event). -/
  | engineSlotService
  /-- TRANSFER_COMPLETE (R262, event). -/
  | transferComplete
  /-- STREAM_REFILL_ARRIVAL (R266, event). -/
  | streamRefillArrival
  /-- CLUSTER_FAILURE (R274, event). -/
  | clusterFailure
  /-- INJECT (R348, event). -/
  | inject
  /-- WORD_FORWARD (R342, event). -/
  | wordForward
  /-- MARKER_PHASE_STEP (R355, event). -/
  | markerPhaseStep
  /-- QUEUE_BEAT (R351, event). -/
  | queueBeat
  /-- FILL (R128, event). -/
  | fill
  /-- WINDOW_BEAT (R219, event). -/
  | windowBeat
  /-- TAG_WRITE (R219, event). -/
  | tagWrite
  /-- MATRIX_COMMAND (R246, event). -/
  | matrixCommand
  /-- COMMAND_REPLY (R245, event). -/
  | commandReply
  /-- OPEN (R361, event). -/
  | openCircuit
  /-- RESIZE (R361, event). -/
  | resizeCircuit
  /-- CLOSE (R362, event). -/
  | closeCircuit
  /-- JOIN_MEMBER (R357, event). -/
  | joinMember
  /-- LEAVE_MEMBER (R357, event). -/
  | leaveMember
  /-- QUERY (R363, event). -/
  | queryCircuit
  /-- CIRCUIT_CHANGE_EFFECT (R362, event). -/
  | circuitChangeEffect
  /-- RECEIVE_PORT_CLOSE_UNBIND (R362, event). -/
  | receivePortCloseUnbind
  /-- CONFIG_BEAT (R339, event). -/
  | configBeat
  /-- LAUNCH_READY (R328, event). -/
  | launchReady
  /-- TASK_SELECT (R329, event). -/
  | taskSelect
  /-- TASK_BIND (R320, event). -/
  | taskBind
  /-- TASK_FAULT_END (R328, R412, event). -/
  | taskFaultEnd
  /-- LAUNCH_COMPLETE (R328, event). -/
  | launchComplete
  /-- COMPLETION_RECORD_WRITE (R328, event). -/
  | completionRecordWrite
  /-- STEAL_REQUEST_SEND (R331, event). -/
  | stealRequestSend
  /-- STEAL_REQUEST (R331, event). -/
  | stealRequest
  /-- SINK_WATCHDOG (R332, event). -/
  | sinkWatchdog
  /-- DOORBELL (R416, event). -/
  | doorbell
  /-- CQHEAD_WRITE (R416, event). -/
  | cqheadWrite
  /-- REGISTER_WRITE (R415, event). -/
  | registerWrite
  /-- VF_ABSENT_REQUEST (R414, event). -/
  | vfAbsentRequest
  /-- LAUNCH (R417, event). -/
  | launchCmd
  /-- REGSET (R417, event). -/
  | regset
  /-- REGDROP (R417, event). -/
  | regdrop
  /-- CTXSET (R438, event). -/
  | ctxset
  /-- CTXDROP (R417, event). -/
  | ctxdrop
  /-- SWITCH (R417, event). -/
  | switchCmd
  /-- SCHED (R428, event). -/
  | sched
  /-- HOST_SPLIT (R414, event). -/
  | hostSplit
  /-- POWER (R473, event). -/
  | power
  /-- TELEM (R473, event). -/
  | telem
  /-- PATCH (R475, event). -/
  | patch
  /-- ATTEST (R476, event). -/
  | attest
  /-- SERVICE_QUARANTINE (R477, event). -/
  | serviceQuarantine
  /-- SERVICE_RETEST (R477, event). -/
  | serviceRetest
  /-- SERVICE_RETRAIN (R478, event). -/
  | serviceRetrain
  /-- RETRAIN_COMPLETE (R478, event). -/
  | retrainComplete
  /-- SERVICE_RETIRE_DOME (R479, event). -/
  | serviceRetireDome
  /-- FABRIC (R486, event). -/
  | fabric
  /-- BLOCK_CHANGE_EFFECT (R413, event). -/
  | blockChangeEffect
  /-- SWITCH_SCHEDULE (R420, event). -/
  | switchSchedule
  /-- SWITCH_CANCEL (R420, event). -/
  | switchCancel
  /-- HSWITCH_SCHEDULE (R420, event). -/
  | hswitchSchedule
  /-- HSWITCH_CANCEL (R420, event). -/
  | hswitchCancel
  /-- SWITCH_WARNING (R420, event). -/
  | switchWarning
  /-- SCHEDULED_SWITCH (R421, event). -/
  | scheduledSwitch
  /-- SWITCH_SAVE (R421, event). -/
  | switchSave
  /-- SWITCH_RESTORE (R421, event). -/
  | switchRestore
  /-- CORE_RESUME (R421, event). -/
  | coreResume
  /-- SCHED_QUANTUM (R428, event). -/
  | schedQuantum
  /-- FCMD_WRITE (R467, event). -/
  | fcmdWrite
  /-- FREQUENCY_CHANGE (R468, event). -/
  | frequencyChange
  /-- POWER_EPOCH (R470, event). -/
  | powerEpoch
  /-- TELEMETRY_READ (R472, event). -/
  | telemetryRead
  /-- POWER_ON (R474, event). -/
  | powerOn
  /-- STOP (R448, event). -/
  | stop
  /-- RESUME (R448, event). -/
  | resume
  /-- STEP (R449, event). -/
  | stepThread
  /-- CLAIM (R448, event). -/
  | claim
  /-- RELEASE (R448, event). -/
  | release
  /-- DBGDATA_ACCESS (R450, event). -/
  | dbgdataAccess
  /-- LANTERN_ENABLE (R456, event). -/
  | lanternEnable
  /-- LANTERN_FILTER (R457, event). -/
  | lanternFilter
  /-- LANTERN_WRITEBACK (R456, event). -/
  | lanternWriteback
  /-- BELL_ARM (R458, event). -/
  | bellArm
  /-- BELL_PULSE (R458, R459, event). -/
  | bellPulse
  /-- CNTPOL_WRITE (R463, event). -/
  | cntpolWrite
  /-- VIEW_LO_READ (R464, event). -/
  | viewLoRead
  /-- VIEW_HI_READ (R464, event). -/
  | viewHiRead
  /-- PTP_MESSAGE (R482, event). -/
  | ptpMessage
  /-- PORT_OFFSET_SUSPEND (R483, event). -/
  | portOffsetSuspend
  /-- PORT_OFFSET_RESUME (R483, event). -/
  | portOffsetResume
  /-- FABRIC_CELL_RECEIVE (R480, R484, event). -/
  | fabricCellReceive
  /-- TGT_SHED (R488, event). -/
  | tgtShed
  /-- TGT_RETRAIN (R488, event). -/
  | tgtRetrain
  /-- LANE_FAILURE (R489, event). -/
  | laneFailure
  /-- PORT_DOWN (R490, event). -/
  | portDown
  /-- ROTATION_SLOT (R460, event). -/
  | rotationSlot
  /-- REPLICA_FILL (R277, event). -/
  | replicaFill
  /-- LANE_REPAIR (R341, event). -/
  | laneRepair
deriving DecidableEq, Repr

end Sys2Proof
end

