-- ==== Sys2Proof/Machine/State.lean ====
section
/-! DEFINITION. The state of the EVD-160 as plain data (INVENTORY.md lists each piece with its rule), the reasons a step
can stop, and the machine after reset. -/

namespace Sys2Proof.Machine

set_option Elab.async false

/-! ## Stops -/

/-- The faults of a step. No instruction of the spec stops the machine: every trap is a next state. -/
inductive Fault where
  /-- Raised by no instruction; kept so that the type has a value. Safe: a step never answers it. -/
  | none
deriving DecidableEq, Repr

/-- The refusals of a step. -/
inductive Refusal where
  /-- An instruction of the table whose meaning is not written. Raised by Dispatch alone; safe. -/
  | notModelled (mnemonic : String)
deriving DecidableEq, Repr

/-! ## One thread (02, 05, 06, 07, 10, 11, 12, 24) -/

/-- The F/E state of a register (R25); a Poisoned register keeps the pc of the load that filled it. -/
inductive FE where
  | empty | full | pending
  | poisoned (pc : Word)
deriving DecidableEq, Repr

/-- The state of a thread slot (R122). -/
inductive Run where
  | vacant | running | parked | stopped | quarantined
deriving DecidableEq, Repr

/-- What ends a park at step 4 of R35 (R125). -/
inductive Wake where
  /-- The scalar register leaves Empty (R125 cause 0). -/
  | sFilled (r : Nat)
  | vFilled (r : Nat)
  /-- The register's reply has arrived (cause 1). -/
  | sReplied (r : Nat)
  | vReplied (r : Nat)
  /-- The full bit of the TCM word changes (cause 2). -/
  | word (a : Nat)
  /-- Receive port n has `need` elements, or its overflow flag is set (cause 3). -/
  | inq (n need : Nat)
  /-- Send port n has room (cause 4). -/
  | outq (n : Nat)
  /-- Send port n is empty (R216). -/
  | outqEmpty (n : Nat)
  /-- Window n has room and no transfer runs through it (cause 4). -/
  | win (n : Nat)
  /-- Stream j has `need` entries and its tag word is Full (cause 5). -/
  | stream (j need : Nat)
  /-- The power gate has granted this thread's request (cause 7). -/
  | leave
  /-- A masked interrupt source is pending (cause 8). -/
  | event (mask : BitVec 8)
  /-- Channel ch has DONE at n or above (cause 10). -/
  | engine (ch n : Nat)
  /-- The published count of a die held here is at k or above (cause 11). -/
  | phase (die k : Nat)
  /-- None of the matrix commands is in flight (cause 13, R240). -/
  | commands (ids : List Nat)
  /-- The tiles have no other owner (cause 13, R241). -/
  | tile (t : TileSel)
  /-- A gang of 2^k cores forms, or the leader reaches the bundle (cause 14). -/
  | gangForm (k : Nat)
  | join
deriving DecidableEq, Repr

/-- A park: its cause, the operand number or TCM address that fe-timeout reports, what wakes it, whether the awaited word
has changed, the revolution boundaries it has spanned (R125 to R127), and the syllable the operand is of (R120). -/
structure Park where
  cause : Nat
  operand : Word
  wake : Wake
  woken : Bool
  bounds : Nat
  /-- The operand is one of the V syllable. -/
  slotV : Bool
deriving DecidableEq, Repr

/-- One beat of a circuit with its envelope (R351). -/
structure Beat where
  data : Vec
  env : BitVec 88
deriving DecidableEq, Repr

/-- A location that both syllables of a bundle might write (R36). -/
inductive Loc where
  | s (r : Nat)
  | v (r : Nat)
  | p (r : Nat)
  | port (n : Nat)
deriving DecidableEq, Repr

/-- A shape record as the eight doublewords that were read (R203, R204). -/
structure Rec where
  w0 : Word
  w1 : Word
  w2 : Word
  w3 : Word
  w4 : Word
  w5 : Word
  w6 : Word
  w7 : Word
deriving DecidableEq, Repr

/-- Kinds of matrix command (R227, R244). -/
inductive MKind where
  | mldb | mma | vacczr
deriving DecidableEq, Repr

/-- What a thread asks of the power gate: leave for an `mma` or a heavy transfer, or admission alone (R135, R227). -/
inductive GateKind where
  | mma | heavy | plain
deriving DecidableEq, Repr

/-- A matrix command, admitted or awaiting admission (R225, R227, R246). -/
structure MCmd where
  kind : MKind
  t : TileSel
  bm : BitVec 4
  rcd : Rec
  /-- K, N of the B tile, and M of A; the rank of the record's core for partitions (R205, R230). -/
  k : Nat
  n : Nat
  m : Nat
  rank : Nat
  ty : Nat
  /-- Reply circuit, sender register and value of a remote command's completion fill (R246). -/
  creg : Nat
  cval : Word
  rhandle : Word
  id : Nat
  /-- The wheel count by which the command retires, once it has begun (R228, log 6). -/
  ends : Option Nat
  /-- A remote command's beat, sender's `tid`, sequence number and wheel count of acceptance (R246, R425). -/
  sent : Vec
  sender : Nat
  seq : Nat
  at_ : Nat
  /-- The slot whose bundle has not come to step 6: the command has its place in the queue and does not begin (R227, R38). -/
  hold : Option Nat
deriving DecidableEq, Repr

/-- Where the bytes of an access lie (R276, R287, R297). -/
inductive Home where
  | none
  | sram (a : Nat)
  | dome (d off : Nat)
  /-- CPA of another module (R487). -/
  | far (mod cpa : Nat)
deriving DecidableEq, Repr

/-- One access of a memory instruction: address and bytes; the element's bit offset and width within them and its bit
position in the register; the value it stores or has read; its home; whether the home holds it in a queue, and whether it
has been performed. -/
structure Acc where
  va : Nat
  len : Nat
  bit : Nat
  w : Nat
  pos : Nat
  data : Nat
  home : Home
  /-- Module and CPA, for an access in `.g`. -/
  mod : Nat
  cpa : Nat
  queued : Bool
  done : Bool
  /-- A byte it read carries an uncorrectable error (R295). -/
  bad : Bool
deriving DecidableEq, Repr

/-- Where the value of a request goes at its reply (R194). -/
inductive Dest where
  | none
  /-- Scalar register, with the access width in bytes and sign extension (R201). -/
  | sreg (r : Nat) (sx : Bool)
  | vreg (r : Nat)
  /-- The bytes go to the in-flight bundle of the thread under this key. -/
  | bundle (key : Nat)
  /-- The bytes of a `cmreq` go to the belfry, whose reply completes the key (R358). -/
  | belfry (key : Nat)
deriving DecidableEq, Repr

/-- What a transfer does with each element (R255, R257). -/
inductive XOpKind where
  | copy | addF32 | addI32
deriving DecidableEq, Repr

/-- Who makes a request: a thread, a channel of a cluster's copy engine, or a stream of the thread (R278). -/
inductive Requester where
  | thread
  | engine (cl ch : Nat)
  | stream (j : Nat)
deriving DecidableEq, Repr

/-- What a memory request does at its home. -/
inductive ReqKind where
  | load
  | store
  | amo (op : AmoOp)
  | cas (expected : Word)
  /-- Read with permission X (R283). -/
  | fetch
  | seal
  | unseal
  | publish
  /-- The 64 bytes of a `cmreq`, with permissions R and W (R358). -/
  | cm
  /-- The addition of a `cpyr`: its operation and the source's TYPE; the data is the source pattern with its scale from bit 64 up
  (R257). -/
  | add (op : XOpKind) (ty : Nat)
deriving DecidableEq, Repr

/-- One read of a table by a walker: still to be sent, on its way or at its home, its reply arrives at a wheel count, or a beat of it
has been lost (R285, R341). -/
inductive WalkRead where
  | toSend
  | sent
  | reply (at_ : Nat)
  | lost (at_ : Nat)
deriving DecidableEq, Repr

/-- The progress of a request through its die's agent (R278 to R280, R285). -/
inductive Stage where
  | waiting
  /-- A walker reads the tables for a VA: the page walked, the reads made, the current read, and the entries that other modules have
  answered, by module and CPA (R285, R487). -/
  | walking (va reads : Nat) (now : WalkRead) (far : List ((Nat × Nat) × Nat))
  | accepted
  /-- A load that has been compared with the pending-store table and waits for the writes listed (R279). -/
  | held (ids : List Nat)
  /-- Performed at the wheel count given; a load replies at `due`. -/
  | performed (due : Nat)
deriving DecidableEq, Repr

/-- A memory request of a thread, of a transfer or of a stream that a thread has started (R193, R278). -/
structure Req where
  id : Nat
  tid : Tid
  who : Requester
  ctx : Nat
  region : Nat
  launch : Nat
  mode : Nat
  space : Space
  kind : ReqKind
  accs : List Acc
  ord : MOrd
  sco : Scope
  phase : Nat
  dest : Dest
  pc : Word
  stage : Stage
  /-- Place in the die order once accepted. -/
  seq : Nat
  /-- Wheel count of acceptance. -/
  at_ : Nat
  poisoned : Bool
  /-- The address at which a watch with ACT 1 matches: the breakpoint ranks after every check of the access (R110, R453). -/
  brk : Option Word
  /-- The place in die order at which its thread has made an access of `.l` or `.c` before this load was performed: it takes no bytes
  that were written later (R301). -/
  cap : Option Nat
  /-- In `.d`, the first slot that may serve it; in `.g`, the latest arrival of a reply to one of its accesses (R280, R369). -/
  due : Nat
  /-- The element at which a request of the engine or of a stream meets a fault, with its cause and address: the request covers the
  elements before it (R222, R264). -/
  doom : Option (Nat × Nat × Word)
deriving DecidableEq, Repr

/-- The selection of a copy-engine destination (R254). -/
inductive XDst where
  | rcd (r : Rec)
  | reg (vec : Bool) (core slot regn : Nat)
  /-- A window transfer keeps the binding, cursor and tag it took at acceptance (R260). -/
  | win (n : Nat) (circ wbase wlen cursor tag : Nat) (tagen : Bool)
deriving DecidableEq, Repr

/-- Where a transfer stands with the elements from its position on: none in hand; a request reads the sources of n elements; their
values are here, each a pattern and a scale, with the fault that ends the transfer after them; a request writes n elements (R256,
R264). -/
inductive XStage where
  | idle
  | reading (id n : Nat)
  | fetched (vals : List (Nat × Nat)) (doom : Option (Nat × Word))
  | writing (id n : Nat) (doom : Option (Nat × Word))
deriving DecidableEq, Repr

/-- One accepted transfer (R255 to R264). -/
structure Transfer where
  id : Nat
  tid : Tid
  ctx : Nat
  region : Nat
  mode : Nat
  /-- Launch and task of the thread that issued it. -/
  launch : Nat
  task : Nat
  rank : Nat
  op : XOpKind
  src : Rec
  dst : XDst
  heavy : Bool
  phase : Nat
  /-- Next element or strip, and whether the channel has begun it. -/
  pos : Nat
  begun : Bool
  stage : XStage
deriving DecidableEq, Repr

/-- The effects of a syllable at step 5 or 6 of R35, as data. -/
inductive Eff where
  | sreg (r : Nat) (v : Word)
  | vreg (r : Nat) (v : Vec)
  | sEmpty (r : Nat)
  | vEmpty (r : Nat)
  | sPend (r : Nat)
  | vPend (r : Nat)
  | preg (p : Nat) (v : Word)
  /-- A beat pushed onto send port n. -/
  | push (n : Nat) (b : Beat)
  | pop (n : Nat)
  | popStream (j : Nat)
  /-- A window write: value, mask width code, mask (R219, R351). -/
  | win (n : Nat) (v : Vec) (wc : Nat) (mask : Word)
  /-- n bytes of TCM or scratchpad. -/
  | tcm (a n v : Nat)
  | scratch (a n v : Nat)
  | full (a : Nat) (f : Bool)
  /-- An access of `.l` or `.c` is made: the thread's loads on their way come before it (R301). -/
  | boundLoads
  | jump (t : Word)
  /-- The new value of a CSR; a W1C field holds the bits it receives (R114). -/
  | csr (n : Nat) (v : Word)
  | plive (m : BitVec 8)
  | eret
  | sfence (v ctx region : Nat) (h : Bool)
  | ipi (target : Word) (code : BitVec 8)
  | trace (kind : Nat) (arg : Nat) (word2 : Word)
  | bindRx (n circ rbase rlen : Nat)
  | bindTx (n circ : Nat)
  | unbind (sel : Nat)
  | winb (n circ wbase wlen tag : Nat) (tagen : Bool)
  | winUnbind (n : Nat)
  | sbind (j : Nat) (r : Rec)
  | sunbind (j : Nat)
  /-- Segment unload, and the start of a landing from the header bytes the read returned (R132). -/
  | unload (seg : Nat)
  | land (seg key addr : Nat) (space : Space)
  | post (r : Req)
  | transfer (ch : Nat) (x : Transfer) (dest : SOp)
  /-- Leave or admission is used, by the S or the V syllable; a request that the bundle no longer needs is withdrawn. -/
  | leave (k : GateKind) (slotV : Bool)
  | noLeave (slotV : Bool)
  | setph (k : Nat)
  | gang (k : Nat)
  | split
  /-- A command takes its place in the queue at step 4, and is free to begin at step 6 (R227). -/
  | offer (c : MCmd)
  | admitted
  | tileRow (t : Nat) (row c0 : Nat) (v : Vec) (mask : Word)
  | claim (t : TileSel)
  | release (t : TileSel)
  /-- A claimed `brk` stops the thread at the following bundle (R106, R451). -/
  | stopBrk (code : Nat)
  /-- Commands that carry the values their entries read. -/
  | mcmd (n : Nat) (data : Vec) (cap : Word) (key : Nat)
  | spawn (desc : Rec) (hard : Bool) (die : Nat) (x : SOp)
  | launch (a : Word) (key : Nat) (x : SOp)
  | trig
  | spjoin (ch : Nat) (w : Word) (key : Nat)
  | spire (ch : Nat) (op : Nat) (v : Vec) (s : Word) (key : Nat)
  /-- The bytes a wait leaves under its key go to a register at step 6, Poisoned with the pc where the reply was. -/
  | sregOf (r : Nat) (key n : Nat) (sx : Bool) (pc : Word)
  | vregOf (r : Nat) (key : Nat) (pc : Word)
  /-- The doubleword a wait leaves under its key is pushed on a send port. -/
  | pushOf (n : Nat) (key : Nat)
deriving DecidableEq, Repr

/-- A wait at step 5 of R35 (R125). -/
inductive Wait5 where
  /-- Until an event completes the key; the cause is that of R125. -/
  | key (cause k : Nat)
  /-- Until no request of the list is unperformed or unreplied (R307); the cause is that of R125. -/
  | requests (cause : Nat) (ids : List Nat)
  /-- Until every transfer (cluster, channel, identifier) has completed (R307 eng). -/
  | transfers (l : List (Nat × Nat × Nat))
  /-- Until none of the matrix commands is in flight (R242). -/
  | commands (ids : List Nat)
  /-- Until the wheel reaches the count (R290, R291). -/
  | wheel (e : Nat)
  /-- The conditions of halt (R104). -/
  | drain
  /-- Room in the channel queue, or in a send queue (R245, R255). -/
  | channel (ch : Nat)
  | room (n : Nat)
  /-- Room in a die's task queues within the context's quota (R324). -/
  | quota (die : Nat)
  /-- The `mfence` of a restored bundle, whose set of commands is taken anew (R242). -/
  | refence
  /-- No wait: an effect that step 5 has once the waits before it have ended. -/
  | act (e : Eff)
deriving DecidableEq, Repr

/-- Why a syllable stops before its effects (R35, R110). -/
inductive Stop where
  | trap (step cause : Nat) (tval : Word) (elem : Nat)
  /-- A park at step 4; `gate` is the request it makes of the power gate (R135, R227). -/
  | park (p : Park) (gate : Option GateKind)
  /-- A watch with ACT 0 stops the thread at the unissued bundle (R453). -/
  | watch
  /-- `twait` meets the fault record of a channel, which the trap clears (R265). -/
  | engine (ch cause : Nat) (tval : Word)
deriving DecidableEq, Repr

/-- What one syllable of a bundle came to. -/
structure SylOut where
  enabled : Bool
  /-- Locations written, each with its operand number (R36). -/
  dests : List (Loc × Nat)
  stop : Option Stop
  eff5 : List Eff
  waits : List Wait5
  eff6 : List Eff
  /-- Ports and streams read so far, one entry for each pop (R37). -/
  pops : List Nat
  spops : List Nat
  /-- Leave used so far, and the matrix commands for which a tile access waits (R240). -/
  gates : List GateKind
  fixed : Option (List Nat)
  keys : Nat
deriving DecidableEq, Repr

/-- A bundle past step 4 that waits at step 5: the waits left, the effects of step 6, and the bytes that arrived under
each key. -/
structure Inflight where
  waits : List Wait5
  eff6 : List Eff
  /-- The bytes that arrived under a key; none when the reply was Poisoned. -/
  got : List (Nat × Option (List Byte))
deriving DecidableEq, Repr

/-- One receive port (R213 to R216). -/
structure Rx where
  circ : Option Nat
  rbase : Nat
  rlen : Nat
  q : List Vec
  /-- Oldest ring beat and number of ring beats (R215). -/
  rhead : Nat
  rcount : Nat
  overflow : Bool
  /-- The circuit's close has been made; the port unbinds when it has drained (R362). -/
  closing : Bool
deriving DecidableEq, Repr

/-- One bound window (R218, R219, R260). -/
structure Win where
  circ : Option Nat
  wbase : Nat
  wlen : Nat
  cursor : Nat
  tag : Nat
  tagen : Bool
deriving DecidableEq, Repr

/-- One entry of a stream FIFO: a value, poison, or the cause and address of a faulted refill (R222). -/
inductive FifoEntry where
  | val (v : Vec)
  | poison
  | fault (cause : Nat) (addr : Word)
deriving DecidableEq, Repr

/-- One stream register (R220 to R223). -/
structure Stream where
  on : Bool
  rcd : Rec
  next : Nat
  fifo : List FifoEntry
  checked : Bool
  pc : Word
  /-- The request whose reply brings the next entries, and how many elements it asks for (R266). -/
  asked : Option (Nat × Nat)
deriving DecidableEq, Repr

/-- Membership of a gang (R268 to R273). -/
structure Gang where
  k : Nat
  /-- The gang has formed and the member's `gang` bundle has not completed. -/
  forming : Bool
  attached : Bool
  /-- Bundles issued in lock-step since the gang formed (R270). -/
  count : Nat
deriving DecidableEq, Repr

/-- An `mcmd` that waits at step 5 (R245): its key, sequence number, capability and port, the circuit, and the wheel count at which the beat left the queue. -/
structure McmdWait where
  key : Nat
  seq : Nat
  cap : Word
  port : Nat
  circ : Nat
  leftAt : Option Nat
deriving DecidableEq, Repr

/-- Debug state of a thread (R447 to R453). -/
structure Dbg where
  why : Nat
  bcode : Nat
  stepping : Bool
  agent : Option Tid
  skipOnce : Bool
  /-- A STOP that waits for a step 5 wait to complete, with its WHY. -/
  stopReq : Option Nat
  bp0 : Word
  bp1 : Word
  wp : Word
deriving DecidableEq, Repr

/-- One thread slot. -/
structure Thread where
  run : Run
  sval : Vector Word 32
  sfe : Vector FE 32
  vval : Vector Vec 16
  vfe : Vector FE 16
  pval : Vector Word 8
  pc : Word
  /-- The thread CSRs of R118. -/
  plive : BitVec 8
  round : BitVec 3
  srkey : Word
  phase : Word
  felimit : BitVec 32
  status : Word
  tvec : Word
  epc : Word
  cause : Word
  tval : Word
  hstatus : Word
  htvec : Word
  hepc : Word
  hcause : Word
  htval : Word
  hdeleg : Word
  /-- Trace and counter CSRs (R454, R460, R461). -/
  trcen : Word
  cntirq : Word
  crot : Word
  cissue : Word
  cduty : Word
  cstop : Word
  cpark : Vector Word 16
  /-- Debug CSRs of the slot (R447). -/
  dbgsel : Word
  dbgctl : Word
  dbgidx : Word
  dbg : Dbg
  park : Option Park
  inflight : Option Inflight
  /-- A fault that has come to the waiting bundle and is taken in the thread's next slot: cause, tval, syllable. -/
  failed : Option (Nat × Word × Bool)
  /-- The first bundle of a handler has not issued yet: none, S or H (R111). -/
  fresh : Nat
  heldFills : List (Bool × Nat × Vec)
  ctx : Nat
  region : Nat
  launch : Nat
  task : Nat
  rank : Nat
  index : Nat
  triggered : Bool
  used : BitVec 8
  rx : Vector Rx 4
  tx : Vector (Option Nat) 4
  win : Vector Win 4
  streams : Vector Stream 8
  mcmdSeq : BitVec 16
  mwait : Option McmdWait
  gang : Option Gang
  /-- The matrix commands admitted before the bundle at pc first reached its wait for a tile (R240). -/
  tileWait : Option (List Nat)
  /-- The pc has run past bundle 4,095 of its segment: the successor traps segment-miss whatever its address names (R101). -/
  ranOff : Bool
deriving DecidableEq, Repr

/-! ## One core (07, 10, 11, 24) -/

/-- Where a segment's image stands, and for whom it is read: the space, the context, region and mode, and the address (R132,
R320, R423). -/
structure SegSrc where
  space : Space
  ctx : Nat
  region : Nat
  mode : Nat
  addr : Nat
deriving DecidableEq, Repr

/-- A landed segment, or one whose bundles are arriving (R130 to R133). -/
structure Segment where
  num : Nat
  len : Nat
  src : SegSrc
  bundles : List Bundle
deriving DecidableEq, Repr

/-- A landing under way: header fields and the request that copies its bundles (R132). -/
structure Landing where
  seg : Nat
  hdr : List Byte
  src : SegSrc
  tid : Tid
  poisoned : Bool
deriving DecidableEq, Repr

/-- A request of the power gate, in the order made (R135, R227). -/
structure GateReq where
  /-- The slot that asks; none for the remote command of the same id. -/
  slot : Option Nat
  id : Nat
  kind : GateKind
  granted : Bool
  /-- The request is of the slot's V syllable. -/
  slotV : Bool
deriving DecidableEq, Repr

/-- The record of one B bank (R225). -/
structure Bank where
  loaded : Bool
  set : BitVec 4
  k : Nat
  n : Nat
  ty : Nat
deriving DecidableEq, Repr

/-- One core. -/
structure Core where
  slots : Vector Thread 8
  tcm : Memory
  /-- Addresses of the TCM words that are Full (R197). -/
  full : List Nat
  rot : Nat
  duty : Nat
  dutyNext : Option Nat
  segs : List Segment
  landings : List Landing
  gate : List GateReq
  /-- Heavy transfers of the core in flight (R135). -/
  heavy : Nat
  banks : Vector Bank 4
  bankMem : Memory
  tiles : Memory
  owner : Vector (Option Nat) 2
  mq : List MCmd
  remote : List MCmd
  mnext : Nat
  trace : List (List Word)
  traceLost : Bool
  quarantined : Bool
  /-- Written bits of the 4 KiB granules, rising: TCM granules 0 to 127, bank granules from 128 (R426). -/
  written : List Nat
  /-- In this power epoch: rotations, those in which a thread issued, and whether a Running thread met a closed one (R470). -/
  epochRot : Nat
  epochIssued : Nat
  epochClosed : Bool
  issuedNow : Bool
  /-- Restored and not yet resumed (R421 step 6). -/
  held : Bool
deriving DecidableEq, Repr

/-! ## One cluster (12) -/

/-- One channel of a copy engine (R252). -/
structure Chan where
  last : Nat
  done : Nat
  q : List Transfer
  /-- FID, CAUSE and TVAL of the first unreported fault. -/
  fault : Option (Nat × Nat × Word)
  more : Bool
deriving DecidableEq, Repr

structure Cluster where
  scratch : Memory
  chans : Vector Chan 8
  rr : Nat
  failed : Bool
  /-- Written bits of the scratchpad's 4 KiB granules (R426). -/
  written : List Nat
deriving DecidableEq, Repr

/-! ## One tower and one dome (13, 17) -/

/-- A sealed range of a context: a CPA range of `.g`, or a `.d` range of one die (R289); the effective counts of its seal and
of an `unseal` that has been accepted, and who waits for each (R290). -/
structure Seal where
  ctx : Nat
  die : Option Nat
  base : Nat
  len : Nat
  from_ : Nat
  until_ : Option Nat
  /-- Die and request of the `seal`, once its thread has gone on none; die and request of the `unseal`. -/
  sealer : Option (Nat × Nat)
  unsealer : Option (Nat × Nat)
deriving DecidableEq, Repr

/-- An entry of a walk cache: context, region, stage (true for the hypervisor stage), the address of the table entry as its
stage names it, the entry read, the range of its stage's addresses that it maps, and the hypervisor-stage page through which a
guest-stage table was read (R116, R285). -/
structure WalkEntry where
  ctx : Nat
  region : Nat
  hyper : Bool
  addr : Nat
  val : Word
  base : Nat
  size : Nat
  hbase : Nat
  hsize : Nat
deriving DecidableEq, Repr

/-- One entry of a translation cache (R285, R116): context, region, whether it is of H mode, the VA range mapped, its CPA and
module, the pages of its guest-stage and hypervisor-stage leaves, and the permissions granted. -/
structure TlbEntry where
  ctx : Nat
  region : Nat
  hyper : Bool
  va : Nat
  size : Nat
  cpa : Nat
  mod : Nat
  gbase : Nat
  gsize : Nat
  hbase : Nat
  hsize : Nat
  /-- GPA of the start of the range, and the permissions that each stage grants. -/
  gpa : Nat
  r : Bool
  w : Bool
  x : Bool
  u : Bool
  hr : Bool
  hw : Bool
  hx : Bool
deriving DecidableEq, Repr

/-- One task in a queue, selected, or bound (R318 to R324, R329, R425). -/
structure Task where
  id : Nat
  ctx : Nat
  launch : Nat
  /-- Task linear index, or the handle of a spawned task. -/
  index : Nat
  spawned : Bool
  entry : Word
  segaddr : Word
  arg : Word
  /-- Threads, and log2 of the gang size. -/
  thr : Nat
  gang : Nat
  pri : Nat
  region : Nat
  mode : Nat
  hard : Bool
  /-- Threads bound and not yet ended, and those of them neither triggered nor retired. -/
  live : Nat
  untrig : Nat
deriving DecidableEq, Repr

/-- The lantern of a tower: `lanblk`, who wrote it, the ring, the counters and the code copied at its enable (R456). -/
structure Lantern where
  lanblk : Word
  agent : Option Tid
  rbase : Nat
  rlen : Nat
  widx : Nat
  lost : Nat
  counts : Vector Word 16
  code : List (BitVec 32)
deriving DecidableEq, Repr

/-- One edge of a tower or dome: the wheel count from which a retrain suspends it, whether it has been suspended, and the function
whose service command waits for it; lanes mended with spares; whether it has failed (R341, R478). -/
structure Edge where
  suspended : Option Nat
  repaired : List Nat
  failed : Bool
  begun : Bool
  cmd : Option Nat
deriving DecidableEq, Repr

structure Die where
  sram : Memory
  /-- The last position of the SRAM's service that has been used, 8 in each slot (R280). -/
  sramUsed : Nat
  /-- Poisoned 64-byte granules, by first byte, and those whose error no read has found yet (R295). -/
  poison : List Nat
  latent : List Nat
  reqs : List Req
  seqNext : Nat
  tlb : List TlbEntry
  wcache : List WalkEntry
  /-- Published count by context, and the values held for other dies by 256 · die + context (R293). -/
  pd : List (Nat × Nat)
  held : List (Nat × Nat)
  /-- Greatest phase that a thread of each context has set here (log 13). -/
  pmax : List (Nat × Nat)
  /-- 64-byte granules held in the replica pool, by module, CPA and context (R277, R290). -/
  replicas : List (Nat × Nat × Nat × List Byte)
  /-- Contexts for which a slot has become Vacant since the scheduler last selected (R329). -/
  pick : List Nat
  /-- Queued tasks in order of arrival, the region served last by 8 · context + level, the task selected and not yet bound
  with its level, and the dies whose steal requests wait (R329 to R331). -/
  queue : List Task
  served : List (Nat × Nat)
  selected : List (Task × Nat)
  steals : List (Nat × Nat)
  lantern : Lantern
  edges : Vector Edge 4
  /-- Absent coordinates of the core map, and physical cores out of service, 16 · y + x (R138, R477). -/
  absent : List Nat
  bad : List Nat
  /-- Self-tests made of each physical core, by 16 · y + x. -/
  tests : List (Nat × Nat)
  /-- Its junction has exceeded 110 °C and has not yet read below 100 °C (R470). -/
  hot : Bool
deriving DecidableEq, Repr

/-- One access of a request as a dome sees it: tower, request and access number, none for a walker's read; the slot of its arrival;
and whether a later read has already seen it performed (R367, R368). -/
structure DomeReq where
  die : Nat
  id : Nat
  acc : Option Nat
  at_ : Nat
  applied : Bool
deriving DecidableEq, Repr

structure Dome where
  mem : Memory
  poison : List Nat
  latent : List Nat
  /-- Requests of each context in order of arrival, the last position used by each context, those in service with the slot at
  which they complete, and the owner of each position 16 · row + p of the service table (R366, R367). -/
  fifo : List (Nat × List DomeReq)
  used : List (Nat × Nat)
  serving : List (Nat × DomeReq)
  table : List (Nat × Nat)
deriving DecidableEq, Repr

/-! ## Circuits (10, 17) -/

/-- What made a beat that waits in a circuit's injection order (R219). -/
inductive InjSrc where
  | tx (t : Tid) (n : Nat)
  | win (t : Tid) (n : Nat)
  /-- A transfer of a channel of a cluster through a window of its thread. -/
  | engine (t : Tid) (cl ch id win : Nat)
  | unit
deriving DecidableEq, Repr

/-- A beat that waits to be injected, available to the router from wheel count t0 (R348, R352). -/
structure InjBeat where
  beat : Beat
  src : InjSrc
  t0 : Nat
  /-- A message after a release: the tower and the place in its die order up to which every write is to be performed first (R309). -/
  hold : Option (Nat × Nat)
deriving DecidableEq, Repr

/-- A router input port on a circuit's route: router and input direction, slots after injection at which a word enters it,
and the output set of each phase (R340, R342, R343). -/
structure Hop where
  router : Nat
  dir : Nat
  off : Nat
  outs : Vector Nat 4
deriving DecidableEq, Repr

/-- One circuit, kept under the key 65,536 · generation + number (R344 to R347, R362, R365). -/
structure Circuit where
  gen : Nat
  ctx : Nat
  region : Nat
  src : Nat
  dsts : List Nat
  nph : Nat
  mc : Bool
  slots : List Nat
  maxgap : Nat
  opened : Nat
  closed : Option Nat
  eff : Nat
  inj : List InjBeat
  /-- Wheel count of the last injection, if there has been one. -/
  lastInj : Option Nat
  hops : List Hop
  /-- Links and slots the circuit holds, as 1,024 · link + slot; those that a change has freed with the wheel count until
  which they stay held (R362). -/
  held : List Nat
  freed : List (Nat × Nat)
  /-- On-die hops, die crossings, dome traversals and Σ F of phase 0. -/
  hd : Nat
  hx : Nat
  hm : Nat
  fsum : Nat
  /-- A memory circuit: tower and dome (R365), or the other module with 65,536 added (R486). -/
  mem : Option (Nat × Nat)
deriving DecidableEq, Repr

/-! ## The network (17) -/

/-- An entry of a slot table (R342). -/
structure Entry where
  circ : Nat
  nph : Nat
  cur : Nat
  outs : Vector Nat 4
deriving DecidableEq, Repr

/-- A word on its way: it enters the input port `port` at a wheel count, or is written at a core (`port` is then the core's
key) when `eject` (R343); the circuit it was injected on. -/
structure Flight where
  at_ : Nat
  eject : Bool
  port : Nat
  circ : Nat
  beat : Beat
  src : InjSrc
  /-- What the grant table held for a matrix command when it reached its core, once it has: the entry's second word and its reply
  handle, or no valid entry (R243). -/
  grant : Option (Option (Word × Word))
deriving DecidableEq, Repr

/-- A write of a slot-table entry that waits at its router: when, the port and slot, the entry or its removal (R362). -/
structure TabWrite where
  at_ : Nat
  /-- The circuit whose entry it is: an entry of another stays (R371). -/
  circ : Nat
  key : Nat
  entry : Option Entry
deriving DecidableEq, Repr

/-- A configuration beat: when it next moves, die hubs still to pass, and the writes it carries (R339, R364). -/
structure CfgBeat where
  at_ : Nat
  left : Nat
  writes : List TabWrite
deriving DecidableEq, Repr

/-- A request at the belfry, with the copy of its block and when it arrives (R358, R361). -/
structure BelReq where
  t : Tid
  key : Nat
  ctx : Nat
  region : Nat
  mode : Nat
  addr : Nat
  blk : List Byte
  at_ : Nat
  /-- The open of a launch's circuit: launch handle (R328). -/
  launch : Option Nat
deriving DecidableEq, Repr

/-- What a change does at its wheel count E (R362). -/
inductive ChangeKind where
  | open_ | close
  | slots (l : List Nat)
  | join (e : Nat)
  | leave (e : Nat)
  | none
deriving DecidableEq, Repr

/-- A circuit change that takes effect at a wheel count, and the reply it then gives (R358, R362). -/
structure Change where
  e : Nat
  circ : Nat
  kind : ChangeKind
  reply : Option (Tid × Nat × Word)
deriving DecidableEq, Repr

/-- A fabric port (R481, R483). -/
structure FabPort where
  up : Bool
  peermod : Nat
  peerport : Nat
  lanes : Nat
  tgt : Nat
  f : Nat
  lostc : Nat
  suspended : Bool
  /-- Lanes that a shed or retrain brings into force at a wheel count. -/
  next : Option (Nat × Nat)
  /-- A failure that takes effect at a wheel count, with the lanes that still work: with none the port goes down (R489, R490). -/
  failAt : Option (Nat × Nat)
deriving DecidableEq, Repr

/-! ## Spire channels (18) -/

/-- A pending join: leaf position, thread and key, COUNT and entry wheel count (R376, R385). -/
structure SpireJoin where
  pos : Nat
  t : Tid
  key : Nat
  count : Nat
  e : Nat
deriving DecidableEq, Repr

/-- A contribution: its thread, mnemonic (0 spscan, 1 spred, 2 spbar, 3 spbc), descriptor or root rank, value, entry wheel count, and
the key under which the thread waits, 0 while it has still to issue again after a restore (R383, R391). -/
structure SpireContrib where
  t : Tid
  op : Nat
  d : Word
  v : Vec
  e : Nat
  key : Nat
deriving DecidableEq, Repr

/-- A member of a group, in order of position: its leaf and the thread that joined, the entry wheel count at which it was gone, its
next instance number, and its contributions to the instance in flight and, where other threads of the core go on, to the ones after it
(R375, R377, R383; log 106). -/
structure SpireMember where
  pos : Nat
  t : Tid
  gone : Option Nat
  inst : Nat
  contribs : List SpireContrib
deriving DecidableEq, Repr

/-- A result, or a fault of a kind, that is written at a leaf at a wheel count (R385, R388). -/
structure SpireRes where
  due : Nat
  t : Tid
  key : Nat
  kind : Option Nat
  v : Vec
deriving DecidableEq, Repr

/-- One spire channel. -/
structure SpireChan where
  holder : Option (Nat × Nat)
  joins : List SpireJoin
  members : List SpireMember
  results : List SpireRes
  /-- The wheel count and the kind of the fault that will dissolve the group, once it is certain (R388, R389). -/
  failing : Option (Nat × Nat)
deriving DecidableEq, Repr

/-! ## Tasks, launches and contexts (15, 21) -/

/-- Where a launch stands (R326 to R328). -/
inductive LaunchStage where
  | waiting
  /-- The belfry opens the launch's circuits: opens not yet answered (R328). -/
  | opening (left : Nat)
  | running
  | done
deriving DecidableEq, Repr

/-- A launch of a context (R321 to R328). -/
structure Launch where
  blk : Vector Word 16
  stage : LaunchStage
  status : Nat
  shapes : List Rec
  circs : List Nat
  /-- Tower and affinity of each task, as the placement map gave them (R322). -/
  place : List (Nat × Bool)
  /-- Tasks of the index space that have not ended, tasks not yet bound, spawned tasks not ended. -/
  left : Nat
  unbound : Nat
  spawned : Nat
  /-- Threads of its tasks that a fault ended before they had triggered or retired (R326, R328). -/
  lost : Nat
  wheel : Nat
  ordsig : Nat
deriving DecidableEq, Repr

/-- A record of the keep for a context's host queue that waits to be written (R328, R416). -/
structure Record where
  status : Nat
  handle : Nat
  ordsig : Nat
  wheel : Nat
  /-- MSI-X vector that a record at the host raises (R414). -/
  vector : Nat
deriving DecidableEq, Repr

/-- A change of a region control block that takes effect at a wheel count (R413): the block, or its removal. -/
structure BlockChange where
  e : Nat
  ctx : Nat
  region : Option Nat
  blk : Option (Vector Word 32)
  /-- The function whose command this is (512 · port + function), with the command's queue index; the modules of FABRIC; the
  dome that a retirement empties. -/
  cmd : Option (Nat × Nat)
  modules : Option Word
  dome : Option Nat
deriving DecidableEq, Repr

/-- One flip of a two-backed region: its BASE, its effective count, and the pages that it exchanges as pairs of module and CPA pages,
BASE backing and SHADOW backing (R291). -/
structure Flip where
  base : Nat
  e : Nat
  pages : List ((Nat × Nat) × (Nat × Nat))
deriving DecidableEq, Repr

/-- One context as the keep holds it (R409 to R413, R419, R447, R466, R467). -/
structure Ctx where
  installed : Bool
  blk : Vector Word 32
  regions : List (Nat × Vector Word 32)
  nextHandle : Nat
  nextTask : Nat
  launches : List (Nat × Launch)
  tasks : List (Nat × Task)
  ordsig : Nat
  records : List Record
  /-- The two-backed regions that have been published (R291). -/
  flips : List Flip
  /-- Wheel count from which the watchdog counts, and whether it has reported since (R332). -/
  sinkAt : Nat
  silent : Bool
  /-- `switch` (R419), `fcmd` of the context (R467), LEVEL (R466), `cntpol` (R447). -/
  switch : Word
  warned : Bool
  fcmd : Word
  level : Nat
  cntpol : Word
  cntpolNext : Option Word
  /-- Raw counters 0, 1, 2 and 4, by number (3 stays 0: the hardware's errors are read from Config), their values at the revolution
  boundaries at which they had changed, newest first, and the world epoch (R462 to R464). -/
  raw : Vector Nat 5
  rawAt : List (Nat × Vector Nat 5)
  epoch : Nat
  /-- Switched out: the whole context, or its regions (R421, R422). -/
  out : Bool
  outRegions : List Nat
  /-- Created switched out, which R437 asks about (R438). -/
  bornOut : Bool
  /-- What the keep and the belfry hold of a switched-out context: threads and cores for all that the save images do not
  name, slot-table entries, spire channels and launch opens (R372, R390, R425; queued tasks stay in their queues, log 43). -/
  savedCores : List (Nat × Core)
  savedTab : List (Nat × Entry)
  savedSpire : List (Nat × SpireChan)
  savedChanges : List BelReq
  /-- Modules with open memory circuits (R486). -/
  modules : Word
  /-- Revolution at which it last began to run (R428). -/
  resumed : Nat
deriving DecidableEq, Repr

/-! ## The package -/

/-- How a syllable is issued: alone, as the S half of a bundle, or as the V half that completes one (R35, log 4). -/
inductive Pairing where
  | alone
  | first
  | second (o : SylOut)
deriving DecidableEq, Repr

/-- What an event acts on: the events that need less leave the rest at zero (log 3). -/
structure EvArg where
  t : Tid
  die : Nat
  unit : Nat
  i : Nat
  ctx : Nat
  port : Nat
  fn : Nat
  n : Nat
  v : Word
  w : Option Word
  z : Int
  data : Vec
  env : BitVec 88
  ok : Bool
deriving DecidableEq, Repr

/-- An event that is due, with what it acts on. -/
structure Event where
  what : Instr
  arg : EvArg
deriving DecidableEq, Repr

/-- A switch in progress (R421): contexts, or a context and its regions; its stage and when that stage ends. -/
inductive SwitchStage where
  | drain | save
deriving DecidableEq, Repr

structure Switch where
  ctx : Nat
  /-- The regions out and in of a region switch; else the incoming context stands in `inc`. -/
  regions : Option (Nat × Nat)
  inc : Nat
  stage : SwitchStage
  due : Nat
deriving DecidableEq, Repr

/-- One host function, 512 · port + number, 0 the physical function (R414, R415, R464). -/
structure Func where
  qbase : Word
  qen : Bool
  qlog2 : Nat
  tail : Nat
  head : Nat
  cqbase : Word
  cqen : Bool
  msie : Bool
  cqlog2 : Nat
  cqhead : Nat
  cqtail : Nat
  /-- BAR2 latches: bits [62:32] and the world epoch; MSI-X messages raised, by vector. -/
  latch : Vector (Option (Nat × Nat)) 8
  raised : Vector Nat 4
  /-- The command begun and not finished: it waits for a block change or a retrain, or for room for its record, whose status and wheel
  count are then owed (R416). -/
  busy : Bool
  owed : Option (Nat × Nat)
deriving DecidableEq, Repr

/-- The power budget tree's root (R470 to R473) and what it reads. -/
structure Power where
  limit : Nat
  limitNext : Option Nat
  /-- The excess taken from Lavail, in mW, and the last module power read. -/
  excess : Nat
  reading : Nat
deriving DecidableEq, Repr

/-- A core rail: the voltage in mV at a wheel count from which it moves to a target (R469). -/
structure Rail where
  mv : Nat
  from_ : Nat
  target : Nat
deriving DecidableEq, Repr

/-- An installed patch (R475). -/
structure Patch where
  routine : Nat
  version : Nat
  code : List Byte
deriving DecidableEq, Repr

/-- A lantern filter at work on one record (R457). -/
structure FilterRun where
  die : Nat
  record : List Word
  index : Nat
  f : Vector Word 16
deriving DecidableEq, Repr

structure State where
  cur : Tid
  pair : Pairing
  agenda : List Event
  arg : EvArg
  slotsPerRotation : Nat
  nextId : Nat
  wheel : Nat
  W : Nat
  modNo : Nat
  cores : List (Nat × Core)
  clusters : List (Nat × Cluster)
  dies : List (Nat × Die)
  domes : List (Nat × Dome)
  circuits : List (Nat × Circuit)
  ipis : List (Tid × Tid × Bool × BitVec 8)
  ctxs : List (Nat × Ctx)
  seals : List Seal
  spire : List (Nat × SpireChan)
  /-- The network: slot-table entries by 1,024 · input port + slot, discards by router, words on their way, table writes and
  configuration beats, changes that wait for their E. -/
  slotTab : List (Nat × Entry)
  discards : List (Nat × Nat)
  words : List Flight
  tabWrites : List TabWrite
  /-- The generation of the last opening of each circuit number that has been opened (R347). -/
  gens : List (Nat × Nat)
  cfgBeats : List CfgBeat
  changes : List Change
  /-- The belfry: requests by context, the context served last, and the wheel count at which it is free. -/
  belfry : List (Nat × List BelReq)
  belTurn : Nat
  belFree : Nat
  /-- The physical x that the core map leaves out of a row, by 8 · tower + row: 8, the spare, where none is listed (R138). -/
  shifted : List (Nat × Nat)
  ports : List (Nat × FabPort)
  /-- Signed wheel offset in ps; when the suspension by R483 began, and since when the offset is below 250 ps. -/
  offs : Int
  offsSince : Option Nat
  offsBelow : Option Nat
  hswitch : Word
  hwarned : Bool
  switching : List Switch
  sched : List Nat
  spl : Nat
  vfEnable : Nat
  /-- NumVFs of each port's SR-IOV capability, and its Unsupported Request completions (R414). -/
  numVfs : Vector Nat 2
  unsupported : Vector Nat 2
  /-- The system block, which the keep owns (R409; log 107). -/
  sysBlk : Vector Word 32
  funcs : List (Nat × Func)
  /-- Host memory of port p from 2^64 · p (R415). -/
  hostMem : Memory
  blkChanges : List BlockChange
  patches : List Patch
  power : Power
  rails : Vector Rail 10
  fcmdAll : Word
  /-- The contexts that the last writes of `fcmd` and `cntpol` selected (R447, R467). -/
  fcmdSel : Nat
  cntpolSel : Nat
  telemAt : Nat
  boot : Nat
  bell : Word
  bellbuf : Word
  /-- The context of the thread that armed the bell: BUF is a CPA of it (R458, log 40). -/
  bellCtx : Nat
  lanRun : Option FilterRun
  /-- The homes of uncorrectable read errors as the keep has recorded them (R295). -/
  errors : List Home
deriving DecidableEq, Repr

/-! ## Reset -/

def Tid.zero : Tid := ⟨0, 0, 0⟩

def EvArg.none : EvArg := ⟨Tid.zero, 0, 0, 0, 0, 0, 0, 0, 0, Option.none, 0, 0, 0, false⟩

def Rec.zero : Rec := ⟨0, 0, 0, 0, 0, 0, 0, 0⟩

def Rx.reset : Rx := ⟨none, 0, 0, [], 0, 0, false, false⟩

def Win.reset : Win := ⟨none, 0, 0, 0, 0, false⟩

def Stream.reset : Stream := ⟨false, Rec.zero, 0, [], false, 0, none⟩

def Dbg.reset : Dbg := ⟨0, 0, false, none, false, none, 0, 0, 0⟩

/-- A slot after power-on: Vacant, every register zero and Full (R27, R118; log 1). -/
def Thread.reset : Thread where
  run := .vacant
  sval := Vector.replicate 32 0
  sfe := Vector.replicate 32 .full
  vval := Vector.replicate 16 0
  vfe := Vector.replicate 16 .full
  pval := Vector.replicate 8 0
  pc := 0
  plive := 0
  round := 0
  srkey := 0
  phase := 0
  felimit := 0
  status := 0
  tvec := 0
  epc := 0
  cause := 0
  tval := 0
  hstatus := 0
  htvec := 0
  hepc := 0
  hcause := 0
  htval := 0
  hdeleg := 0
  trcen := 0
  cntirq := 0
  crot := 0
  cissue := 0
  cduty := 0
  cstop := 0
  cpark := Vector.replicate 16 0
  dbgsel := 0
  dbgctl := 0
  dbgidx := 0
  dbg := Dbg.reset
  park := none
  inflight := none
  failed := none
  fresh := 0
  heldFills := []
  ctx := 0
  region := 0
  launch := 0
  task := 0
  rank := 0
  index := 0
  triggered := false
  used := 0
  rx := Vector.replicate 4 Rx.reset
  tx := Vector.replicate 4 none
  win := Vector.replicate 4 Win.reset
  streams := Vector.replicate 8 Stream.reset
  mcmdSeq := 0
  mwait := none
  gang := none
  tileWait := none
  ranOff := false

/-- A core after power-on (R124, R198, R225). -/
def Core.reset : Core where
  slots := Vector.replicate 8 Thread.reset
  tcm := []
  full := []
  rot := 0
  duty := 16
  dutyNext := none
  segs := []
  landings := []
  gate := []
  heavy := 0
  banks := Vector.replicate 4 ⟨false, 0, 0, 0, 0⟩
  bankMem := []
  tiles := []
  owner := Vector.replicate 2 none
  mq := []
  remote := []
  mnext := 0
  trace := []
  traceLost := false
  quarantined := false
  written := []
  epochRot := 0
  epochIssued := 0
  epochClosed := false
  issuedNow := false
  held := false

/-- A cluster after power-on (R198, R252). -/
def Cluster.reset : Cluster := ⟨[], Vector.replicate 8 ⟨0, 0, [], none, false⟩, 0, false, []⟩

def Lantern.reset : Lantern := ⟨0, none, 0, 0, 0, 0, Vector.replicate 16 0, []⟩

def Edge.reset : Edge := ⟨none, [], false, false, none⟩

/-- A tower after power-on (R198, R285, R289, R293, R329; log 2). -/
def Die.reset : Die where
  sram := []
  sramUsed := 0
  poison := []
  latent := []
  reqs := []
  seqNext := 0
  tlb := []
  wcache := []
  pd := []
  held := []
  pmax := []
  replicas := []
  pick := []
  queue := []
  served := []
  selected := []
  steals := []
  lantern := Lantern.reset
  edges := Vector.replicate 4 Edge.reset
  absent := []
  bad := []
  tests := []
  hot := false

/-- A dome after power-on; every position of its service table unowned (R366; log 2). -/
def Dome.reset : Dome := ⟨[], [], [], [], [], [], []⟩

/-- A fabric port after power-on (R481). -/
def FabPort.reset : FabPort := ⟨false, 0, 0, 0, 8, 0, 0, false, none, none⟩

/-- A host function after power-on (R415). -/
def Func.reset : Func := ⟨0, false, 6, 0, 0, 0, false, false, 6, 0, 0, Vector.replicate 8 none, Vector.replicate 4 0, false, none⟩

/-- A channel that no launch holds (R374). -/
def SpireChan.reset : SpireChan := ⟨none, [], [], [], none⟩

/-- A context that is not installed; LEVEL 15 (R466), HIDE 0xFF (R447), handles from 1 (R323). -/
def Ctx.reset : Ctx where
  installed := false
  blk := Vector.replicate 32 0
  regions := []
  nextHandle := 1
  nextTask := 1
  launches := []
  tasks := []
  ordsig := 1
  records := []
  flips := []
  sinkAt := 0
  silent := false
  switch := 0
  warned := false
  fcmd := 0xF0000000000
  level := 15
  cntpol := 0xFF0000000000
  cntpolNext := none
  raw := Vector.replicate 5 0
  rawAt := []
  epoch := 0
  out := false
  outRegions := []
  bornOut := false
  savedCores := []
  savedTab := []
  savedSpire := []
  savedChanges := []
  modules := 0
  resumed := 0

/-- No circuit: a number that no OPEN has taken (R347). -/
def Circuit.none : Circuit where
  gen := 0
  ctx := 0
  region := 0
  src := 0
  dsts := []
  nph := 0
  mc := false
  slots := []
  maxgap := 0
  opened := 0
  closed := some 0
  eff := 0
  inj := []
  lastInj := Option.none
  hops := []
  held := []
  freed := []
  hd := 0
  hx := 0
  hm := 0
  fsum := 0
  mem := Option.none

/-- The machine right after power-on (R118, R119, R198, R225, R252, R338, R474; logs 1, 2, 3, 6). -/
def State.reset : State where
  cur := Tid.zero
  pair := .alone
  agenda := []
  arg := EvArg.none
  slotsPerRotation := 11
  nextId := 0
  wheel := 0
  W := 256
  modNo := 0
  cores := []
  clusters := []
  dies := []
  domes := []
  circuits := []
  ipis := []
  ctxs := []
  seals := []
  spire := []
  slotTab := []
  discards := []
  words := []
  tabWrites := []
  gens := []
  cfgBeats := []
  changes := []
  belfry := []
  belTurn := 0
  belFree := 0
  shifted := []
  ports := []
  offs := 0
  offsSince := none
  offsBelow := none
  hswitch := 0
  hwarned := false
  switching := []
  sched := []
  spl := 128
  vfEnable := 0
  numVfs := Vector.replicate 2 0
  unsupported := Vector.replicate 2 0
  sysBlk := Vector.replicate 32 0
  funcs := []
  hostMem := []
  blkChanges := []
  patches := []
  power := ⟨24000, none, 0, 0⟩
  rails := Vector.replicate 10 ⟨550, 0, 550⟩
  fcmdAll := 0xF0000000000
  fcmdSel := 0
  cntpolSel := 0
  telemAt := 0
  boot := 0
  bell := 0
  bellbuf := 0
  bellCtx := 0
  lanRun := none
  errors := []

end Sys2Proof.Machine
end

