-- ==== Sys2Proof/Machine/Types.lean ====
section
/-! DEFINITION. Codes of the small fields and the widths and classes of the types
(spec/03_bundle_formats_and_opcode_map.md R49 to R53, spec/09_vector_instructions.md R165). -/

namespace Sys2Proof.Machine

set_option Elab.async false

/-- Type code of R52. -/
def tyCode : Ty → Nat
  | .f32 => 0 | .f16 => 1 | .bf16 => 2 | .e4m3 => 3 | .e5m2 => 4 | .e3m2 => 5 | .e2m3 => 6 | .e2m1 => 7
  | .mxe4m3 => 8 | .mxe5m2 => 9 | .mxe3m2 => 10 | .mxe2m3 => 11 | .mxe2m1 => 12 | .mxi8 => 13
  | .i16 => 14 | .i8 => 15 | .u8 => 16 | .i4 => 17 | .u4 => 18 | .i2 => 19
  | .i32 => 20 | .u32 => 21 | .i64 => 22 | .u64 => 23 | .u16 => 24

/-- The type of a code; 25 to 31 are reserved (R52). -/
def tyOf : Nat → Option Ty
  | 0 => some .f32 | 1 => some .f16 | 2 => some .bf16 | 3 => some .e4m3 | 4 => some .e5m2 | 5 => some .e3m2
  | 6 => some .e2m3 | 7 => some .e2m1 | 8 => some .mxe4m3 | 9 => some .mxe5m2 | 10 => some .mxe3m2
  | 11 => some .mxe2m3 | 12 => some .mxe2m1 | 13 => some .mxi8 | 14 => some .i16 | 15 => some .i8
  | 16 => some .u8 | 17 => some .i4 | 18 => some .u4 | 19 => some .i2 | 20 => some .i32 | 21 => some .u32
  | 22 => some .i64 | 23 => some .u64 | 24 => some .u16 | _ => none

/-- Container width in bits (R52). -/
def tyWidth : Ty → Nat
  | .f32 | .i32 | .u32 => 32
  | .f16 | .bf16 | .i16 | .u16 => 16
  | .e4m3 | .e5m2 | .e3m2 | .e2m3 | .mxe4m3 | .mxe5m2 | .mxe3m2 | .mxe2m3 | .mxi8 | .i8 | .u8 => 8
  | .e2m1 | .mxe2m1 | .i4 | .u4 => 4
  | .i2 => 2
  | .i64 | .u64 => 64

/-- Elements of a 512-bit register (R144). -/
def tyElems (t : Ty) : Nat := 512 / tyWidth t

/-- The set F of R165. -/
def tyF : Ty → Bool
  | .f32 | .f16 | .bf16 => true
  | _ => false

/-- The set W of R165. -/
def tyW : Ty → Bool
  | .i16 | .i8 | .u8 | .i32 | .u32 | .i64 | .u64 | .u16 => true
  | _ => false

/-- The set M of R165, codes 8 to 13. -/
def tyM : Ty → Bool
  | .mxe4m3 | .mxe5m2 | .mxe3m2 | .mxe2m3 | .mxe2m1 | .mxi8 => true
  | _ => false

/-- Integer types that are not MX, codes 14 to 24 (R52). -/
def tyInt (t : Ty) : Bool := 14 ≤ tyCode t

/-- Float types that are not MX, codes 0 to 7 (R52). -/
def tyFloat (t : Ty) : Bool := tyCode t ≤ 7

/-- Signed integer types (R143). -/
def tySigned : Ty → Bool
  | .i16 | .i8 | .i4 | .i2 | .i32 | .i64 => true
  | _ => false

def condCode : Cond → Nat
  | .eq => 0 | .ne => 1 | .lt => 2 | .ge => 3 | .gt => 4 | .le => 5
  | .ltu => 6 | .geu => 7 | .gtu => 8 | .leu => 9 | .tst => 10 | .un => 11

/-- Comparison codes; 12 to 15 are reserved (R50). -/
def condOf : Nat → Option Cond
  | 0 => some .eq | 1 => some .ne | 2 => some .lt | 3 => some .ge | 4 => some .gt | 5 => some .le
  | 6 => some .ltu | 7 => some .geu | 8 => some .gtu | 9 => some .leu | 10 => some .tst | 11 => some .un | _ => none

def rmCode : Rm → Nat
  | .rne => 0 | .rtz => 1 | .rdn => 2 | .rup => 3 | .sr => 4 | .dyn => 5

/-- Rounding-mode codes; 6 and 7 are reserved (R51). -/
def rmOf : Nat → Option Rm
  | 0 => some .rne | 1 => some .rtz | 2 => some .rdn | 3 => some .rup | 4 => some .sr | 5 => some .dyn | _ => none

def pmodeCode : PMode → Nat
  | .set => 0 | .and => 1 | .or => 2 | .andn => 3

/-- Combine modes (R50, R91). -/
def pmodeOf : Nat → PMode
  | 0 => .set | 1 => .and | 2 => .or | _ => .andn

def spaceCode : Space → Nat
  | .l => 0 | .c => 1 | .d => 2 | .g => 3

/-- Space codes (R49). -/
def spaceOf : Nat → Space
  | 0 => .l | 1 => .c | 2 => .d | _ => .g

def ordCode : MOrd → Nat
  | .plain => 0 | .acq => 1 | .rel => 2 | .acqrel => 3

/-- Order codes (R49). -/
def ordOf : Nat → MOrd
  | 0 => .plain | 1 => .acq | 2 => .rel | _ => .acqrel

def scopeCode : Scope → Nat
  | .th => 0 | .co => 1 | .cl => 2 | .di => 3 | .ln => 4 | .cx => 5 | .pk => 6 | .fb => 7 | .sy => 8

/-- Scope codes; 9 to 15 are reserved (R49). -/
def scopeOf : Nat → Option Scope
  | 0 => some .th | 1 => some .co | 2 => some .cl | 3 => some .di | 4 => some .ln | 5 => some .cx
  | 6 => some .pk | 7 => some .fb | 8 => some .sy | _ => none

def fenceCode : FenceKind → Nat
  | .ld => 0 | .st => 1 | .all => 2 | .eng => 3

/-- Fence kinds (R49, R307). -/
def fenceOf : Nat → FenceKind
  | 0 => .ld | 1 => .st | 2 => .all | _ => .eng

def scaleCode : Scale → Nat
  | .x1 => 0 | .x8 => 1 | .x64 => 2

/-- Scale codes; 3 is reserved (R49). -/
def scaleOf : Nat → Option Scale
  | 0 => some .x1 | 1 => some .x8 | 2 => some .x64 | _ => none

def amoCode : AmoOp → Nat
  | .add => 0 | .and => 1 | .or => 2 | .xor => 3 | .min => 4 | .max => 5 | .minu => 6 | .maxu => 7 | .swap => 8

/-- aux codes of amo; 9 to 15 are reserved (R54). -/
def amoOf : Nat → Option AmoOp
  | 0 => some .add | 1 => some .and | 2 => some .or | 3 => some .xor | 4 => some .min | 5 => some .max
  | 6 => some .minu | 7 => some .maxu | 8 => some .swap | _ => none

def tileCode : TileSel → Nat
  | .a0 => 0 | .a1 => 1 | .pair => 2

/-- Tile selectors; 3 is reserved (R53). -/
def tileOf : Nat → Option TileSel
  | 0 => some .a0 | 1 => some .a1 | 2 => some .pair | _ => none

def spOrdCode : SpOrd → Nat
  | .plain => 0 | .rel => 1 | .acq => 2

/-- Order codes of format VP; 3 is reserved (R53). -/
def spOrdOf : Nat → Option SpOrd
  | 0 => some .plain | 1 => some .rel | 2 => some .acq | _ => none

/-- Operand number of a scalar operand (R26). -/
def sopCode : SOp → Nat
  | .s r => r.toNat
  | .port n => 32 + n.toNat

/-- The scalar operand of a number; 36 to 63 are outside the space (R26). -/
def sopOf (n : Nat) : Option SOp :=
  if n < 32 then some (.s (BitVec.ofNat 5 n)) else if n < 36 then some (.port (BitVec.ofNat 2 (n - 32))) else none

/-- Operand number of a vector operand (R26). -/
def vopCode : VOp → Nat
  | .v r => r.toNat
  | .port n => 16 + n.toNat
  | .win n => 20 + n.toNat

/-- The vector operand of a number; 24 and above are outside the space (R26). -/
def vopOf (n : Nat) : Option VOp :=
  if n < 16 then some (.v (BitVec.ofNat 4 n))
  else if n < 20 then some (.port (BitVec.ofNat 2 (n - 16)))
  else if n < 24 then some (.win (BitVec.ofNat 2 (n - 20))) else none

end Sys2Proof.Machine
end

