-- ==== Sys2Proof/Machine/Ops.lean ====
section
/-! DEFINITION. Named operations over the state: finding and changing one core, thread, cluster, die or dome; registers and
their F/E state; TCM words and full bits; trace records and thread counters; taking an exception and returning from one. -/

namespace Sys2Proof.Machine

set_option Elab.async false

/-- The outcome of a step of this machine. -/
abbrev Out := Host.Outcome State Fault Refusal

/-! ## Places (00 R9, 06 R121, 12 R249) -/

/-- Key of a core: 64 · tower + (8y + x). -/
def coreKey (die core : Nat) : Nat := 64 * die + core
def tidKey (t : Tid) : Nat := coreKey t.die t.core
/-- Panel coordinates of tower n = 8·Y + ⌊X/2⌋, whose X + Y is even (R9). -/
def dieY (die : Nat) : Nat := die / 8
def dieX (die : Nat) : Nat := 2 * (die % 8) + dieY die % 2
/-- Panel coordinates of dome n = 8·Y + ⌊X/2⌋, whose X + Y is odd (R286). -/
def domeX (d : Nat) : Nat := 2 * (d % 8) + (1 - dieY d % 2)
/-- The tower or dome at (X, Y). -/
def siteOf (x y : Nat) : Nat := 8 * y + x / 2
def isTower (x y : Nat) : Bool := (x + y) % 2 == 0
def coreX (core : Nat) : Nat := core % 8
def coreY (core : Nat) : Nat := core / 8
/-- Cluster of core (x,y) and its local index (R249). -/
def clusterOf (core : Nat) : Nat := coreX core / 4 + 2 * (coreY core / 2)
def localIdx (core : Nat) : Nat := coreX core % 4 + 4 * (coreY core % 2)
/-- The core of a cluster with a local index. -/
def coreAt (cl i : Nat) : Nat := 8 * (2 * (cl / 2) + i / 4) + 4 * (cl % 2) + i % 4
def clusterKey (die cl : Nat) : Nat := 8 * die + cl

/-- A thread's location in the layout of `tid` (R121). -/
def tidWord (s : State) (t : Tid) : Word :=
  word (s.modNo * 2 ^ 18 + dieY t.die * 2 ^ 13 + dieX t.die * 2 ^ 9 + coreY t.core * 2 ^ 6 + coreX t.core * 2 ^ 3 + t.slot)

/-- The location that bits [17:0] of a `tid` word name, where they name a tower site. -/
def tidOf (w : Word) : Option Tid :=
  let y := bitsAt w 13 5
  let x := bitsAt w 9 4
  if y ≤ 19 ∧ isTower x y = true then some ⟨siteOf x y, 8 * bitsAt w 6 3 + bitsAt w 3 3, bitsAt w 0 3⟩ else none

/-- The endpoint of a core: `tid` bits [23:3] (R346). -/
def endpoint (s : State) (die core : Nat) : Nat :=
  s.modNo * 2 ^ 15 + dieY die * 2 ^ 10 + dieX die * 2 ^ 6 + coreY core * 2 ^ 3 + coreX core

/-! ## Reading and changing one piece -/

def getCore (s : State) (k : Nat) : Core := mapGet Core.reset s.cores k
def setCore (s : State) (k : Nat) (c : Core) : State := { s with cores := mapSet s.cores k c }
def modCore (s : State) (k : Nat) (f : Core → Core) : State := setCore s k (f (getCore s k))

def slotOf (c : Core) (i : Nat) : Thread := vget c.slots i Thread.reset
def setSlot (c : Core) (i : Nat) (th : Thread) : Core := { c with slots := vset c.slots i th }

def getThread (s : State) (t : Tid) : Thread := slotOf (getCore s (tidKey t)) t.slot
def setThread (s : State) (t : Tid) (th : Thread) : State := modCore s (tidKey t) fun c => setSlot c t.slot th
def modThread (s : State) (t : Tid) (f : Thread → Thread) : State := setThread s t (f (getThread s t))

def getCluster (s : State) (k : Nat) : Cluster := mapGet Cluster.reset s.clusters k
def setCluster (s : State) (k : Nat) (c : Cluster) : State := { s with clusters := mapSet s.clusters k c }
def modCluster (s : State) (k : Nat) (f : Cluster → Cluster) : State := setCluster s k (f (getCluster s k))
def tidCluster (t : Tid) : Nat := clusterKey t.die (clusterOf t.core)

def getDie (s : State) (k : Nat) : Die := mapGet Die.reset s.dies k
def setDie (s : State) (k : Nat) (d : Die) : State := { s with dies := mapSet s.dies k d }
def modDie (s : State) (k : Nat) (f : Die → Die) : State := setDie s k (f (getDie s k))

def getDome (s : State) (k : Nat) : Dome := mapGet Dome.reset s.domes k
def setDome (s : State) (k : Nat) (d : Dome) : State := { s with domes := mapSet s.domes k d }
def modDome (s : State) (k : Nat) (f : Dome → Dome) : State := setDome s k (f (getDome s k))

def getCircuit (s : State) (k : Nat) : Circuit := mapGet Circuit.none s.circuits k
def setCircuit (s : State) (k : Nat) (c : Circuit) : State := { s with circuits := mapSet s.circuits k c }
def modCircuit (s : State) (k : Nat) (f : Circuit → Circuit) : State := setCircuit s k (f (getCircuit s k))

def getChan (s : State) (cl ch : Nat) : Chan := vget (getCluster s cl).chans ch ⟨0, 0, [], none, false⟩
def modChan (s : State) (cl ch : Nat) (f : Chan → Chan) : State :=
  modCluster s cl fun c => { c with chans := vset c.chans ch (f (getChan s cl ch)) }

def getCtx (s : State) (k : Nat) : Ctx := mapGet Ctx.reset s.ctxs k
def setCtx (s : State) (k : Nat) (c : Ctx) : State := { s with ctxs := mapSet s.ctxs k c }
def modCtx (s : State) (k : Nat) (f : Ctx → Ctx) : State := setCtx s k (f (getCtx s k))

/-- A sink of a context has retired (R332). -/
def sink (s : State) (ctx : Nat) : State := modCtx s ctx fun c => { c with sinkAt := s.wheel, silent := false }

/-- Bits [lo+n-1:lo] of the doubleword at a byte offset of a region control block (R410). -/
def blkBits (b : Vector Word 32) (off lo n : Nat) : Nat := bitsAt (vget b (off / 8) 0) lo n
/-- The field of a context's block. -/
def cBits (s : State) (ctx off lo n : Nat) : Nat := blkBits (getCtx s ctx).blk off lo n
/-- Bit n of a 160-bit set of a region control block (R410): TOWERS at 0x50, DOMES at 0x68. -/
def blkSet (b : Vector Word 32) (off n : Nat) : Bool := n < 160 && bitAt (vget b (off / 8 + n / 64) 0) (n % 64)
/-- Whether a tower is in a context's tower set. -/
def ctxTower (s : State) (ctx die : Nat) : Bool := (getCtx s ctx).installed && blkSet (getCtx s ctx).blk 0x50 die
/-- The towers of a context's set, rising. -/
def ctxTowers (s : State) (ctx : Nat) : List Nat := (List.range 160).filter (ctxTower s ctx)

/-- The block of a region with a group of its fields taken from the context's where it inherits the group (R411). -/
def regionInherits (b : Vector Word 32) (group : Nat) : Bool := bitAt (vget b 1 0) group
def effBits (s : State) (ctx region group off lo n : Nat) : Nat :=
  match mapFind (getCtx s ctx).regions region with
  | some b => if regionInherits b group then cBits s ctx off lo n else blkBits b off lo n
  | none => cBits s ctx off lo n

/-- The slots 0 to 7 of a core, as thread names. -/
def coreTids (die core : Nat) : List Tid := (List.range 8).map fun i => ⟨die, core, i⟩

/-! ## Status fields (06 R119) -/

/-- The mode: 0 U, 1 S, 3 H (R28). -/
def mode (th : Thread) : Nat := bitsAt th.status 0 2

/-- Replace bits [lo+n-1:lo] of a word. -/
def setBits (w : Word) (lo n v : Nat) : Word :=
  word (w.toNat - bitsAt w lo n * 2 ^ lo + (v % 2 ^ n) * 2 ^ lo)

def setMode (w : Word) (m : Nat) : Word := setBits w 0 2 m

/-- Set a pending bit of an interrupt source: 1 and 4 in hstatus, the others in status (R112, R119). -/
def setPending (th : Thread) (src : Nat) : Thread :=
  if src = 1 ∨ src = 4 then { th with hstatus := setBits th.hstatus (16 + src) 1 1 }
  else { th with status := setBits th.status (16 + src) 1 1 }

/-! ## Registers (02 R24, R25; 07 R128; 10 R194) -/

def getS (th : Thread) (r : Nat) : Word := if r = 0 then 0 else vget th.sval r 0
def getFeS (th : Thread) (r : Nat) : FE := if r = 0 then .full else vget th.sfe r .full
def getV (th : Thread) (r : Nat) : Vec := vget th.vval r 0
def getFeV (th : Thread) (r : Nat) : FE := vget th.vfe r .full
/-- p0 reads all ones (R24). -/
def getP (th : Thread) (p : Nat) : Word := if p = 0 then BitVec.allOnes 64 else vget th.pval p 0
def setP (th : Thread) (p : Nat) (v : Word) : Thread := if p = 0 then th else { th with pval := vset th.pval p v }

/-- The stream that a scalar or vector register is in when in stream mode (R221): 0 to 3 are s28–s31, 4 to 7 v12–v15. -/
def streamS (th : Thread) (r : Nat) : Option Nat :=
  if 28 ≤ r ∧ (vget th.streams (r - 28) Stream.reset).on = true then some (r - 28) else none
def streamV (th : Thread) (r : Nat) : Option Nat :=
  if 12 ≤ r ∧ (vget th.streams (r - 8) Stream.reset).on = true then some (r - 8) else none

/-- Set the value and F/E state of a register, whatever they were; s0 is kept (R25). -/
def putS (th : Thread) (r : Nat) (v : Word) (f : FE) : Thread :=
  if r = 0 then th else { th with sval := vset th.sval r v, sfe := vset th.sfe r f }
def putV (th : Thread) (r : Nat) (v : Vec) (f : FE) : Thread :=
  { th with vval := vset th.vval r v, vfe := vset th.vfe r f }
def putFeS (th : Thread) (r : Nat) (f : FE) : Thread := if r = 0 then th else { th with sfe := vset th.sfe r f }
def putFeV (th : Thread) (r : Nat) (f : FE) : Thread := { th with vfe := vset th.vfe r f }

/-- A write by the thread's own bundle: sets Full; discarded in stream mode (R25, R222). -/
def writeS (th : Thread) (r : Nat) (v : Word) : Thread := if (streamS th r).isSome then th else putS th r v .full
def writeV (th : Thread) (r : Nat) (v : Vec) : Thread := if (streamV th r).isSome then th else putV th r v .full

/-- A fill from outside the thread (R128): held while a reply is due, discarded in stream mode and for s0. -/
def fillS (th : Thread) (r : Nat) (v : Word) : Thread :=
  if r = 0 ∨ (streamS th r).isSome = true then th
  else if getFeS th r = .pending then { th with heldFills := th.heldFills ++ [(false, r, v.setWidth 512)] }
  else putS th r v .full
def fillV (th : Thread) (r : Nat) (v : Vec) : Thread :=
  if (streamV th r).isSome = true then th
  else if getFeV th r = .pending then { th with heldFills := th.heldFills ++ [(true, r, v)] }
  else putV th r v .full

/-- The fills held for a register take effect once its reply has written (R128). -/
def applyHeld (th : Thread) (vec : Bool) (r : Nat) : Thread :=
  let mine := th.heldFills.filter fun h => h.1 == vec && h.2.1 == r
  let th := { th with heldFills := th.heldFills.filter fun h => !(h.1 == vec && h.2.1 == r) }
  mine.foldl (fun th h => if vec then putV th r h.2.2 .full else putS th r (h.2.2.setWidth 64) .full) th

/-- A reply: Full, or Poisoned with the pc of the load; then the held fills (R194, R128). -/
def replyS (th : Thread) (r : Nat) (v : Word) (bad : Option Word) : Thread :=
  applyHeld (match bad with | none => putS th r v .full | some pc => putS th r 0 (.poisoned pc)) false r
def replyV (th : Thread) (r : Nat) (v : Vec) (bad : Option Word) : Thread :=
  applyHeld (match bad with | none => putV th r v .full | some pc => putV th r 0 (.poisoned pc)) true r

/-! ## TCM words and full bits (10 R197, 07 R126) -/

def isFull (c : Core) (a : Nat) : Bool := c.full.contains (a / 8 * 8)

/-- Wake a thread parked on a word whose full bit changed (R126). -/
def wakeWord (a : Nat) (th : Thread) : Thread :=
  match th.park with
  | some p => if p.wake = .word a then { th with park := some { p with woken := true } } else th
  | none => th

/-- Set the full bit of the word at a; a change wakes the threads parked on it (R126). -/
def setFull (c : Core) (a : Nat) (f : Bool) : Core :=
  let w := a / 8 * 8
  if isFull c w = f then c
  else { c with
    full := if f then setIns c.full w else setDel c.full w
    slots := c.slots.map (wakeWord w) }

/-- Set Full every word that holds at least one of n bytes from a (R197). -/
def setFullRange (c : Core) (a n : Nat) : Core :=
  (List.range ((a + n + 7) / 8 - a / 8)).foldl (fun c i => setFull c (8 * (a / 8 + i)) true) c

/-- Written bits of the granules that hold n bytes from a (R426). -/
def markWritten (l : List Nat) (a n : Nat) : List Nat :=
  if n = 0 then l else (List.range ((a + n - 1) / 4096 + 1 - a / 4096)).foldl (fun l i => setIns l (a / 4096 + i)) l

def tcmPut (c : Core) (a n v : Nat) : Core := { c with tcm := mPut c.tcm a n v, written := markWritten c.written a n }
def scratchPut (c : Cluster) (a n v : Nat) : Cluster :=
  { c with scratch := mPut c.scratch a n v, written := markWritten c.written a n }
/-- A write of the banks, whose granules come after those of TCM. -/
def bankPut (c : Core) (a n v : Nat) : Core :=
  { c with bankMem := mPut c.bankMem a n v, written := markWritten c.written (Config.tcmBytes + a) n }

/-! ## Trace records (24 R454, R455) -/

/-- Doubleword 0 of a trace record (R454); LOST is added when the record is kept. -/
def traceHead (s : State) (t : Tid) (th : Thread) (kind code : Nat) : Nat :=
  (tidWord s t).toNat + kind * 2 ^ 24 + (code % 256) * 2 ^ 28 + th.ctx * 2 ^ 40 + th.region * 2 ^ 48

/-- Emit a record of a KIND that the thread's `trcen` enables; a full store discards it (R454, R455). -/
def emitTrace (s : State) (t : Tid) (pc : Word) (kind code : Nat) (payload : Word) : State :=
  let th := getThread s t
  if bitAt th.trcen kind then
    modCore s (tidKey t) fun c =>
      if c.trace.length < 8 then
        { c with
          trace := c.trace ++ [[word (traceHead s t th kind code + (if c.traceLost then 2 ^ 36 else 0)), pc,
            word s.wheel, payload]]
          traceLost := false }
      else { c with traceLost := true }
  else s

/-! ## Counters of a thread (24 R460, R461) -/

/-- Which counter a rotation slot adds to beside crot. -/
inductive Count where
  | issue | duty | stop
  | park (cause : Nat)
deriving DecidableEq, Repr

/-- SEL of `cntirq` for a counter (R461). -/
def countSel : Count → Nat
  | .issue => 1
  | .duty => 2
  | .stop => 3
  | .park c => 16 + c

/-- Whether an increment to n makes source 5 pending (R461). -/
def countHits (cntirq : Word) (sel : Nat) (n : Word) : Bool :=
  bitAt cntirq 11 && bitsAt cntirq 0 5 == sel && n.toNat % 2 ^ bitsAt cntirq 5 6 == 0

/-- One rotation slot of a thread: crot and exactly one other counter (R460). -/
def countSlot (th : Thread) (k : Count) : Thread :=
  let crot := th.crot + 1
  let n := match k with
    | .issue => th.cissue + 1
    | .duty => th.cduty + 1
    | .stop => th.cstop + 1
    | .park c => vget th.cpark c 0 + 1
  let th' := match k with
    | .issue => { th with crot := crot, cissue := n }
    | .duty => { th with crot := crot, cduty := n }
    | .stop => { th with crot := crot, cstop := n }
    | .park c => { th with crot := crot, cpark := vset th.cpark c n }
  if countHits th.cntirq 0 crot || countHits th.cntirq (countSel k) n then setPending th' 5 else th'

/-! ## Taking an exception and returning from one (06 R111 to R113) -/

/-- `cause` from its fields (R120). -/
def causeWord (int slotV : Bool) (elem code : Nat) : Word :=
  word ((if int then 2 ^ 63 else 0) + (if slotV then 2 ^ 62 else 0) + elem % 256 * 2 ^ 16 + code % 256)

/-- Entry into S (R111). -/
def enterS (th : Thread) (pc cause tval : Word) : Thread :=
  { th with
    epc := pc
    cause := cause
    tval := tval
    status := setMode (setBits (setBits (setBits th.status 3 1 (bitsAt th.status 2 1)) 2 1 0) 4 1 (mode th)) 1
    pc := th.tvec
    ranOff := false
    fresh := 1 }

/-- Entry into H (R111). -/
def enterH (th : Thread) (pc cause tval : Word) : Thread :=
  { th with
    hepc := pc
    hcause := cause
    htval := tval
    hstatus := setBits (setBits (setBits th.hstatus 3 1 (bitsAt th.hstatus 2 1)) 2 1 0) 0 2 (mode th)
    status := setMode th.status 3
    pc := th.htvec
    ranOff := false
    fresh := 2 }

/-- The H-mode and debugger registers of a slot belong to the core: a switch, a binding and a retirement leave them as they are (R14, R39). -/
def keepH (slot th : Thread) : Thread :=
  { th with
    hstatus := slot.hstatus, htvec := slot.htvec, hepc := slot.hepc, hcause := slot.hcause, htval := slot.htval, hdeleg := slot.hdeleg
    dbgsel := slot.dbgsel, dbgctl := slot.dbgctl, dbgidx := slot.dbgidx }

/-- Whether a trap goes to H (R111); `force` says that it does whatever hdeleg holds. -/
def toH (th : Thread) (code : Nat) (force : Bool) : Bool := mode th == 3 || force || !bitAt th.hdeleg code

/-- The thread after a trap of a cause of R109 at the bundle at pc (R111). -/
def trapThread (th : Thread) (pc : Word) (code : Nat) (tval : Word) (slotV : Bool) (elem : Nat) (force : Bool) : Thread :=
  if toH th code force then enterH th pc (causeWord false slotV elem code) tval
  else enterS th pc (causeWord false slotV elem code) tval

/-- The thread after an interrupt of a source, in S or in H (R112). -/
def interruptThread (th : Thread) (src : Nat) (h : Bool) : Thread :=
  if h then enterH th th.pc (causeWord true false 0 src) 0 else enterS th th.pc (causeWord true false 0 src) 0

/-- The interrupt the thread takes before its next bundle: source and whether in H (R112). -/
def dueInterrupt (th : Thread) : Option (Nat × Bool) :=
  let hp := bitsAt th.hstatus 16 8 &&& bitsAt th.hstatus 24 8
  let sp := bitsAt th.status 16 8 &&& bitsAt th.status 24 8
  let low (n : Nat) : Option Nat := (List.range 8).find? fun i => n.testBit i
  let h := if mode th < 3 || bitAt th.hstatus 2 then low hp else none
  let u := if mode th == 0 || (mode th == 1 && bitAt th.status 2) then low sp else none
  match h, u with
  | some i, _ => some (i, true)
  | none, some i => some (i, false)
  | none, none => none

/-- The target of `eret` (R113). -/
def eretTarget (th : Thread) : Word := if mode th = 1 then th.epc else th.hepc

/-- The other effects of `eret` (R113). -/
def eretThread (th : Thread) : Thread :=
  if mode th = 1 then
    { th with status := setBits (setBits (setMode th.status (bitsAt th.status 4 1)) 2 1 (bitsAt th.status 3 1)) 3 1 1 }
  else
    { th with
      status := setMode th.status (bitsAt th.hstatus 0 2)
      hstatus := setBits (setBits th.hstatus 2 1 (bitsAt th.hstatus 3 1)) 3 1 1 }

/-! ## Code addresses (06 R101, R102; 07 R133) -/

def findSeg (c : Core) (n : Nat) : Option Segment := c.segs.find? fun g => g.num == n

/-- The bundle at a code address, where its segment has landed that far (R101). -/
def fetchBundle (c : Core) (pc : Word) : Option Bundle :=
  match findSeg c (bitsAt pc 16 12) with
  | some g => if bitsAt pc 28 36 = 0 ∧ bitsAt pc 0 4 = 0 then g.bundles[bitsAt pc 4 12]? else none
  | none => none

/-- The leader of a gang of 2^k cores is the member of lowest local index (R268). -/
def gangLeader (t : Tid) (k : Nat) : Tid := ⟨t.die, coreAt (clusterOf t.core) (localIdx t.core / 2 ^ k * 2 ^ k), t.slot⟩

/-- The leader that forwards bundles to an attached follower (R270). -/
def forwarder (s : State) (t : Tid) : Option Tid :=
  match (getThread s t).gang with
  | some g => if g.attached && !g.forming && gangLeader t g.k != t then some (gangLeader t g.k) else none
  | none => none

/-- The core whose instruction store a thread's bundles come from: the leader's for an attached follower (R270, R271). -/
def codeCore (s : State) (t : Tid) : Core :=
  match forwarder s t with
  | some l => getCore s (tidKey l)
  | none => getCore s (tidKey t)

/-- Kinds of transfer target (R102). -/
inductive TargetKind where
  | relative | register | fenced
deriving DecidableEq, Repr

/-- CheckTarget: the cause of the trap, or none (R102). -/
def checkTarget (c : Core) (pc t : Word) (k : TargetKind) : Option Nat :=
  if k = .register ∧ bitsAt t 0 4 ≠ 0 then some 4
  else if bitsAt t 28 36 ≠ 0 then some 6
  else if k = .relative ∧ bitsAt t 16 12 ≠ bitsAt pc 16 12 then some 6
  else
    match findSeg c (bitsAt t 16 12) with
    | some g => if g.len ≤ bitsAt t 4 12 then some 12 else none
    | none => some 12

/-- Whether what the network or a service writes at a core in slot a is visible to an issue that begins now: a slot lies between (R353). -/
def coreSees (s : State) (a : Nat) : Bool := decide (a + 2 ≤ s.wheel)

/-! ## Requests of a die's agent (13 R278, 14 R303) -/

/-- Whether a request reads, and whether it writes. -/
def isRead : ReqKind → Bool
  | .store | .seal | .unseal | .publish | .add _ _ => false
  | _ => true
def isWrite : ReqKind → Bool
  | .store | .amo _ | .cas _ | .add _ _ => true
  | _ => false

def isRelease : MOrd → Bool
  | .rel | .acqrel => true
  | _ => false

def isAccepted (r : Req) : Bool :=
  match r.stage with
  | .accepted | .held _ | .performed _ => true
  | _ => false

def isPerformed (r : Req) : Bool :=
  match r.stage with
  | .performed _ => true
  | _ => false

/-- A write holds its place in the die order until it is performed (R278, R301). -/
def isPending (r : Req) : Bool := isWrite r.kind && isAccepted r && !isPerformed r

/-- The accepted writes of a die not yet performed, those of engines among them. -/
def pendingWrites (d : Die) : List Req := d.reqs.filter isPending

/-- The pending-store table: the accepted writes of threads not yet performed; an engine's stand in its port (R278, R279). -/
def pendingStores (d : Die) : List Req := d.reqs.filter fun r => isPending r && r.who == .thread

/-- A load of a thread on its way that no access of `.l` or `.c` has followed yet. -/
def isUnbound (t : Tid) (r : Req) : Bool :=
  r.tid == t && r.who == .thread && isRead r.kind && !isWrite r.kind && isAccepted r && !isPerformed r && r.cap.isNone

/-- A thread makes an access in `.l` or `.c`: its loads on their way take nothing that enters the die order from now on (R301). -/
def boundLoads (t : Tid) (d : Die) : Die :=
  { d with reqs := d.reqs.map fun r => if isUnbound t r then { r with cap := some d.seqNext } else r }

end Sys2Proof.Machine
end

