-- ==== Sys2Proof/Machine/Flags.lean ====
section
/-! DEFINITION. Guards, predicate pairs and comparisons: the machine's flags (spec/02 R29 to R31, spec/03 R50,
spec/05 R91, R95, R97). -/

namespace Sys2Proof.Machine

set_option Elab.async false

/-- Bit i of a truth table at the index of three bits (R29, R97). -/
def ttAt (tt : BitVec 8) (a b c : Bool) : Bool :=
  bitAt tt ((if a then 4 else 0) + (if b then 2 else 0) + (if c then 1 else 0))

/-- Guard(k) for predicate bit k (R29). -/
def guardBit (g : Guard) (th : Thread) (k : Nat) : Bool :=
  ttAt g.tt (bitAt (getP th g.pa.toNat) k) (bitAt (getP th g.pb.toNat) k) (bitAt (getP th g.pc.toNat) k)

/-- The predicate bit that governs element i of width w (R30). -/
def predBit (w i : Nat) : Nat := if w = 4 then i / 2 else if w = 2 then i / 4 else i

/-- The number of predicate bits read at width w (R30). -/
def predBits (w : Nat) : Nat := if w < 8 then 64 else 512 / w

/-- Guard of element i of width w (R30). -/
def elemGuard (g : Guard) (th : Thread) (w i : Nat) : Bool := guardBit g th (predBit w i)

/-- A V syllable of governing width w is enabled when some element is (R32). -/
def anyGuard (g : Guard) (th : Thread) (w : Nat) : Bool := (List.range (predBits w)).any (guardBit g th)

/-- The lowest enabled element of width w (R110). -/
def firstElem (g : Guard) (th : Thread) (w : Nat) : Nat := ((List.range (512 / w)).find? (elemGuard g th w)).getD 0

/-- The 64-bit enable mask of width w: bit k is Guard(k) (R30, R351). -/
def guardMask (g : Guard) (th : Thread) (w : Nat) : Word :=
  word ((List.range (predBits w)).foldl (fun m k => if guardBit g th k then m + 2 ^ k else m) 0)

/-- The combine modes of a predicate pair (R91). -/
def combine (m : PMode) (pd pe c : Word) : Word × Word :=
  match m with
  | .set => (c, ~~~c)
  | .and => (pd &&& c, pe &&& ~~~c)
  | .or => (pd ||| c, pe ||| ~~~c)
  | .andn => (pd &&& ~~~c, pe &&& c)

/-- The integer conditions of R50 on two patterns of width w; `un` is no integer condition. -/
def condInt {w : Nat} (c : Cond) (a b : BitVec w) : Bool :=
  match c with
  | .eq => a == b
  | .ne => a != b
  | .lt => decide (a.toInt < b.toInt)
  | .ge => decide (b.toInt ≤ a.toInt)
  | .gt => decide (b.toInt < a.toInt)
  | .le => decide (a.toInt ≤ b.toInt)
  | .ltu => decide (a.toNat < b.toNat)
  | .geu => decide (b.toNat ≤ a.toNat)
  | .gtu => decide (b.toNat < a.toNat)
  | .leu => decide (a.toNat ≤ b.toNat)
  | .tst => (a &&& b) != 0
  | .un => false

/-- All ones or all zeros (R92, R99). -/
def allOr (b : Bool) : Word := if b then BitVec.allOnes 64 else 0

/-- Lanes that a width code examines (R95). -/
def lanes (lw : BitVec 2) : Nat := 64 / 2 ^ lw.toNat

/-- ptt: the truth table bit by bit over three predicates (R97). -/
def pttMask (tt : BitVec 8) (a b c : Word) : Word :=
  word ((List.range 64).foldl (fun m j => if ttAt tt (bitAt a j) (bitAt b j) (bitAt c j) then m + 2 ^ j else m) 0)

/-- The number of set bits among the n low bits (R81, R100). -/
def countOnes {w : Nat} (x : BitVec w) (n : Nat) : Nat := ((List.range n).filter fun i => bitAt x i).length

/-- The index of the lowest set bit among the n low bits, or n (R81, R100). -/
def firstOne {w : Nat} (x : BitVec w) (n : Nat) : Nat := ((List.range n).find? fun i => bitAt x i).getD n

end Sys2Proof.Machine
end

