-- ==== Sys2Proof/Machine/Shapes.lean ====
section
/-! DEFINITION. Shape records: their fields, their checks, partitioning, element order and addresses, convolution mode
(spec/10_core_memory_shapes_ports_streams.md R203 to R208, spec/08 R146). -/

namespace Sys2Proof.Machine

set_option Elab.async false

/-- Address of the tag word of a record with TAGEN = 1 (R220). -/
def tagAddr (r : Rec) : Nat := r.w0.toNat - 8
def recTagen (r : Rec) : Bool := bitAt r.w1 17
def recTag (r : Rec) : Nat := bitsAt r.w1 32 16

/-- The word of a schedule-fault: expected tag and received tag (R109, R220). -/
def tagFault (c : Core) (r : Rec) : Word := word (recTag r + bitsAt (mWord c.tcm (tagAddr r)) 0 16 * 2 ^ 16)

/-- Whether the tag word of a record matches (R220). -/
def tagMatches (c : Core) (r : Rec) : Bool := bitsAt (mWord c.tcm (tagAddr r)) 0 16 == recTag r

/-- The doubleword i of a record. -/
def recWord (r : Rec) (i : Nat) : Word :=
  match i with
  | 0 => r.w0
  | 1 => r.w1
  | 2 => r.w2
  | 3 => r.w3
  | 4 => r.w4
  | 5 => r.w5
  | 6 => r.w6
  | _ => r.w7

/-- Eight doublewords from an address of a memory. -/
def memRec (m : Memory) (a : Nat) : Rec :=
  ⟨mWord m a, mWord m (a + 8), mWord m (a + 16), mWord m (a + 24), mWord m (a + 32), mWord m (a + 40), mWord m (a + 48),
    mWord m (a + 56)⟩

/-- Eight doublewords from 64 bytes. -/
def bytesRec (l : List Byte) : Rec :=
  let w (i : Nat) : Word := word (bytesNat ((l.drop (8 * i)).take 8))
  ⟨w 0, w 1, w 2, w 3, w 4, w 5, w 6, w 7⟩

/-! ## Fields (R203) -/

def rBase (r : Rec) : Nat := r.w0.toNat
def rType (r : Rec) : Nat := bitsAt r.w1 0 5
def rSpace (r : Rec) : Space := spaceOf (bitsAt r.w1 8 2)
def rPmode (r : Rec) : Nat := bitsAt r.w1 10 2
def rPdim (r : Rec) : Nat := bitsAt r.w1 12 2
def rPadmode (r : Rec) : Nat := bitsAt r.w1 14 2
def rConv (r : Rec) : Bool := bitAt r.w1 16
def rExt (r : Rec) (d : Nat) : Nat := bitsAt r.w2 (16 * d) 16
/-- Signed stride of dimension d in bytes. -/
def rStride (r : Rec) (d : Nat) : Int :=
  (BitVec.ofNat 32 (bitsAt (if d < 2 then r.w3 else r.w4) (32 * (d % 2)) 32)).toInt
def rPadval (r : Rec) : Nat := bitsAt r.w5 0 32
def rPparts (r : Rec) : Nat := bitsAt r.w5 32 16
def rPstep (r : Rec) : Nat := bitsAt r.w5 48 16
def rKW (r : Rec) : Nat := bitsAt r.w6 0 4
def rKH (r : Rec) : Nat := bitsAt r.w6 4 4
def rSW (r : Rec) : Nat := bitsAt r.w6 8 4
def rSH (r : Rec) : Nat := bitsAt r.w6 12 4
def rDW (r : Rec) : Nat := bitsAt r.w6 16 4
def rDH (r : Rec) : Nat := bitsAt r.w6 20 4
def rPW (r : Rec) : Int := (BitVec.ofNat 8 (bitsAt r.w6 24 8)).toInt
def rPH (r : Rec) : Int := (BitVec.ofNat 8 (bitsAt r.w6 32 8)).toInt
def rOW (r : Rec) : Nat := bitsAt r.w6 40 12
def rOH (r : Rec) : Nat := bitsAt r.w6 52 12
def rScale (r : Rec) : Nat := r.w7.toNat

/-- The type of a checked record; FP32 stands for a code that a checked record does not hold. -/
def rTy (r : Rec) : Ty := (tyOf (rType r)).getD .f32
/-- Container width of a record's type (R52). -/
def rWidth (r : Rec) : Nat := tyWidth (rTy r)

/-- The checks of R204 on a record's contents. -/
def recOk (r : Rec) : Bool :=
  bitsAt r.w1 5 3 == 0 && bitsAt r.w1 18 14 == 0 && bitsAt r.w1 48 16 == 0 &&
  rType r < 25 && rPmode r != 3 && rPadmode r < 2 &&
  (rPmode r == 0 || (rPparts r != 0 && rPstep r != 0)) &&
  (8 ≤ rWidth r || rStride r 0 == 0) &&
  (!rConv r || (rPmode r == 0 && rOW r != 0 && rOH r != 0)) &&
  (!recTagen r || (rSpace r == .l && 8 ≤ rBase r && rBase r % 8 == 0 && rBase r ≤ 0x80000))

/-- The cause of a record address or record that fails R204, or none. -/
def recFault (c : Core) (a : Word) : Option Nat :=
  if bitsAt a 0 6 ≠ 0 then some 4
  else if 0x7FFC0 < a.toNat then some 6
  else if recOk (memRec c.tcm a.toNat) then none else some 6

/-! ## Extents, order and addresses (R205, R206) -/

def ceilDiv (a b : Nat) : Nat := (a + b - 1) / b

/-- The part p of a rank (R205). -/
def partOf (r : Rec) (rank : Nat) : Nat := rank / rPstep r % rPparts r

/-- Effective extent of dimension d for a rank (R205). -/
def extOf (r : Rec) (rank d : Nat) : Nat :=
  if rPmode r = 0 ∨ rPdim r ≠ d then rExt r d
  else
    let p := partOf r rank
    let n := rPparts r
    if rPmode r = 1 then Nat.min (ceilDiv (rExt r d) n) (rExt r d - p * ceilDiv (rExt r d) n)
    else ceilDiv (rExt r d - p) n

/-- Global index of local index j in dimension d (R205). -/
def globalIdx (r : Rec) (rank d j : Nat) : Nat :=
  if rPmode r = 0 ∨ rPdim r ≠ d then j
  else
    let p := partOf r rank
    if rPmode r = 1 then p * ceilDiv (rExt r d) (rPparts r) + j else p + j * rPparts r

/-- Where an element lies: byte address modulo 2^64 and bit offset in the byte (R206). -/
structure Place where
  addr : Nat
  bit : Nat
deriving DecidableEq, Repr

/-- The place of the element with local indices i0 to i3 (R206). -/
def placeOf (r : Rec) (rank i0 i1 i2 i3 : Nat) : Place :=
  let g (d j : Nat) : Int := (globalIdx r rank d j : Int)
  let row : Int := rBase r + g 1 i1 * rStride r 1 + g 2 i2 * rStride r 2 + g 3 i3 * rStride r 3
  let w := rWidth r
  if 8 ≤ w then ⟨((row + g 0 i0 * rStride r 0) % 2 ^ 64).toNat, 0⟩
  else
    let b := globalIdx r rank 0 i0 * w
    ⟨((row + (b / 8 : Nat)) % 2 ^ 64).toNat, b % 8⟩

/-- What an element of a record is: an element in memory with its global index along dimension 0 and the number of its row
(R146), a pad position, or part of a null row (R207). -/
inductive Elem where
  | at_ (p : Place) (i0 row : Nat)
  | pad
  | null
deriving DecidableEq, Repr

/-- The element with local indices i0 to i3. The row number takes the record's own extents and global indices (R146,
log 9). -/
def elemIdx (r : Rec) (rank i0 i1 i2 i3 : Nat) : Elem :=
  .at_ (placeOf r rank i0 i1 i2 i3) (globalIdx r rank 0 i0)
    (globalIdx r rank 1 i1 + rExt r 1 * (globalIdx r rank 2 i2 + rExt r 2 * globalIdx r rank 3 i3))

/-- Columns KC and rows M of the matrix of a convolution record (R207). -/
def convKC (r : Rec) (rank : Nat) : Nat := (rKH r + 1) * (rKW r + 1) * extOf r rank 0
def convM (r : Rec) (rank : Nat) : Nat := extOf r rank 3 * rOH r * rOW r

/-- ConvElement(m, k) (R207). -/
def convElem (r : Rec) (rank m k : Nat) : Elem :=
  if convM r rank ≤ m then .null
  else
    let ch := extOf r rank 0
    let c := k % ch
    let kw := k / ch % (rKW r + 1)
    let kh := k / (ch * (rKW r + 1))
    let ow := m % rOW r
    let oh := m / rOW r % rOH r
    let n := m / (rOW r * rOH r)
    let iw : Int := (ow * (rSW r + 1) + kw * (rDW r + 1) : Nat) + rPW r
    let ih : Int := (oh * (rSH r + 1) + kh * (rDH r + 1) : Nat) + rPH r
    if iw < 0 ∨ (extOf r rank 1 : Int) ≤ iw ∨ ih < 0 ∨ (extOf r rank 2 : Int) ≤ ih then .pad
    else elemIdx r rank c iw.toNat ih.toNat n

/-- The element count of a record (R206, R207). -/
def elemCount (r : Rec) (rank : Nat) : Nat :=
  if rConv r then convM r rank * convKC r rank
  else extOf r rank 0 * extOf r rank 1 * extOf r rank 2 * extOf r rank 3

/-- Element e of a record, counted from 0 and below the count (R206, R207). -/
def elemAt (r : Rec) (rank e : Nat) : Elem :=
  if rConv r then convElem r rank (e / convKC r rank) (e % convKC r rank)
  else
    let x0 := extOf r rank 0
    let x1 := extOf r rank 1
    let x2 := extOf r rank 2
    let i0 := e % x0
    let row := e / x0
    elemIdx r rank i0 (row % x1) (row / x1 % x2) (row / (x1 * x2))

/-- The pad pattern of width w (R207). -/
def padOf (r : Rec) : Nat := if rPadmode r = 1 then rPadval r % 2 ^ rWidth r else 0

/-- The address of the scale byte of block ⌊i0/32⌋ of a row, modulo 2^64 (R146). -/
def scaleAddr (r : Rec) (i0 row : Nat) : Nat := (rScale r + i0 / 32 + ceilDiv (rExt r 0) 32 * row) % 2 ^ 64

/-- Bytes that an access to an element touches. -/
def elemBytes (w : Nat) : Nat := if w < 8 then 1 else w / 8

end Sys2Proof.Machine
end

