-- ==== Sys2Proof/Machine/Operands.lean ====
section
/-! DEFINITION. Operand forms: how a syllable reads its sources and examines and writes its destinations at step 4 of R35
(spec/02 R25, R26, R33 to R37; spec/03 R46 to R49; spec/10 R213 to R223). A syllable's body is a program over an issue
context that collects effects and waits as data. -/

namespace Sys2Proof.Machine

set_option Elab.async false

/-- What the evaluation of one syllable sees and collects. -/
structure EvCtx where
  s : State
  t : Tid
  th : Thread
  core : Core
  slotV : Bool
  pops : List Nat
  spops : List Nat
  /-- Leave that the bundle's syllables have used so far (R135). -/
  gates : List GateKind
  /-- The matrix commands for which the bundle waits at a tile, once it has reached that wait (R240). -/
  fixed : Option (List Nat)
  eff5 : List Eff
  waits : List Wait5
  eff6 : List Eff
  keys : Nat

/-- Evaluation of a syllable: it stops by a trap or a park, with what it has collected by then, or collects effects. -/
abbrev Ev := StateT EvCtx (Except (Stop × EvCtx))

def evStop {α : Type} (x : Stop) : Ev α := fun c => .error (x, c)
/-- A trap found at step 4. -/
def evTrap {α : Type} (cause : Nat) (tval : Word) : Ev α := evStop (.trap 4 cause tval 0)
/-- A trap found at another step of R35. -/
def evTrapAt {α : Type} (step cause : Nat) (tval : Word) : Ev α := evStop (.trap step cause tval 0)
/-- A park at step 4 (R125). -/
def evPark {α : Type} (cause : Nat) (operand : Word) (w : Wake) : Ev α := evStop (.park ⟨cause, operand, w, false, 0, false⟩ none)
/-- A trap unless a condition holds. -/
def evNeed (b : Bool) (cause : Nat) (tval : Word) : Ev Unit := if b then pure () else evTrap cause tval

def evEff (e : Eff) : Ev Unit := fun c => .ok ((), { c with eff6 := c.eff6 ++ [e] })
def evEff5 (e : Eff) : Ev Unit := fun c => .ok ((), { c with eff5 := c.eff5 ++ [e] })
def evWait (w : Wait5) : Ev Unit := fun c => .ok ((), { c with waits := c.waits ++ [w] })
/-- A fresh identifier, for a request or the key of a wait. -/
def evKey : Ev Nat := fun c => .ok (c.s.nextId + c.keys, { c with keys := c.keys + 1 })

/-! ## Ports (10 R213 to R216) -/

def getRx (th : Thread) (n : Nat) : Rx := vget th.rx n Rx.reset
def setRx (th : Thread) (n : Nat) (r : Rx) : Thread := { th with rx := vset th.rx n r }
def getTx (th : Thread) (n : Nat) : Option Nat := vget th.tx n none
def getWin (th : Thread) (n : Nat) : Win := vget th.win n Win.reset
def setWin (th : Thread) (n : Nat) (w : Win) : Thread := { th with win := vset th.win n w }
def getStream (th : Thread) (j : Nat) : Stream := vget th.streams j Stream.reset
def setStream (th : Thread) (j : Nat) (x : Stream) : Thread := { th with streams := vset th.streams j x }

/-- The circuit of a port or window, unless it has been closed (R362). -/
def liveCirc (s : State) (o : Option Nat) : Option Nat :=
  match o with
  | some c =>
    match (getCircuit s c).closed with
    | some e => if e ≤ s.wheel then none else some c
    | none => some c
  | none => none

/-- Beats of a source that wait in a circuit's injection order. -/
def waitingBeats (s : State) (circ : Nat) (src : InjSrc) : Nat :=
  ((getCircuit s circ).inj.filter fun b => b.src == src).length

/-- Whether beats that a transfer of the thread made through window n wait in a circuit's injection order (R260). -/
def engineBeats (s : State) (circ : Nat) (t : Tid) (n : Nat) : Bool :=
  (getCircuit s circ).inj.any fun b => match b.src with
    | .engine t' _ _ _ m => t' == t && m == n
    | _ => false

/-- Whether an accepted transfer of the thread through window n, bound to a circuit, has beats left to make (R260). -/
def winTransfer (s : State) (t : Tid) (n circ : Nat) : Bool :=
  (List.range 8).any fun ch => (getChan s (tidCluster t) ch).q.any fun x => x.tid == t && x.task == (getThread s t).task && match x.dst with
    | .win m k _ _ _ _ _ => m == n && k == circ && decide (x.pos < elemCount x.src x.rank)
    | _ => false

/-- Whether a thread may push on send port n: 8 beats at most (R213). -/
def txRoom (s : State) (t : Tid) (n circ : Nat) : Bool := waitingBeats s circ (.tx t n) < Config.txDepth

/-- Whether a thread may write through window n: with its beats and tag writes 8 at most wait, and every transfer through it has been
injected (R219, R260). -/
def winRoom (s : State) (t : Tid) (n circ : Nat) : Bool :=
  let w := getWin (getThread s t) n
  decide (waitingBeats s circ (.win t n) + (if w.tagen && w.cursor == 0 then 2 else 1) ≤ Config.winDepth) &&
    !engineBeats s circ t n && !winTransfer s t n circ

/-- Element k, from the head, of a receive queue and its ring (R213, R215). -/
def rxElem (c : Core) (r : Rx) (k : Nat) : Option Vec :=
  if k < r.q.length then r.q[k]?
  else if k - r.q.length < r.rcount then some (mVec c.tcm (r.rbase + 64 * ((r.rhead + (k - r.q.length)) % r.rlen)))
  else none

/-- How often a number stands in a list. -/
def occurrences (l : List Nat) (n : Nat) : Nat := (l.filter fun i => i == n).length

/-- One pop of receive port n, as a source with an operand number (R26, R37, R213, R215). -/
def popPort (n : Nat) (operand : Nat) : Ev Vec := fun c =>
  let r := getRx c.th n
  if r.circ = none then .error (.trap 4 6 (word operand) 0, c)
  else if r.overflow then .error (.trap 4 10 (word n) 0, c)
  else
    let k := occurrences c.pops n
    match rxElem c.core r k with
    | some v => .ok (v, { c with pops := c.pops ++ [n], eff6 := c.eff6 ++ [.pop n] })
    | none => .error (.park ⟨3, word operand, .inq n (k + 1), false, 0, false⟩ none, c)

/-! ## Streams (10 R220 to R222) -/

/-- One pop of stream j, whose register has an operand number (R220, R222). -/
def popStreamReg (j : Nat) (operand : Nat) : Ev Vec := fun c =>
  let x := getStream c.th j
  let k := occurrences c.spops j
  if recTagen x.rcd && !x.checked && k == 0 && !isFull c.core (tagAddr x.rcd) then
    .error (.park ⟨5, word operand, .stream j 1, false, 0, false⟩ none, c)
  else if recTagen x.rcd && !x.checked && k == 0 && !tagMatches c.core x.rcd then
    .error (.trap 4 9 (tagFault c.core x.rcd) 0, c)
  else
    match x.fifo[k]? with
    | none => .error (.park ⟨5, word operand, .stream j (k + 1), false, 0, false⟩ none, c)
    | some (.val v) => .ok (v, { c with spops := c.spops ++ [j], eff6 := c.eff6 ++ [.popStream j] })
    | some .poison => .error (.trap 4 14 x.pc 0, c)
    | some (.fault cause addr) => .error (.trap 4 cause addr 0, c)

/-! ## Sources (02 R25, R26) -/

/-- Src of a scalar operand (R74). -/
def srcS (o : SOp) : Ev Word :=
  match o with
  | .port n => fun c => (popPort n.toNat (32 + n.toNat) c).map fun (v, c) => (v.setWidth 64, c)
  | .s r => fun c =>
    match streamS c.th r.toNat with
    | some j => (popStreamReg j r.toNat c).map fun (v, c) => (v.setWidth 64, c)
    | none =>
      match getFeS c.th r.toNat with
      | .full => .ok (getS c.th r.toNat, c)
      | .empty => .error (.park ⟨0, word r.toNat, .sFilled r.toNat, false, 0, false⟩ none, c)
      | .pending => .error (.park ⟨1, word r.toNat, .sReplied r.toNat, false, 0, false⟩ none, c)
      | .poisoned pc => .error (.trap 4 14 pc 0, c)

/-- A vector source, read whole (R33). A window is no source; the decode limits shut it out. -/
def srcV (o : VOp) : Ev Vec :=
  match o with
  | .port n => popPort n.toNat (16 + n.toNat)
  | .win n => evTrap 6 (word (20 + n.toNat))
  | .v r => fun c =>
    match streamV c.th r.toNat with
    | some j => popStreamReg j r.toNat c
    | none =>
      match getFeV c.th r.toNat with
      | .full => .ok (getV c.th r.toNat, c)
      | .empty => .error (.park ⟨0, word r.toNat, .vFilled r.toNat, false, 0, false⟩ none, c)
      | .pending => .error (.park ⟨1, word r.toNat, .vReplied r.toNat, false, 0, false⟩ none, c)
      | .poisoned pc => .error (.trap 4 14 pc 0, c)

/-- The second source of format SA: register, or the sign-extended immediate (R75). -/
def srcB (b : SrcB) : Ev Word :=
  match b with
  | .reg o => srcS o
  | .imm i => pure (i.signExtend 64)

/-- A predicate source (R91, R97). -/
def srcP (p : BitVec 3) : Ev Word := fun c => .ok (getP c.th p.toNat, c)

/-! ## Destinations (02 R25, R34; 10 R213) -/

/-- Examine send port n, named by an operand number (R35). -/
def examPort (n operand : Nat) : Ev Unit := fun c =>
  match liveCirc c.s (getTx c.th n) with
  | none => .error (.trap 4 6 (word operand) 0, c)
  | some k => if txRoom c.s c.t n k then .ok ((), c) else .error (.park ⟨4, word operand, .outq n, false, 0, false⟩ none, c)

/-- Examine a scalar destination where it is written (R35). -/
def examS (o : SOp) : Ev Unit :=
  match o with
  | .port n => examPort n.toNat (32 + n.toNat)
  | .s r => fun c =>
    if getFeS c.th r.toNat = .pending then .error (.park ⟨1, word r.toNat, .sReplied r.toNat, false, 0, false⟩ none, c) else .ok ((), c)

/-- A queue beat with a value (R213, R351: KIND 0). -/
def queueBeat (v : Vec) : Beat := ⟨v, 0⟩

/-- Dst of a scalar operand (R74). -/
def dstS (o : SOp) (v : Word) : Ev Unit :=
  match o with
  | .port n => evEff (.push n.toNat (queueBeat (v.setWidth 512)))
  | .s r => evEff (.sreg r.toNat v)

/-- Location of a scalar destination, with its operand number (R36): s0 is none. -/
def locS (o : SOp) : List (Loc × Nat) :=
  match o with
  | .port n => [(.port n.toNat, 32 + n.toNat)]
  | .s r => if r = 0 then [] else [(.s r.toNat, r.toNat)]

/-- The send port of an instruction whose imm names it, as a location: a push writes the port (R36, R211, R217,
R245; DEDUCED, log 116). -/
def locOutq (n : BitVec 2) : List (Loc × Nat) := [(.port n.toNat, 32 + n.toNat)]

def locP (p : BitVec 3) : List (Loc × Nat) := if p = 0 then [] else [(.p p.toNat, p.toNat)]

def locV (o : VOp) : List (Loc × Nat) :=
  match o with
  | .v r => [(.v r.toNat, r.toNat)]
  | .port n => [(.port n.toNat, 16 + n.toNat)]
  | .win _ => []

/-- Write a predicate pair under a combine mode (R91). -/
def dstPair (m : PMode) (pd pe : BitVec 3) (c : Word) : Ev Unit := do
  let a ← srcP pd
  let b ← srcP pe
  evEff (.preg pd.toNat (combine m a b c).1)
  evEff (.preg pe.toNat (combine m a b c).2)

/-! ## Shape records (10 R204) -/

/-- The record at a TCM address, read whatever the full bits say (R204). -/
def evRec (a : Word) : Ev Rec := fun c =>
  match recFault c.core a with
  | some cause => .error (.trap 4 cause a 0, c)
  | none => .ok (memRec c.core.tcm a.toNat, c)

/-! ## Vector elements (08 R144, 09 R167) -/

/-- Element i of width w. -/
def vElem (w : Nat) (v : Vec) (i : Nat) : Nat := bitsAt v (w * i) w

/-- A vector from its elements of width w, element 0 lowest; each is taken modulo 2^w. -/
def vPack (w : Nat) (l : List Nat) : Vec := BitVec.ofNat 512 (l.foldr (fun x acc => x % 2 ^ w + 2 ^ w * acc) 0)

/-- A vector of the n = 512/w elements f 0, f 1, …. -/
def vTab (w : Nat) (f : Nat → Nat) : Vec := vPack w ((List.range (512 / w)).map f)

/-- Enable mask width code of R351. -/
def wcOf (w : Nat) : Nat := match w with
  | 64 => 0
  | 32 => 1
  | 16 => 2
  | 8 => 3
  | 4 => 4
  | _ => 5

/-- Examine a vector destination: a register that some element leaves unwritten is also read as a source (R33), a port needs
room, a window a place (R34, R219). Answers the old value, zero for a port or window. -/
def examV (o : VOp) (whole : Bool) : Ev Vec :=
  match o with
  | .v r =>
    if whole then fun c =>
      if getFeV c.th r.toNat = .pending then .error (.park ⟨1, word r.toNat, .vReplied r.toNat, false, 0, false⟩ none, c) else .ok (0, c)
    else srcV o
  | .port n => do
    examPort n.toNat (16 + n.toNat)
    pure 0
  | .win n => fun c =>
    match liveCirc c.s (getWin c.th n.toNat).circ with
    | none => .error (.trap 4 6 (word (20 + n.toNat)) 0, c)
    | some k =>
      if winRoom c.s c.t n.toNat k then .ok (0, c)
      else .error (.park ⟨4, word (20 + n.toNat), .win n.toNat, false, 0, false⟩ none, c)

/-- Write a vector destination: the merged value to a register or port, the enabled elements to a window (R34). -/
def dstV (o : VOp) (w : Nat) (mask : Word) (v : Vec) : Ev Unit :=
  match o with
  | .v r => evEff (.vreg r.toNat v)
  | .port n => evEff (.push n.toNat (queueBeat v))
  | .win n => evEff (.win n.toNat v (wcOf w) mask)

end Sys2Proof.Machine
end

