-- ==== Sys2Proof/Machine/Effects.lean ====
section
/-! DEFINITION. What each effect of a syllable does to the state at step 5 or 6 of R35. -/

namespace Sys2Proof.Machine

set_option Elab.async false

/-- A thread's newest release at a scope wider than `di` that has not been performed: its tower and its place in the die order (R309). -/
def wideRelease (s : State) (t : Tid) : Option (Nat × Nat) :=
  ((((pendingWrites (getDie s t.die)).filter fun r => r.tid == t && r.who == .thread && isRelease r.ord && decide (3 < scopeCode r.sco)).map
    (·.seq)).max?).map fun q => (t.die, q)

/-- What holds back a beat: a message of a thread, its release (R309). -/
def beatHold (s : State) (src : InjSrc) : Option (Nat × Nat) :=
  match src with
  | .tx t _ | .win t _ => wideRelease s t
  | _ => none

/-- A beat takes its place in a circuit's injection order (R219); it is available to the router at the first wheel count
that begins at least one slot after the core cycle ends (R352, log 6), and after a release once its writes are performed (R309). -/
def injectBeat (s : State) (circ : Nat) (b : Beat) (src : InjSrc) : State :=
  sink (modCircuit s circ fun c => { c with inj := c.inj ++ [⟨b, src, s.wheel + 2, beatHold s src⟩] }) (getCircuit s circ).ctx

/-- Push a beat on a send port (R213). -/
def pushBeat (s : State) (t : Tid) (n : Nat) (b : Beat) : State :=
  match liveCirc s (getTx (getThread s t) n) with
  | some k => injectBeat s k b (.tx t n)
  | none => s

/-- Take the head of a receive queue and refill the queue from the oldest ring beat (R215). -/
def popRx (c : Core) (r : Rx) : Rx :=
  let r := { r with q := r.q.tail }
  if r.rcount = 0 then r
  else { r with
    q := r.q ++ [mVec c.tcm (r.rbase + 64 * (r.rhead % r.rlen))]
    rhead := (r.rhead + 1) % r.rlen
    rcount := r.rcount - 1 }

def popPortEff (s : State) (t : Tid) (n : Nat) : State :=
  let c := getCore s (tidKey t)
  modThread s t fun th => setRx th n (popRx c (getRx th n))

/-- Envelope of a window beat in the mask form (R351). -/
def winEnv (addr wc : Nat) (mask : Word) : BitVec 88 :=
  BitVec.ofNat 88 (3 + wc * 2 ^ 4 + addr / 64 * 2 ^ 8 + mask.toNat * 2 ^ 24)

/-- Envelope and data of a tag write (R219, R351). -/
def tagBeat (wbase tag : Nat) : Beat := ⟨BitVec.ofNat 512 (tag % 2 ^ 16), BitVec.ofNat 88 (4 + (wbase - 8) / 8 * 2 ^ 8)⟩

/-- One window write: the tag write first where a tile begins, then the beat; cursor and tag advance (R219). -/
def winWrite (s : State) (t : Tid) (n : Nat) (v : Vec) (wc : Nat) (mask : Word) : State :=
  let w := getWin (getThread s t) n
  match liveCirc s w.circ with
  | none => s
  | some k =>
    let tagged := w.tagen && w.cursor == 0
    let s := if tagged then injectBeat s k (tagBeat w.wbase w.tag) (.win t n) else s
    let s := injectBeat s k ⟨v, winEnv (w.wbase + 64 * w.cursor) wc mask⟩ (.win t n)
    modThread s t fun th => setWin th n
      { w with cursor := (w.cursor + 1) % w.wlen, tag := if tagged then (w.tag + 1) % 2 ^ 16 else w.tag }

end Sys2Proof.Machine
end

