-- ==== Sys2Proof/Machine/Numeric.lean ====
section
/-! DEFINITION. Number formats, rounding, conversions and the correctly rounded functions
(spec/08_number_formats_and_rounding.md R139 to R164). A finite value is a sign and a dyadic magnitude; an inexact function
gives a truncated magnitude of some 200 bits with a sticky mark, which rounding reads (log 10). -/

namespace Sys2Proof.Machine

set_option Elab.async false

/-- A magnitude m · 2^e with its sign; with `st` the value lies strictly between m · 2^e and (m+1) · 2^e. -/
structure Num where
  neg : Bool
  m : Nat
  e : Int
  st : Bool
deriving DecidableEq, Repr

/-- The value of an element (R139). -/
inductive FV where
  | nan
  | inf (neg : Bool)
  | fin (x : Num)
deriving DecidableEq, Repr

/-- The rounding modes of R149 after DYN is resolved. -/
inductive RMode where
  | rne | rtz | rdn | rup | sr
deriving DecidableEq, Repr

/-- Which special encodings a floating-point type has (R139). -/
inductive Special where
  /-- Infinity and NaN at the greatest exponent. -/
  | ieee
  /-- One NaN, no infinity (E4M3). -/
  | oneNan
  | none
deriving DecidableEq, Repr

/-- Exponent bits, mantissa bits and bias of a floating-point type (R139). -/
structure Fmt where
  eb : Nat
  mb : Nat
  bias : Nat
  sp : Special
deriving DecidableEq, Repr

/-- The layout of a floating-point type or of the elements of an MX type; none for integers and MX-INT8 (R139). -/
def fmtOf : Ty → Option Fmt
  | .f32 => some ⟨8, 23, 127, .ieee⟩
  | .f16 => some ⟨5, 10, 15, .ieee⟩
  | .bf16 => some ⟨8, 7, 127, .ieee⟩
  | .e4m3 | .mxe4m3 => some ⟨4, 3, 7, .oneNan⟩
  | .e5m2 | .mxe5m2 => some ⟨5, 2, 15, .ieee⟩
  | .e3m2 | .mxe3m2 => some ⟨3, 2, 3, .none⟩
  | .e2m3 | .mxe2m3 => some ⟨2, 3, 1, .none⟩
  | .e2m1 | .mxe2m1 => some ⟨2, 1, 1, .none⟩
  | _ => none

def fmt32 : Fmt := ⟨8, 23, 127, .ieee⟩

def Num.zero (neg : Bool) : Num := ⟨neg, 0, 0, false⟩

/-! ## Patterns and values -/

/-- The canonical NaN of a type that has one, zero otherwise (R140, R152). -/
def nanPat (f : Fmt) : Nat :=
  match f.sp with
  | .ieee => (2 ^ f.eb - 1) * 2 ^ f.mb + 2 ^ (f.mb - 1)
  | .oneNan => 2 ^ (f.eb + f.mb) - 1
  | .none => 0

/-- Greatest mantissa integer and its quantum exponent among the finite values (R139). -/
def maxMant (f : Fmt) : Nat := match f.sp with
  | .oneNan => 2 ^ (f.mb + 1) - 2
  | _ => 2 ^ (f.mb + 1) - 1
def maxExp (f : Fmt) : Int := match f.sp with
  | .ieee => (2 ^ f.eb - 2 : Nat) - (f.bias : Int) - f.mb
  | _ => (2 ^ f.eb - 1 : Nat) - (f.bias : Int) - f.mb

def signPat (f : Fmt) (neg : Bool) : Nat := if neg then 2 ^ (f.eb + f.mb) else 0

/-- ±max of a type. -/
def maxPat (f : Fmt) (neg : Bool) : Nat :=
  signPat f neg + match f.sp with
    | .ieee => (2 ^ f.eb - 1) * 2 ^ f.mb - 1
    | .oneNan => 2 ^ (f.eb + f.mb) - 2
    | .none => 2 ^ (f.eb + f.mb) - 1

def infPat (f : Fmt) (neg : Bool) : Nat := signPat f neg + (2 ^ f.eb - 1) * 2 ^ f.mb

/-- The value of a floating-point pattern; container bits above the value field are ignored (R139, R142). -/
def fltValue (f : Fmt) (p : Nat) : FV :=
  let neg := p.testBit (f.eb + f.mb)
  let ex := p / 2 ^ f.mb % 2 ^ f.eb
  let m := p % 2 ^ f.mb
  let top := ex = 2 ^ f.eb - 1
  let special := match f.sp with
    | .ieee => top
    | .oneNan => top ∧ m = 2 ^ f.mb - 1
    | .none => False
  have : Decidable special := by dsimp only [special]; split <;> infer_instance
  if special then (if f.sp = .ieee ∧ m = 0 then .inf neg else .nan)
  else if ex = 0 then .fin ⟨neg, m, 1 - (f.bias : Int) - f.mb, false⟩
  else .fin ⟨neg, 2 ^ f.mb + m, (ex : Int) - f.bias - f.mb, false⟩

/-- The integer of an integer pattern (R143). -/
def intValue (t : Ty) (p : Nat) : Int :=
  let w := tyWidth t
  let p := p % 2 ^ w
  if tySigned t ∨ t = .mxi8 then (if p < 2 ^ (w - 1) then (p : Int) else (p : Int) - 2 ^ w) else p

def numOfInt (i : Int) (e : Int) : Num := ⟨decide (i < 0), i.natAbs, e, false⟩

/-- The value of an element pattern of a type, an MX element without its scale (R139, R143). -/
def valueOf (t : Ty) (p : Nat) : FV :=
  match fmtOf t with
  | some f => fltValue f p
  | none => .fin (numOfInt (intValue t p) (if t = .mxi8 then -6 else 0))

/-- An E8M0 scale applied exactly (R145, R147). -/
def scaled (x : FV) (scale : Nat) : FV :=
  if scale = 255 then .nan
  else match x with
    | .fin n => .fin { n with e := n.e + (scale : Int) - 127 }
    | y => y

/-! ## Rounding (R149 to R153) -/

/-- SRDraw (R153). -/
def srDraw (key : Word) (k : Nat) : Nat :=
  let z := key + word (k + 1) * 0x9E3779B97F4A7C15
  let z := (z ^^^ (z >>> 30)) * 0xBF58476D1CE4E5B9
  let z := (z ^^^ (z >>> 27)) * 0x94D049BB133111EB
  let z := z ^^^ (z >>> 31)
  bitsAt z 0 32

/-- Whether a value between lo and lo + 1 quanta goes away from zero: `rem` of 2^sh quanta with a sticky mark. -/
def roundUp (mode : RMode) (draw : Nat) (neg : Bool) (lo rem sh : Nat) (st : Bool) : Bool :=
  if rem = 0 ∧ st = false then false
  else match mode with
    | .rne => decide (2 ^ sh < 2 * rem) || (2 * rem == 2 ^ sh && (st || lo % 2 == 1))
    | .rtz => false
    | .rdn => neg
    | .rup => !neg
    | .sr => decide (draw < 2 ^ 32 * rem / 2 ^ sh)

/-- Round a magnitude to a multiple of 2^q: the multiple (R149). -/
def roundAt (mode : RMode) (draw : Nat) (x : Num) (q : Int) : Nat :=
  if q ≤ x.e then
    let lo := x.m * 2 ^ (x.e - q).toNat
    -- a sticky value is never given at or above its rounding quantum; its discarded part is below one quantum
    if roundUp mode draw x.neg lo 0 1 x.st then lo + 1 else lo
  else
    let sh := (q - x.e).toNat
    let lo := x.m / 2 ^ sh
    if roundUp mode draw x.neg lo (x.m % 2 ^ sh) sh x.st then lo + 1 else lo

/-- The result of an overflow (R152). -/
def overflowPat (f : Fmt) (mode : RMode) (sat neg : Bool) : Nat :=
  if sat || f.sp = .none then maxPat f neg
  else
    let toMax := match mode with
      | .rne | .sr => false
      | .rtz => true
      | .rdn => !neg
      | .rup => neg
    if toMax then maxPat f neg else if f.sp = .ieee then infPat f neg else nanPat f

/-- Round(x, t, mode) of a finite value (R149, R152). -/
def roundNum (f : Fmt) (mode : RMode) (sat : Bool) (draw : Nat) (x : Num) : Nat :=
  if x.m = 0 then signPat f x.neg
  else
    let top : Int := x.e + x.m.log2
    let low : Int := 1 - (f.bias : Int)
    let q : Int := (if top < low then low else top) - f.mb
    let r := roundAt mode draw x q
    let (r, q) := if 2 ^ (f.mb + 1) ≤ r then (r / 2, q + 1) else (r, q)
    if maxExp f < q ∨ (q = maxExp f ∧ maxMant f < r) then overflowPat f mode sat x.neg
    else if r < 2 ^ f.mb then signPat f x.neg + r
    else signPat f x.neg + (q + f.mb + f.bias).toNat * 2 ^ f.mb + (r - 2 ^ f.mb)

/-- Round any value to a floating-point type (R152, R154). -/
def roundF (f : Fmt) (mode : RMode) (sat : Bool) (draw : Nat) (x : FV) : Nat :=
  match x with
  | .nan => nanPat f
  | .inf neg => if sat || f.sp = .none then maxPat f neg else if f.sp = .ieee then infPat f neg else nanPat f
  | .fin n => roundNum f mode sat draw n

/-- Least and greatest value of an integer type, MX-INT8 included (R143). -/
def intMin (t : Ty) : Int := if tySigned t ∨ t = .mxi8 then -(2 ^ (tyWidth t - 1)) else 0
def intMax (t : Ty) : Int := if tySigned t ∨ t = .mxi8 then 2 ^ (tyWidth t - 1) - 1 else 2 ^ tyWidth t - 1

def clampInt (t : Ty) (i : Int) : Int := if i < intMin t then intMin t else if intMax t < i then intMax t else i

/-- The low w bits of an integer. -/
def wrapInt (w : Nat) (i : Int) : Nat := (i % 2 ^ w).toNat

/-- Round to a multiple of 2^q and clamp to an integer type (R155; MX-INT8 with q = −6). -/
def roundI (t : Ty) (q : Int) (mode : RMode) (draw : Nat) (x : FV) : Nat :=
  match x with
  | .nan => 0
  | .inf neg => wrapInt (tyWidth t) (if neg then intMin t else intMax t)
  | .fin n =>
    let r : Int := roundAt mode draw n q
    wrapInt (tyWidth t) (clampInt t (if n.neg then -r else r))

/-- A value to any element type under a mode (R154 to R156): the saturating element rounding of MX types is sat = 1. -/
def roundTo (t : Ty) (mode : RMode) (sat : Bool) (draw : Nat) (x : FV) : Nat :=
  match fmtOf t with
  | some f => roundF f mode sat draw x
  | none => roundI t (if t = .mxi8 then -6 else 0) mode draw x

/-- Whether an integer type holds every value of another (R156). -/
def intHolds (dst src : Ty) : Bool := intMin dst ≤ intMin src && intMax src ≤ intMax dst

/-- Convert between types that are not MX (R154 to R156). -/
def convert (src dst : Ty) (mode : RMode) (sat : Bool) (draw : Nat) (p : Nat) : Nat :=
  if tyInt src && tyInt dst then
    if sat && !intHolds dst src then wrapInt (tyWidth dst) (clampInt dst (intValue src p))
    else wrapInt (tyWidth dst) (intValue src p)
  else roundTo dst mode sat draw (valueOf src p)

/-! ## Exact arithmetic (R150, R158) -/

/-- The signed integer of a number at a common exponent at or below its own. -/
def atExp (x : Num) (e : Int) : Int :=
  let m : Int := x.m * 2 ^ (x.e - e).toNat
  if x.neg then -m else m

/-- An exact zero sum: −0 when both are −0 or the mode is RDN, else +0 (R150). -/
def zeroSum (mode : RMode) (a b : Bool) : Num := .zero (if a = b then a else mode = .rdn)

/-- The exact sum of two finite values (R150). -/
def numAdd (mode : RMode) (a b : Num) : Num :=
  if a.m = 0 ∧ b.m = 0 then zeroSum mode a.neg b.neg
  else if a.m = 0 then b
  else if b.m = 0 then a
  else
    let e := if a.e ≤ b.e then a.e else b.e
    let s := atExp a e + atExp b e
    if s = 0 then .zero (mode = .rdn) else numOfInt s e

def fNeg : FV → FV
  | .nan => .nan
  | .inf n => .inf (!n)
  | .fin x => .fin { x with neg := !x.neg }

def fAdd (mode : RMode) (a b : FV) : FV :=
  match a, b with
  | .nan, _ => .nan
  | _, .nan => .nan
  | .inf x, .inf y => if x = y then .inf x else .nan
  | .inf x, _ => .inf x
  | _, .inf y => .inf y
  | .fin x, .fin y => .fin (numAdd mode x y)

def fMul (a b : FV) : FV :=
  match a, b with
  | .nan, _ => .nan
  | _, .nan => .nan
  | .inf x, .inf y => .inf (x != y)
  | .inf x, .fin y => if y.m = 0 then .nan else .inf (x != y.neg)
  | .fin x, .inf y => if x.m = 0 then .nan else .inf (x.neg != y)
  | .fin x, .fin y => .fin ⟨x.neg != y.neg, x.m * y.m, x.e + y.e, false⟩

/-- x × y + z, exact (R170). -/
def fFma (mode : RMode) (x y z : FV) : FV := fAdd mode (fMul x y) z

/-- The order of two values that are not NaN, −0 below +0 (R159). -/
def numLt (a b : Num) : Bool :=
  let e := if a.e ≤ b.e then a.e else b.e
  let x := atExp a e
  let y := atExp b e
  decide (x < y) || (x == y && a.neg && !b.neg)

def fLt (a b : FV) : Bool :=
  match a, b with
  | .inf x, .inf y => x && !y
  | .inf x, _ => x
  | _, .inf y => !y
  | .fin x, .fin y => numLt x y
  | _, _ => false

def fIsNan : FV → Bool
  | .nan => true
  | _ => false

/-- Max and min (R159). -/
def fMax (a b : FV) : FV := if fIsNan a || fIsNan b then .nan else if fLt a b then b else a
def fMin (a b : FV) : FV := if fIsNan a || fIsNan b then .nan else if fLt b a then b else a

/-- Equality of values, +0 and −0 equal (R177); false with a NaN. -/
def fEq (a b : FV) : Bool :=
  match a, b with
  | .inf x, .inf y => x == y
  | .fin x, .fin y => (x.m == 0 && y.m == 0) || (!numLt x y && !numLt y x)
  | _, _ => false

/-- Ordered less-than of values, +0 and −0 equal (R177). -/
def fLess (a b : FV) : Bool := !fIsNan a && !fIsNan b && fLt a b && !fEq a b

/-! ## The correctly rounded functions (R160) -/

/-- Bits of a quotient or root below the operand's. -/
def fnBits : Nat := 256

/-- ⌊√n⌋ by bits from 2^k down. -/
def isqrtGo (n : Nat) : Nat → Nat → Nat
  | 0, r => r
  | k + 1, r =>
    let c := r + 2 ^ k
    isqrtGo n k (if c * c ≤ n then c else r)
def isqrt (n : Nat) : Nat := isqrtGo n (n.log2 / 2 + 1) 0

def numDiv (x y : Num) : Num :=
  let n := x.m * 2 ^ fnBits
  ⟨x.neg != y.neg, n / y.m, x.e - y.e - fnBits, decide (n % y.m ≠ 0)⟩

def fDiv (a b : FV) : FV :=
  match a, b with
  | .nan, _ => .nan
  | _, .nan => .nan
  | .inf _, .inf _ => .nan
  | .inf x, .fin y => .inf (x != y.neg)
  | .fin x, .inf y => .fin (.zero (x.neg != y))
  | .fin x, .fin y =>
    if y.m = 0 then (if x.m = 0 then .nan else .inf (x.neg != y.neg))
    else if x.m = 0 then .fin (.zero (x.neg != y.neg))
    else .fin (numDiv x y)

def numOne : Num := ⟨false, 1, 0, false⟩
def fRcp (a : FV) : FV := fDiv (.fin numOne) a

/-- A number with an even exponent. -/
def evenExp (x : Num) : Num := if x.e % 2 = 0 then x else { x with m := 2 * x.m, e := x.e - 1 }

def fSqrt (a : FV) : FV :=
  match a with
  | .nan => .nan
  | .inf n => if n then .nan else .inf false
  | .fin x =>
    if x.m = 0 then .fin (.zero x.neg)
    else if x.neg then .nan
    else
      let y := evenExp x
      let n := y.m * 2 ^ (2 * fnBits)
      let r := isqrt n
      .fin ⟨false, r, y.e / 2 - fnBits, decide (r * r ≠ n)⟩

def fRsq (a : FV) : FV :=
  match a with
  | .nan => .nan
  | .inf n => if n then .nan else .fin (.zero false)
  | .fin x =>
    if x.m = 0 then .inf x.neg
    else if x.neg then .nan
    else
      let y := evenExp x
      let r := isqrt (2 ^ (2 * fnBits) / y.m)
      .fin ⟨false, r, -(y.e / 2) - fnBits, decide (r * r * y.m ≠ 2 ^ (2 * fnBits))⟩

/-- Bits kept while a power of two is formed. -/
def expBits : Nat := 320

/-- The product of 2^(2^−i) over the set bits of a fraction, most significant bit first; `root` is 2^(2^−(i−1)). -/
def exp2Go (f : Nat) : Nat → Nat → Nat → Nat
  | 0, _, acc => acc
  | k + 1, root, acc =>
    let r := isqrt (root * 2 ^ expBits)
    exp2Go f k r (if f.testBit k then acc * r / 2 ^ expBits else acc)

/-- 2^x: exact for an integer, else the product of roots of 2 named by the bits of the fraction. -/
def fExp2 (a : FV) : FV :=
  match a with
  | .nan => .nan
  | .inf n => if n then .fin (.zero false) else .inf false
  | .fin x =>
    let k := (-x.e).toNat
    let v := atExp x (if x.e ≤ 0 then x.e else 0)
    let n := v / 2 ^ k
    let f := (v % 2 ^ k).toNat
    -- beyond any type's range the result is taken as 2^±100000, which every type overflows or rounds to zero
    let n := if 100000 < n then 100000 else if n < -100000 then -100000 else n
    if f = 0 then .fin ⟨false, 1, n, false⟩
    else .fin ⟨false, exp2Go f k (2 * 2 ^ expBits) (2 ^ expBits), n - expBits, true⟩

/-- Bits of a logarithm's fraction, and bits kept while it is formed. -/
def logOut : Nat := 256
def logBits : Nat := 640

/-- Bits of log2 y for 1 ≤ y < 2, by repeated squaring. -/
def log2Go : Nat → Nat → Nat → Nat
  | 0, _, acc => acc
  | k + 1, y, acc =>
    let z := y * y / 2 ^ logBits
    if 2 ^ (logBits + 1) ≤ z then log2Go k (z / 2) (2 * acc + 1) else log2Go k z (2 * acc)

/-- log2 x: exact for a power of two. -/
def fLog2 (a : FV) : FV :=
  match a with
  | .nan => .nan
  | .inf n => if n then .nan else .inf false
  | .fin x =>
    if x.m = 0 then .inf true
    else if x.neg then .nan
    else
      let t := x.m.log2
      let l : Int := x.e + t
      if x.m = 2 ^ t then .fin (numOfInt l 0)
      else
        let frac := log2Go logOut (x.m * 2 ^ (logBits - t)) 0
        let v : Int := l * 2 ^ logOut + frac
        if 0 ≤ v then .fin ⟨false, v.toNat, -(logOut : Int), true⟩
        else .fin ⟨true, (-v).toNat - 1, -(logOut : Int), true⟩

/-! ## The composed functions (R161, R162) -/

def round32 (x : FV) : FV := fltValue fmt32 (roundF fmt32 .rne false 0 x)

/-- t3 of R161: 1 + 2^(−x · log2 e), each step rounded to FP32. -/
def sigmDen (x : FV) : FV :=
  let t1 := round32 (fMul (fNeg x) (fltValue fmt32 0x3FB8AA3B))
  let t2 := round32 (fExp2 t1)
  round32 (fAdd .rne (.fin numOne) t2)

def fSigm (x : FV) : FV := fRcp (sigmDen x)
def fSilu (x : FV) : FV := fMul x (round32 (fSigm x))

/-! ## Sums (R163, R164) -/

/-- ReduceTree over a list whose length is a power of two (R163): one round, and the whole. -/
def treePairs {α : Type} (op : α → α → α) : List α → List α
  | a :: b :: t => op a b :: treePairs op t
  | l => l
def reduceTree {α : Type} (op : α → α → α) : Nat → List α → List α
  | 0, l => l
  | n + 1, l => if l.length ≤ 1 then l else reduceTree op n (treePairs op l)

def isInf (neg : Bool) : FV → Bool
  | .inf n => n == neg
  | _ => false

def isZero : FV → Bool
  | .fin x => x.m == 0
  | _ => false

def isNegZero : FV → Bool
  | .fin x => x.m == 0 && x.neg
  | _ => false

/-- The classes of a group of products before the exact sum (R164): NaN, an infinity, or zeros alone. -/
def groupSpecial (ps : List FV) : Option FV :=
  if ps.any fIsNan || (ps.any (isInf false) && ps.any (isInf true)) then some .nan
  else if ps.any (isInf false) then some (.inf false)
  else if ps.any (isInf true) then some (.inf true)
  else if ps.all isZero then some (.fin (.zero (ps.all isNegZero)))
  else none

def finNums (ps : List FV) : List Num := ps.filterMap fun p => match p with
  | .fin x => if x.m = 0 then none else some x
  | _ => none

/-- The exact sum of a group's products; a sum with no term but zeros is +0 in every mode (R164, R186; DESIGN CHOICE, log 121). -/
def groupExact (mode : RMode) (ps : List FV) : FV :=
  match groupSpecial ps with
  | some x => x
  | none => .fin ((finNums ps).foldl (fun a b => if a.m = 0 then b else numAdd mode a b) (.zero false))

/-- The sum S of a group, truncated at 2^(emax − 62) (R164). -/
def groupSum (ps : List FV) : FV :=
  match groupSpecial ps with
  | some x => x
  | none =>
    let l := finNums ps
    let top (x : Num) : Int := x.e + x.m.log2
    let emax := l.foldl (fun a x => if a < top x then top x else a) ((l.head?.map top).getD 0)
    let q := emax - 62
    let trunc (x : Num) : Int :=
      let v : Int := if q ≤ x.e then x.m * 2 ^ (x.e - q).toNat else x.m / 2 ^ (q - x.e).toNat
      if x.neg then -v else v
    .fin (numOfInt (l.foldl (fun a x => a + trunc x) 0) q)

/-! ## MX encoding (R148) -/

/-- EMAX(t) (R148). -/
def mxEmax : Ty → Int
  | .mxe4m3 => 8
  | .mxe5m2 => 15
  | .mxe3m2 => 4
  | .mxe2m3 => 2
  | .mxe2m1 => 2
  | _ => 0

def isFinite : FV → Bool
  | .fin _ => true
  | _ => false

/-- MXEncode with RNE, as the engine uses it: the scale byte and the elements (R148, R151). -/
def mxEncode (t : Ty) (xs : List FV) : Nat × List Nat :=
  if xs.all isFinite then
    let l := finNums xs
    if l.isEmpty then (0x7F, xs.map fun x => if t = .mxi8 then 0 else roundTo t .rne true 0 x)
    else
      let top (x : Num) : Int := x.e + x.m.log2
      let emax := l.foldl (fun a x => if a < top x then top x else a) ((l.head?.map top).getD 0)
      let e := if emax - mxEmax t < -127 then -127 else emax - mxEmax t
      ((e + 127).toNat, xs.map fun x => match x with
        | .fin n => roundTo t .rne true 0 (.fin { n with e := n.e - e })
        | _ => 0)
  else (0xFF, xs.map fun _ => 0)

/-! ## Least, greatest and the scan operators (R171, R187 to R189) -/

/-- Max and min of two patterns: floats under R159, integers as ty reads them. -/
def maxElem (t : Ty) (x y : Nat) : Nat :=
  if tyF t then roundTo t .rne false 0 (fMax (valueOf t x) (valueOf t y))
  else if intValue t x < intValue t y then y else x

def minElem (t : Ty) (x y : Nat) : Nat :=
  if tyF t then roundTo t .rne false 0 (fMin (valueOf t x) (valueOf t y))
  else if intValue t y < intValue t x then y else x

/-- The identity of an addition: −0, or 0 (R163). -/
def addIdent (t : Ty) : Nat := if tyF t then 2 ^ (tyWidth t - 1) else 0

/-- −infinity or the least value; +infinity or the greatest (R163). -/
def leastPat (t : Ty) : Nat :=
  match fmtOf t with
  | some f => infPat f true
  | none => wrapInt (tyWidth t) (intMin t)

def greatestPat (t : Ty) : Nat :=
  match fmtOf t with
  | some f => infPat f false
  | none => wrapInt (tyWidth t) (intMax t)

/-- RoundRNE to the type of an FP32 operation, or the sum and product modulo 2^w of integers (R189). -/
def scanAdd (t : Ty) (x y : Nat) : Nat :=
  if t = .f32 then roundTo .f32 .rne false 0 (fAdd .rne (valueOf t x) (valueOf t y)) else (x + y) % 2 ^ tyWidth t

def scanMul (t : Ty) (x y : Nat) : Nat :=
  if t = .f32 then roundTo .f32 .rne false 0 (fMul (valueOf t x) (valueOf t y)) else x * y % 2 ^ tyWidth t

/-- x × y + z with one rounding. -/
def scanFma (t : Ty) (x y z : Nat) : Nat :=
  if t = .f32 then roundTo .f32 .rne false 0 (fFma .rne (valueOf t x) (valueOf t y) (valueOf t z))
  else (x * y + z) % 2 ^ tyWidth t

/-- Combine(p, x) of two items (R189); an item of one element leaves its second at 0. -/
def scanCombine (t : Ty) (opr : Nat) (p x : Nat × Nat) : Nat × Nat :=
  match opr with
  | 0 => (scanAdd t p.1 x.1, 0)
  | 1 => (scanMul t p.1 x.1, 0)
  | 2 => (minElem t p.1 x.1, 0)
  | 3 => (maxElem t p.1 x.1, 0)
  | 4 => (p.1 &&& x.1, 0)
  | 5 => (p.1 ||| x.1, 0)
  | 6 => (p.1 ^^^ x.1, 0)
  | 7 => (scanMul t x.1 p.1, scanFma t x.1 p.2 x.2)
  | _ => (scanAdd t p.1 x.1, maxElem t (scanAdd t p.2 x.1) x.2)

/-- The pattern of 1 in a type. -/
def onePat (t : Ty) : Nat := roundTo t .rne false 0 (.fin numOne)

/-- The exclusive identity (R189). -/
def scanIdent (t : Ty) (opr : Nat) : Nat × Nat :=
  match opr with
  | 0 => (addIdent t, 0)
  | 1 => (onePat t, 0)
  | 2 => (greatestPat t, 0)
  | 3 => (leastPat t, 0)
  | 4 => (2 ^ tyWidth t - 1, 0)
  | 5 => (0, 0)
  | 6 => (0, 0)
  | 7 => (onePat t, 0)
  | _ => (0, leastPat t)

/-- Whether an operator is assigned, and takes the type (R188). -/
def scanOk (t : Ty) (opr : Nat) : Bool := opr ≤ 8 && !(t == .f32 && 4 ≤ opr && opr ≤ 6)

/-- Elements of an item. -/
def scanGroup (opr : Nat) : Nat := if 7 ≤ opr then 2 else 1

end Sys2Proof.Machine
end

