-- ==== Sys2Proof/Machine/SpireNet.lean ====
section
/-! DEFINITION. The spire network: joins, collective operations, their combine order, delivery and faults, before they reach a thread
(spec/18_spire_network.md R374 to R391). -/

namespace Sys2Proof.Machine

set_option Elab.async false

def getSpire (s : State) (ch : Nat) : SpireChan := mapGet SpireChan.reset s.spire ch
def setSpire (s : State) (ch : Nat) (c : SpireChan) : State := { s with spire := mapSet s.spire ch c }
def modSpire (s : State) (ch : Nat) (f : SpireChan → SpireChan) : State := setSpire s ch (f (getSpire s ch))

/-- The position P of a core's leaf (R375). -/
def leafPos (t : Tid) : Nat := coreKey t.die t.core

/-- Entry wheel count: the first count not below t that is congruent to the channel modulo 32 (R385). -/
def spireEntry (ch t : Nat) : Nat := t + (ch % 32 + 32 - t % 32) % 32

/-- The word of a spire-fault (R388). -/
def spireTval (ch kind : Nat) : Word := word (ch + kind * 256)

def memberAt (c : SpireChan) (pos : Nat) : Option SpireMember := c.members.find? fun m => m.pos == pos && m.gone.isNone

/-! ## Descriptors (R376, R378, R379) -/

def spOpr (d : Word) : Nat := bitsAt d 0 4
def spExc (d : Word) : Bool := bitAt d 4
def spDt (d : Word) : Nat := bitsAt d 5 2
def spWid (d : Word) : Nat := bitsAt d 8 4 + 1

/-- A valid operator descriptor (R378). -/
def spDescOk (scan : Bool) (d : Word) : Bool :=
  bitsAt d 12 52 == 0 && !bitAt d 7 && spOpr d ≤ 8 && !(spDt d < 2 && 4 ≤ spOpr d && spOpr d ≤ 6) &&
  !(spDt d == 3 && 8 < spWid d) && !(7 ≤ spOpr d && spWid d % 2 == 1) && (scan || !spExc d)

/-- A valid membership word (R376). -/
def spJoinOk (w : Word) : Bool :=
  bitsAt w 17 47 == 0 && bitsAt w 14 2 == 0 &&
  if bitAt w 16 then bitsAt w 0 14 == 0 else 1 ≤ bitsAt w 0 14 && bitsAt w 0 14 ≤ 10240

/-- The type that a DT combines in, and the width of a contributed element (R379). -/
def dtTy (dt : Nat) : Ty := match dt with
  | 2 => .i32
  | 3 => .i64
  | _ => .f32
def dtInWidth (dt : Nat) : Nat := match dt with
  | 1 => 16
  | 3 => 64
  | _ => 32

/-- The items that a value contributes under a descriptor. -/
def spItems (d : Word) (v : Vec) : List (Nat × Nat) :=
  let w := dtInWidth (spDt d)
  let el (j : Nat) : Nat := if spDt d = 1 then convert .bf16 .f32 .rne false 0 (vElem w v j) else vElem w v j
  let g := scanGroup (spOpr d)
  (List.range (spWid d / g)).map fun i => (el (g * i), el (g * i + g - 1))

/-- The value that items make: element j of the result's width, zero elsewhere. -/
def spResult (d : Word) (items : List (Nat × Nat)) : Vec :=
  vPack (tyWidth (dtTy (spDt d))) (items.flatMap fun p => if scanGroup (spOpr d) = 2 then [p.1, p.2] else [p.1])

/-! ## The combine order (R380) -/

/-- Comb over items that may be absent. -/
def spComb (d : Word) (p x : Option (List (Nat × Nat))) : Option (List (Nat × Nat)) :=
  match p, x with
  | none, x => x
  | p, none => p
  | some a, some b => some (List.zipWith (scanCombine (dtTy (spDt d)) (spOpr d)) a b)

/-- One value of d of a sweep: the positions that satisfy a condition take Comb with the position 2^d before. -/
def sweepStep (d : Word) (k : Nat) (at_ : Nat → Bool) (t : List (Option (List (Nat × Nat)))) : List (Option (List (Nat × Nat))) :=
  (List.range t.length).map fun i =>
    if at_ i then spComb d (t[i - 2 ^ k]?).join (t[i]?).join else (t[i]?).join

def upSweep (d : Word) (n : Nat) (t : List (Option (List (Nat × Nat)))) : List (Option (List (Nat × Nat))) :=
  (List.range n).foldl (fun t k => sweepStep d k (fun i => (i + 1) % 2 ^ (k + 1) == 0) t) t

def downSweep (d : Word) (n : Nat) (t : List (Option (List (Nat × Nat)))) : List (Option (List (Nat × Nat))) :=
  (List.range (n - 1)).foldl (fun t j =>
    let k := n - 2 - j
    sweepStep d k (fun i => (i + 1) % 2 ^ (k + 1) == 2 ^ k && decide (2 ^ (k + 1) ≤ i)) t) t

/-- log2 of the least power of two not below n. -/
def log2Up (n : Nat) : Nat := if n ≤ 1 then 0 else (n - 1).log2 + 1

/-- The results of an operation for each rank: scan, inclusive or exclusive, or the root at every rank (R380, R384). -/
def spCombine (scan : Bool) (d : Word) (xs : List Vec) : List Vec :=
  let n := log2Up xs.length
  let t := xs.map (fun v => some (spItems d v)) ++ List.replicate (2 ^ n - xs.length) none
  let up := upSweep d n t
  let root := (up[2 ^ n - 1]?).join.getD []
  let down := downSweep d n up
  let ident := (List.range (spWid d / scanGroup (spOpr d))).map fun _ => scanIdent (dtTy (spDt d)) (spOpr d)
  (List.range xs.length).map fun r =>
    if !scan then spResult d root
    else if spExc d then (if r = 0 then spResult d ident else spResult d ((down[r - 1]?).join.getD []))
    else spResult d ((down[r]?).join.getD [])

/-! ## Joining, contributing, leaving (R376, R377, R383, R388) -/

/-- A fault of a kind for threads, written 318 slots after an entry (R388). -/
def spFaults (e kind : Nat) (l : List (Tid × Nat)) : List SpireRes :=
  l.map fun x => ⟨e + Config.spireSlots, x.1, x.2, some kind, 0⟩

/-- The fault of an instance becomes certain by what enters at e: 318 slots later it ends the instance and the group, at every member
that is parked then (R388, R389). The first such fault stands. -/
def spFail (c : SpireChan) (e kind : Nat) : SpireChan :=
  if c.failing.isSome then c else { c with failing := some (e + Config.spireSlots, kind) }

/-- The entry of the first leave that an instance in flight suffers from: it lacks the gone member's contribution (R377, R388). -/
def spLack (c : SpireChan) : Option Nat :=
  if c.members.any fun m => !m.contribs.isEmpty then
    (c.members.filterMap fun m => if m.contribs.isEmpty then m.gone else none).min?
  else none

/-- An instance that lacks the contribution of a gone member fails with kind 7. -/
def spLacking (c : SpireChan) : SpireChan :=
  match spLack c with
  | some e => spFail c e 7
  | none => c

/-- A join reaches the network: it waits, completes a group, or faults (kinds 3 and 6). One that reissues after a restore keeps
its place under its new key (R390). -/
def spireJoin (s : State) (t : Tid) (ch count key : Nat) : State :=
  let e := spireEntry ch (s.wheel + 2)
  modSpire s ch fun c =>
    let j : SpireJoin := ⟨leafPos t, t, key, count, e⟩
    if c.joins.any fun x => x.t == t then { c with joins := c.joins.map fun x => if x.t = t then { x with key := key } else x }
    else match c.joins with
    | [] => { c with joins := [j] }
    | k :: _ =>
      if k.count ≠ count then
        { c with joins := [], results := c.results ++ spFaults e 6 ((c.joins ++ [j]).map fun x => (x.t, x.key)) }
      else if count ≤ c.joins.length then { c with results := c.results ++ spFaults e 3 [(t, key)] }
      else { c with joins := c.joins ++ [j] }

/-- When a group forms: every join of COUNT has entered (R376, R385), and every thread that a restore has brought back has issued its join
again (R390). -/
def spireFormAt (c : SpireChan) : Option Nat :=
  match c.joins with
  | [] => none
  | j :: _ =>
    if c.joins.length = j.count ∧ (c.joins.all fun x => x.key != 0) = true then some ((c.joins.foldl (fun m x => max m x.e) 0) + Config.spireSlots) else none

/-- The results of an instance whose contributions are all in (R383 to R385). -/
def spireResults (c : SpireChan) : List SpireRes :=
  let ks := c.members.filterMap (·.contribs.head?)
  let e := ks.foldl (fun m k => max m k.e) 0
  let vs := ks.map (·.v)
  let out := match ks.head? with
    | none => []
    | some k =>
      match k.op with
      | 0 => spCombine true k.d vs
      | 1 => spCombine false k.d vs
      | 2 => vs.map fun _ => 0
      | _ => vs.map fun _ => (vs[bitsAt k.d 0 14]?).getD 0
  (List.zip ks out).map fun x => ⟨e + Config.spireSlots, x.1.t, x.1.key, none, x.2⟩

/-- An instance whose contributions are all in gives its results, and the members go on to the next (R383). -/
def spSettle (c : SpireChan) : SpireChan :=
  if c.failing.isNone && c.members.all fun m => !m.contribs.isEmpty then
    spLacking { c with members := c.members.map fun m => { m with contribs := m.contribs.tail }, results := c.results ++ spireResults c }
  else spLacking c

/-- Whether two contributions agree (R383). -/
def spAgree (a b : SpireContrib) : Bool :=
  a.op == b.op && (if a.op ≤ 1 then bitsAt a.d 0 12 == bitsAt b.d 0 12 else if a.op = 3 then a.d == b.d else true)

/-- Whether a contribution, or a result, is of a thread that has still to issue its operation again after a restore (R391). -/
def SpireContrib.awaits (t : Tid) (x : SpireContrib) : Bool := x.t == t && x.key == 0
def SpireRes.awaits (t : Tid) (r : SpireRes) : Bool := r.t == t && r.key == 0 && r.kind.isNone

/-- The thread that issues again waits under its new key for what its first issue contributed (R391). -/
def spRekey (c : SpireChan) (t : Tid) (key : Nat) : SpireChan :=
  { c with
    members := c.members.map fun m => { m with contribs := m.contribs.map fun x => if x.awaits t then { x with key := key } else x }
    results := c.results.map fun r => if r.awaits t then { r with key := key } else r }

/-- A contribution of a leaf to its next instance: it may disagree with another member's (kind 6), and it may complete the instance or
meet a gone member (R383, R388). -/
def spAdd (c : SpireChan) (pos : Nat) (k : SpireContrib) : SpireChan :=
  let mine (m : SpireMember) : Bool := m.pos == pos && m.gone.isNone
  let n := ((c.members.find? mine).map (·.contribs.length)).getD 0
  let c' := { c with members := c.members.map fun m => if mine m then { m with contribs := m.contribs ++ [k], inst := m.inst + 1 } else m }
  if c.members.any fun m => !mine m && ((m.contribs[n]?).map fun x => !spAgree x k).getD false then spFail c' k.e 6
  else spSettle c'

/-- A contribution reaches its leaf. A leaf that already holds it keeps the first (R391). -/
def spireContribute (s : State) (t : Tid) (ch op : Nat) (v : Vec) (d : Word) (key : Nat) : State :=
  modSpire s ch fun c =>
    if (c.members.any fun m => m.contribs.any (·.awaits t)) || c.results.any (·.awaits t) then spRekey c t key
    else spAdd c (leafPos t) ⟨t, op, d, v, spireEntry ch (s.wheel + 2), key⟩

/-- A member is gone by a leave, a retirement or a quarantine: an instance that lacks its contribution ends with kind 7; the
group dissolves with its last member (R377). -/
def spireGone (s : State) (pos ch : Nat) : State :=
  modSpire s ch fun (c : SpireChan) =>
    if (memberAt c pos).isSome then
      let c' : SpireChan := { c with members := c.members.map fun (m : SpireMember) =>
        if m.pos = pos ∧ m.gone.isNone = true then { m with gone := some (spireEntry ch s.wheel) } else m }
      if c'.members.all (·.gone.isSome) then { c' with members := [], failing := none } else spLacking c'
    else c

/-- A core's leaf is gone from every channel (R377). -/
def spireGoneAll (s : State) (pos : Nat) : State := (List.range 32).foldl (fun s ch => spireGone s pos ch) s

end Sys2Proof.Machine
end

