-- ==== Sys2Proof/Machine/Actions.lean ====
section
/-! DEFINITION. What the effects of ports, streams, the power gate, the copy engine, the matrix unit and gangs do to the state at
step 5 or 6 (spec/10 R214 to R223, spec/07 R135, spec/12 R255 and R273, spec/11 R227, R237 and R245). -/

namespace Sys2Proof.Machine

set_option Elab.async false

/-! ## Handles (17 R346, R347) -/

def handleCtx (h : Word) : Nat := bitsAt h 48 8

def handleGen (h : Word) : Nat := bitsAt h 16 32

/-- The key of the circuit a handle names: 65,536 · GEN + CIRC. -/
def handleKey (h : Word) : Nat := bitsAt h 0 48

/-- The handle of the circuit under a key. -/
def handleOf (c : Circuit) (k : Nat) : Word := word (c.ctx * 2 ^ 48 + k)

/-- Whether a circuit is open at a wheel count. -/
def circOpen (c : Circuit) (wheel : Nat) : Bool :=
  match c.closed with
  | some e => wheel < e
  | none => true

/-- The key of the circuit of a context that a handle names, from its opening by the belfry on: before its E the source releases nothing
(R347, R362). -/
def openHandle (s : State) (ctx : Nat) (h : Word) : Option Nat :=
  let k := handleKey h
  let c := getCircuit s k
  if k % 2 ^ 16 ≠ 0 ∧ bitsAt h 56 8 = 0 ∧ handleCtx h = ctx ∧ c.ctx = ctx ∧ c.gen = handleGen h ∧ c.mem.isNone = true ∧
    circOpen c s.wheel = true then some k else none

/-! ## Binding ports and streams -/

/-- Bind a receive port: queue, ring and flag are empty (R214). -/
def bindRxThread (th : Thread) (n circ rbase rlen : Nat) : Thread :=
  setRx th n ⟨some circ, rbase, rlen, [], 0, 0, false, false⟩

/-- Unbind by a selector (R216). -/
def unbindThread (th : Thread) (sel : Nat) : Thread :=
  if sel < 4 then setRx th sel Rx.reset else { th with tx := vset th.tx (sel - 4) none }

/-- Enter stream mode: value and old stream are discarded, the record is copied (R221). -/
def sbindThread (th : Thread) (j : Nat) (r : Rec) (pc : Word) : Thread :=
  let th := setStream th j ⟨true, r, 0, [], false, pc, none⟩
  if j < 4 then putS th (28 + j) 0 .full else putV th (8 + j) 0 .full

/-- Leave stream mode: the register is Full with value 0; a register not in stream mode is kept (R223). -/
def sunbindThread (th : Thread) (j : Nat) : Thread :=
  if (getStream th j).on then
    let th := setStream th j Stream.reset
    if j < 4 then putS th (28 + j) 0 .full else putV th (8 + j) 0 .full
  else th

/-! ## Landing segments (07 R130 to R133) -/

/-- LEN, FEN and FLAG of a segment header (R131). -/
def hdrLen (l : List Byte) : Nat := bitsAt (word (bytesNat (l.take 8))) 0 13
def hdrFen (l : List Byte) : Bool := bitAt (word (bytesNat ((l.drop 8).take 8))) 63
def hdrFlag (l : List Byte) : Nat := bitsAt (word (bytesNat ((l.drop 8).take 8))) 0 19

/-- Whether a header is valid (R132). -/
def hdrValid (l : List Byte) : Bool :=
  1 ≤ hdrLen l && hdrLen l ≤ 4096 && hdrFlag l % 8 == 0 && bitsAt (word (bytesNat (l.take 8))) 13 51 == 0 &&
  bitsAt (word (bytesNat ((l.drop 8).take 8))) 19 44 == 0 && bytesNat (l.drop 16) == 0

/-- Frames in use (R130). -/
def framesUsed (c : Core) : Nat := (c.segs.map fun g => ceilDiv g.len 64).sum

def dropSeg (c : Core) (seg : Nat) : Core := { c with segs := c.segs.filter fun g => g.num != seg }

/-- Step 6 of `cfetch`: the segment's earlier landing goes, the flag word is Empty, and the landing goes on without the thread
(R132). -/
def startLanding (c : Core) (l : Landing) : Core :=
  let c := dropSeg c l.seg
  let c := if !l.poisoned && hdrFen l.hdr then setFull c (hdrFlag l.hdr / 8 * 8) false else c
  { c with landings := c.landings ++ [l] }

/-! ## The power gate and accepted transfers -/

/-- The heavy allowance of a duty (R471). -/
def heavyAllowance (duty : Nat) : Nat := max 1 (duty / 4)

/-- Free entries of the command queue, those of granted and not yet admitted commands taken off. -/
def queueFree (c : Core) : Nat := 8 - (c.mq.length + (c.gate.filter fun g => g.granted && g.kind != .heavy).length)

/-- Whether the gate could grant a request of a kind now (R135, R227). -/
def gateOpen (c : Core) (k : GateKind) : Bool :=
  match k with
  | .mma => decide (c.heavy < heavyAllowance c.duty) && decide (0 < queueFree c)
  | .heavy => decide (c.heavy < heavyAllowance c.duty)
  | .plain => decide (0 < queueFree c)

/-- Whether a request is of a slot's S or V syllable. -/
def ofSyllable (slot : Nat) (v : Bool) (g : GateReq) : Bool := g.slot == some slot && g.slotV == v

/-- Whether a request of a kind need not wait for another that was made before it: leave is granted in the order of the requests, and
a matrix command is admitted after every matrix command that asked before it (R135, R227). -/
def notAhead (k : GateKind) (g : GateReq) : Bool := g.granted && (k == .heavy || g.kind == .heavy)

/-- Whether a syllable passes the gate now: its request has been granted and its turn has come, or it asks now and waits for nobody. -/
def gatePasses (c : Core) (slot : Nat) (v : Bool) (k : GateKind) : Bool :=
  match c.gate.find? (ofSyllable slot v) with
  | some g => g.granted && g.kind == k && (c.gate.takeWhile fun g => !ofSyllable slot v g).all (notAhead k)
  | none => c.gate.all (notAhead k) && gateOpen c k

/-- Use a granted request, or take leave at once (R135). -/
def takeLeave (c : Core) (slot : Nat) (v : Bool) (k : GateKind) : Core :=
  if c.gate.any (ofSyllable slot v) then { c with gate := c.gate.filter fun g => !ofSyllable slot v g }
  else if k = .plain then c else { c with heavy := c.heavy + 1 }

/-- A bundle that no longer needs the leave it asked for withdraws the request (R135). -/
def giveBack (c : Core) (slot : Nat) (v : Bool) : Core :=
  { c with
    heavy := c.heavy - (c.gate.filter fun g => ofSyllable slot v g && g.granted && g.kind != .plain).length
    gate := c.gate.filter fun g => !ofSyllable slot v g }

/-- A transfer joins its channel: it takes the next identifier, and a window transfer takes the window's cursor and tag and
moves both past its beats (R255, R260). -/
def acceptTransfer (s : State) (t : Tid) (ch : Nat) (x : Transfer) (dest : SOp) : State :=
  let cl := tidCluster t
  let id := (getChan s cl ch).last + 1
  let th := getThread s t
  let beats := ceilDiv (elemCount x.src x.rank) (512 / rWidth x.src)
  let (x, th) := match x.dst with
    | .win n _ _ _ _ _ _ =>
      let w := getWin th n
      let tiles := (w.cursor + beats + w.wlen - 1) / w.wlen - (if w.cursor = 0 then 0 else 1)
      ({ x with dst := .win n (w.circ.getD 0) w.wbase w.wlen w.cursor w.tag w.tagen },
        setWin th n { w with cursor := (w.cursor + beats) % w.wlen, tag := if w.tagen then (w.tag + tiles) % 2 ^ 16 else w.tag })
    | _ => (x, th)
  let th := { th with used := th.used ||| BitVec.ofNat 8 (2 ^ ch) }
  let th := match dest with
    | .s r => writeS th r.toNat (word id)
    | .port _ => th
  let s := setThread s t th
  let s := match dest with
    | .port p => pushBeat s t p.toNat (queueBeat (id : Nat))
    | .s _ => s
  modChan s cl ch fun c => { c with last := id, q := c.q ++ [{ x with id := id }] }

/-! ## The matrix unit -/

/-- Selector T as a number, and the tiles it names. -/
def tilesOf : TileSel → List Nat
  | .a0 => [0]
  | .a1 => [1]
  | .pair => [0, 1]

/-- Address of C[m][n] of a tile among the tile bytes. -/
def tileAddr (t m n : Nat) : Nat := t * 65536 + (m * 128 + n) * 4

def ownerOf (c : Core) (t : Nat) : Option Nat := vget c.owner t none

def bankOf (c : Core) (j : Nat) : Bank := vget c.banks j ⟨false, 0, 0, 0, 0⟩

/-- A command takes the next place in the queue (R227). -/
def joinQueue (c : Core) (m : MCmd) : Core := { c with mq := c.mq ++ [{ m with id := c.mnext }], mnext := c.mnext + 1 }

/-- The bank records that an `mldb` changes (R237). -/
def setBanks (c : Core) (m : MCmd) : Core :=
  if m.kind = .mldb then
    { c with banks := Vector.ofFn fun (j : Fin 4) =>
        let b := bankOf c j
        if bitAt m.bm j then ⟨true, m.bm, m.k, m.n, m.ty⟩
        else if b.loaded ∧ b.set &&& m.bm ≠ 0 then { b with loaded := false } else b }
  else c

/-- Admission of a remote command (R227, R237). -/
def admitCmd (c : Core) (m : MCmd) : Core := setBanks (joinQueue c m) m

/-- Step 6 of the bundle that issued a command: the command may begin, and an `mldb` changes the bank records (R227, R237). -/
def freeHeld (c : Core) (slot : Nat) : Core :=
  (c.mq.filter fun m => m.hold == some slot).foldl setBanks
    { c with mq := c.mq.map fun m => if m.hold = some slot then { m with hold := none } else m }

/-- The patterns of enabled elements take their place in a row of a tile. -/
def putTileRow (m : Memory) (t row c0 : Nat) (v : Vec) (mask : Word) : Memory :=
  (List.range 16).foldl (fun m j => if bitAt mask j then mPut m (tileAddr t row (c0 + j)) 4 (vElem 32 v j) else m) m

/-- Claim and release of tiles by a slot (R241). -/
def claimTiles (c : Core) (slot : Nat) (t : TileSel) : Core :=
  { c with owner := (tilesOf t).foldl (fun o i => vset o i (some slot)) c.owner }

def releaseTiles (c : Core) (slot : Nat) (t : TileSel) : Core :=
  { c with owner := (tilesOf t).foldl (fun o i => if vget o i none = some slot then vset o i none else o) c.owner }

/-- A command beat: KIND 5, sequence number in [39:24], slot in [42:40] (R351). -/
def cmdBeat (data : Vec) (seq slot : Nat) : Beat := ⟨data, BitVec.ofNat 88 (5 + seq % 2 ^ 16 * 2 ^ 24 + slot * 2 ^ 40)⟩

/-- Step 5 of `mcmd`, once the send queue has room: take a sequence number and push the beat (R245). -/
def startMcmd (s : State) (t : Tid) (n : Nat) (data : Vec) (cap : Word) (key : Nat) : State :=
  let th := getThread s t
  match liveCirc s (getTx th n) with
  | none => s
  | some k =>
    let seq := th.mcmdSeq.toNat
    modThread (injectBeat s k (cmdBeat data seq t.slot) (.tx t n)) t fun th =>
      { th with mcmdSeq := th.mcmdSeq + 1, mwait := some ⟨key, seq, cap, n, k, none⟩ }

/-! ## Gangs -/

/-- The members of the gang that a thread leads or follows. -/
def gangMembers (t : Tid) (k : Nat) : List Tid :=
  (List.range (2 ^ k)).map fun i => ⟨t.die, coreAt (clusterOf t.core) (localIdx t.core / 2 ^ k * 2 ^ k + i), t.slot⟩

/-- split: the leader ends every membership, an attached follower's once it has issued the bundle the leader forwarded; a detached
follower ends its own (R273). -/
def splitGang (s : State) (t : Tid) : State :=
  match (getThread s t).gang with
  | none => s
  | some g =>
    let s := modThread s t fun th => { th with gang := none }
    if gangLeader t g.k = t then
      (gangMembers t g.k).foldl (fun s m => modThread s m fun th => match th.gang with
        | some h => if h.k = g.k ∧ h.attached = false then { th with gang := none } else th
        | none => th) s
    else s

/-- Whether a slot runs a thread. -/
def hasThread (th : Thread) : Bool :=
  match th.run with
  | .vacant | .quarantined => false
  | _ => true

end Sys2Proof.Machine
end

