-- ==== Sys2Proof/Machine/Image.lean ====
section
/-! DEFINITION. The doublewords of a thread image (spec/02_thread_state.md R39 to R42): what a save writes, what a restore reads,
and what `dbgdata` reads and writes (spec/24 R450). -/

namespace Sys2Proof.Machine

set_option Elab.async false

/-- Replace the bits of a mask. -/
def maskWrite (old new mask : Word) : Word := (old &&& ~~~mask) ||| (new &&& mask)

/-- Bits of `status` that a CSR write sets, and its W1C bits (R119). -/
def statusRW : Word := 0xED00001C
def statusW1C : Word := 0xFF00ED0000
def hstatusW1C : Word := 0xFF00120000
/-- Fields of `cause` (R120). -/
def causeMask : Word := 0xC000000000FF00FF

/-- The two-bit code of an F/E state (R25). -/
def feCode : FE → Nat
  | .empty => 0
  | .full => 1
  | .pending => 2
  | .poisoned _ => 3

/-- The F/E state of a code that is written or restored: 0b10 is Empty (R41). -/
def feOf (code : Nat) (pc : Word) : FE :=
  match code with
  | 1 => .full
  | 3 => .poisoned pc
  | _ => .empty

/-- What the image slot of a register holds (R41, R42). -/
def imgS (th : Thread) (r : Nat) : Word :=
  if (streamS th r).isSome then 0
  else match getFeS th r with
    | .poisoned pc => pc
    | _ => getS th r
def imgV (th : Thread) (r : Nat) : Vec :=
  if (streamV th r).isSome then 0
  else match getFeV th r with
    | .poisoned pc => pc.setWidth 512
    | _ => getV th r

def imgFeS (th : Thread) (r : Nat) : Nat := if (streamS th r).isSome then 1 else feCode (getFeS th r)
def imgFeV (th : Thread) (r : Nat) : Nat := if (streamV th r).isSome then 1 else feCode (getFeV th r)

/-- Codes of n registers, two bits each. -/
def packCodes (f : Nat → Nat) (n : Nat) : Nat := (List.range n).foldl (fun v k => v + f k * 4 ^ k) 0

/-- Live predicates of an image, packed from 0x070 (R40). -/
def livePreds (th : Thread) : List Nat := ((List.range 8).drop 1).filter fun k => bitAt th.plive k

/-- Doubleword i of the image; `pred` gives the word of place j of the predicate area. -/
def imageDW (th : Thread) (pred : Nat → Word) (i : Nat) : Word :=
  match i with
  | 0 => th.pc
  | 1 => th.status
  | 2 => th.epc
  | 3 => th.cause
  | 4 => th.tval
  | 5 => th.tvec
  | 6 => th.felimit.setWidth 64
  | 7 => th.phase
  | 8 => th.srkey
  | 9 => th.round.setWidth 64
  | 10 => word (packCodes (imgFeS th) 32)
  | 11 => word (packCodes (imgFeV th) 16)
  | 12 => th.plive.setWidth 64
  | 13 => 0
  | i =>
    if i < 21 then pred (i - 14)
    else if i < 32 then 0
    else if i < 64 then imgS th (i - 32)
    else if i < 192 then word (bitsAt (imgV th ((i - 64) / 8)) (64 * ((i - 64) % 8)) 64)
    else 0

/-- Doubleword i of the image that a save writes. -/
def saveDW (th : Thread) (i : Nat) : Word :=
  imageDW th (fun j => match (livePreds th)[j]? with
    | some k => getP th k
    | none => 0) i

/-- Doubleword i of the live state of a Stopped thread (R450). -/
def debugDW (th : Thread) (i : Nat) : Word := imageDW th (fun j => getP th (j + 1)) i

/-- A register takes an image slot: a Poisoned one takes the slot's low 64 bits as its pc; one in stream mode keeps. -/
def setImgS (th : Thread) (r : Nat) (v : Word) : Thread :=
  if (streamS th r).isSome then th
  else match getFeS th r with
    | .poisoned _ => putS th r 0 (.poisoned v)
    | f => putS th r v f
def setImgV (th : Thread) (r : Nat) (v : Vec) : Thread :=
  if (streamV th r).isSome then th
  else match getFeV th r with
    | .poisoned _ => putV th r 0 (.poisoned (v.setWidth 64))
    | f => putV th r v f

/-- F/E codes written for every register that is not in stream mode; a register that becomes Poisoned takes its value's low 64
bits as the pc. -/
def setCodesS (th : Thread) (v : Word) : Thread :=
  ((List.range 32).drop 1).foldl (fun th r =>
    if (streamS th r).isSome then th else putS th r (imgS th r) (feOf (bitsAt v (2 * r) 2) (imgS th r))) th
def setCodesV (th : Thread) (v : Word) : Thread :=
  (List.range 16).foldl (fun th r =>
    if (streamV th r).isSome then th else putV th r (imgV th r) (feOf (bitsAt v (2 * r) 2) ((imgV th r).setWidth 64))) th

/-- `status` from an image: the reserved bits stay 0 and a MODE of 2 is not taken (R28, R119). -/
def imageStatus (old v : Word) : Word :=
  let x := v &&& (statusRW ||| statusW1C)
  setBits x 0 2 (if bitsAt v 0 2 = 2 then bitsAt old 0 2 else bitsAt v 0 2)

/-- `round` takes 0 to 4 (R118). -/
def roundOf (old : BitVec 3) (v : Word) : BitVec 3 := if bitsAt v 0 3 ≤ 4 then BitVec.ofNat 3 (bitsAt v 0 3) else old

/-- Set doubleword i of an image of a thread; `pred` names the predicate of place j. -/
def setDW (th : Thread) (pred : Nat → Option Nat) (i : Nat) (v : Word) : Thread :=
  match i with
  | 0 => { th with pc := v }
  | 1 => { th with status := imageStatus th.status v }
  | 2 => { th with epc := v &&& ~~~15 }
  | 3 => { th with cause := v &&& causeMask }
  | 4 => { th with tval := v }
  | 5 => { th with tvec := v &&& ~~~15 }
  | 6 => { th with felimit := v.setWidth 32 }
  | 7 => { th with phase := v }
  | 8 => { th with srkey := v }
  | 9 => { th with round := roundOf th.round v }
  | 10 => setCodesS th v
  | 11 => setCodesV th v
  | 12 => { th with plive := v.setWidth 8 &&& 0xFE }
  | 13 => th
  | i =>
    if i < 21 then (match pred (i - 14) with
      | some k => setP th k v
      | none => th)
    else if i < 32 then th
    else if i < 64 then setImgS th (i - 32) v
    else if i < 192 then
      let r := (i - 64) / 8
      let lo := 64 * ((i - 64) % 8)
      let old := imgV th r
      setImgV th r (BitVec.ofNat 512 (old.toNat - bitsAt old lo 64 * 2 ^ lo + v.toNat * 2 ^ lo))
    else th

/-- `dbgdata` writes doubleword i of a Stopped thread (R450); no write changes the mode (R28). -/
def setDebugDW (th : Thread) (i : Nat) (v : Word) : Thread :=
  let th' := setDW th (fun j => some (j + 1)) i v
  if i = 0 then { th' with ranOff := false }
  else if i = 1 then { th' with status := setMode th'.status (mode th) } else th'

/-- A restore: the doublewords of an image in a fresh thread, `plive` and the codes after the values (R39 to R41). -/
def restoreThread (th : Thread) (img : Nat → Word) : Thread :=
  let th := setDW th (fun _ => none) 12 (img 12)
  let live := livePreds th
  let th := { th with pval := Vector.replicate 8 0, ranOff := th.ranOff && img 0 == th.pc, tileWait := none }
  let th := (List.range 192).foldl (fun th i =>
    if i = 10 ∨ i = 11 ∨ i = 12 then th else setDW th (fun j => live[j]?) i (img i)) th
  setCodesV (setCodesS th (img 10)) (img 11)

end Sys2Proof.Machine
end

