-- ==== Sys2Proof/Machine/Csr.lean ====
section
/-! DEFINITION. The control and status registers: what each reads and what a write changes (spec/06 R114, R118 to R121, spec/24
R447, R454, R460 to R463, spec/21 R419, spec/25 R467). -/

namespace Sys2Proof.Machine

set_option Elab.async false

/-- An event for the agenda, about a thread. -/
def evArgT (t : Tid) (ctx : Nat) (v : Word) : EvArg := { EvArg.none with t := t, die := t.die, ctx := ctx, v := v }

/-- Put an event at the end of the agenda. -/
def pushEvent (s : State) (i : Instr) (a : EvArg) : State := { s with agenda := s.agenda ++ [⟨i, a⟩] }

/-- The current revolution (R338). -/
def revNow (s : State) : Nat := s.wheel / s.W

/-- The least mode that may access a CSR number (R118). -/
def csrMode (n : Nat) : Nat := if n < 0x400 then 0 else if n < 0x800 then 1 else 3

/-! ## Debug targets (24 R447, R448) -/

/-- The slot that `dbgsel` names, where it holds a thread of the context it names. -/
def dbgTarget (s : State) (th : Thread) : Option Tid :=
  if bitsAt th.dbgsel 18 6 ≠ s.modNo then none
  else match tidOf (word (bitsAt th.dbgsel 0 18)) with
    | some u =>
      let x := getThread s u
      if hasThread x = true ∧ x.ctx = bitsAt th.dbgsel 24 8 then some u else none
    | none => none

/-- What `dbgctl` reads: WHY and BCODE of a target that is not stopped are 0 (R447; DESIGN CHOICE, log 129). -/
def dbgctlRead (s : State) (th : Thread) : Word :=
  match dbgTarget s th with
  | some u =>
    let x := getThread s u
    if x.run = .stopped then word (2 ^ 63 + x.dbg.why * 2 ^ 58 + x.dbg.bcode % 2 ^ 16 * 2 ^ 42) else 0
  | none => 0

/-- What `dbgdata` reads (R450). -/
def dbgdataRead (s : State) (th : Thread) : Word :=
  match dbgTarget s th with
  | some u => if (getThread s u).run = .stopped then debugDW (getThread s u) (bitsAt th.dbgidx 3 8) else 0
  | none => 0

/-- A register of the target. -/
def dbgRead (s : State) (th : Thread) (f : Dbg → Word) : Word :=
  match dbgTarget s th with
  | some u => f (getThread s u).dbg
  | none => 0

/-! ## Shared counters (24 R462, R463) -/

/-- Raw value of counter k of a context. -/
def rawNow (s : State) (ctx k : Nat) : Nat :=
  if k = 3 then Config.corrected ctx s.wheel % 2 ^ 63
  else if k < 5 then vget (getCtx s ctx).raw k 0 % 2 ^ 63
  else if k = 5 then Config.energy ctx s.wheel % 2 ^ 63 else 0

/-- The raw value at a revolution boundary. -/
def rawAt (s : State) (ctx k rev : Nat) : Nat :=
  if k = 3 then Config.corrected ctx (rev * s.W) % 2 ^ 63
  else if k < 5 then
    match (getCtx s ctx).rawAt.find? fun x => x.1 ≤ rev with
    | some x => vget x.2 k 0 % 2 ^ 63
    | none => 0
  else if k = 5 then Config.energy ctx (rev * s.W) % 2 ^ 63 else 0

/-- View k of a context below H (R463). -/
def viewOf (s : State) (ctx k : Nat) : Nat :=
  let p := (getCtx s ctx).cntpol
  let n := revNow s / 2 ^ bitsAt p 12 4
  let d := bitsAt p 0 12
  let v := if n < d then 0 else rawAt s ctx k ((n - d) * 2 ^ bitsAt p 12 4)
  if bitAt p (40 + k) || decide (6 ≤ k) then 0 else v / 2 ^ bitsAt p 16 6 * 2 ^ bitsAt p 16 6

/-! ## Reading -/

/-- The policy of the context that `cntpol` selects, as last written. -/
def cntpolRead (s : State) : Word :=
  let c := getCtx s s.cntpolSel
  (c.cntpolNext.getD c.cntpol) ||| word (s.cntpolSel * 2 ^ 56)

/-- `fcmd` of the context that its CTX selects (R467). -/
def fcmdRead (s : State) : Word :=
  (if s.fcmdSel = 255 then s.fcmdAll else (getCtx s s.fcmdSel).fcmd) ||| word (s.fcmdSel * 2 ^ 48)

/-- CSR[n] as the thread t reads it. -/
def csrRead (s : State) (t : Tid) (n : Nat) : Word :=
  let th := getThread s t
  match n with
  | 0x001 => th.plive.setWidth 64
  | 0x002 => th.round.setWidth 64
  | 0x003 => th.srkey
  | 0x004 => th.phase
  | 0x005 => th.felimit.setWidth 64
  | 0x010 => tidWord s t
  | 0x011 => word s.wheel
  | 0x012 => word (getCore s (tidKey t)).duty
  | 0x100 => th.trcen
  | 0x101 => th.cntirq
  | 0x110 => th.crot
  | 0x111 => th.cissue
  | 0x112 => th.cduty
  | 0x113 => th.cstop
  | 0x400 => th.status
  | 0x401 => th.tvec
  | 0x402 => th.epc
  | 0x403 => th.cause
  | 0x404 => th.tval
  | 0x405 => (getCtx s th.ctx).switch
  | 0x480 => word (th.ctx * 2 ^ 8 + th.region)
  | 0x800 => th.hstatus
  | 0x801 => th.htvec
  | 0x802 => th.hepc
  | 0x803 => th.hcause
  | 0x804 => th.htval
  | 0x805 => th.hdeleg
  | 0x880 => s.hswitch
  | 0x881 => fcmdRead s
  | 0x8C0 => th.dbgsel
  | 0x8C1 => dbgctlRead s th
  | 0x8C2 => th.dbgidx
  | 0x8C3 => dbgdataRead s th
  | 0x8C4 => dbgRead s th (·.bp0)
  | 0x8C5 => dbgRead s th (·.bp1)
  | 0x8C6 => dbgRead s th (·.wp)
  | 0x8C8 => (getDie s t.die).lantern.lanblk
  | 0x8C9 => s.bell
  | 0x8CA => s.bellbuf
  | 0x8CB => cntpolRead s
  | n =>
    if 0x120 ≤ n ∧ n ≤ 0x12F then vget th.cpark (n - 0x120) 0
    else if 0x140 ≤ n ∧ n ≤ 0x147 then
      word (if mode th = 3 then rawNow s s.cntpolSel (n - 0x140) else viewOf s th.ctx (n - 0x140))
    else 0

/-! ## Writing -/

/-- The W1C bits of a CSR. -/
def csrW1C (n : Nat) : Word := if n = 0x400 then statusW1C else if n = 0x800 then hstatusW1C else 0

/-- `status` and `hstatus` after a write: RW fields take the value, W1C fields lose the bits received (R13, R119). -/
def statusWrite (old v : Word) : Word := maskWrite old v statusRW &&& ~~~(v &&& statusW1C)
def hstatusWrite (old v : Word) : Word :=
  maskWrite old v (if bitsAt v 0 2 = 2 then 0x1200000C else 0x1200000F) &&& ~~~(v &&& hstatusW1C)

/-- A write of a register of the thread itself, field by field; a register that is not listed ignores it. -/
def csrThread (th : Thread) (n : Nat) (v : Word) : Thread :=
  match n with
  | 0x001 => { th with plive := v.setWidth 8 &&& 0xFE }
  | 0x002 => { th with round := roundOf th.round v }
  | 0x003 => { th with srkey := v }
  | 0x005 => { th with felimit := v.setWidth 32 }
  | 0x100 => { th with trcen := v &&& 0x7F }
  | 0x101 => { th with cntirq := v &&& 0xFFF }
  | 0x400 => { th with status := statusWrite th.status v }
  | 0x401 => { th with tvec := v &&& ~~~15 }
  | 0x402 => { th with epc := v &&& ~~~15 }
  | 0x403 => { th with cause := v &&& causeMask }
  | 0x404 => { th with tval := v }
  | 0x800 => { th with hstatus := hstatusWrite th.hstatus v }
  | 0x801 => { th with htvec := v &&& ~~~15 }
  | 0x802 => { th with hepc := v &&& ~~~15 }
  | 0x803 => { th with hcause := v &&& causeMask }
  | 0x804 => { th with htval := v }
  | 0x805 => { th with hdeleg := v &&& 0x3FFFE }
  | 0x8C0 => { th with dbgsel := v &&& 0xFFFFFFFF }
  | 0x8C2 => { th with dbgidx := v &&& 0x7F8 }
  | _ => th

/-- The event that a write of `dbgctl` brings (R447). -/
def dbgCommand (v : Word) : Option Instr :=
  match bitsAt v 0 4 with
  | 1 => some .stop
  | 2 => some .resume
  | 3 => some .stepThread
  | 4 => some .claim
  | 5 => some .release
  | _ => none

/-- The effect of a CSR write by thread t at step 6. A write that the keep, a tower or the package takes is an event. -/
def csrApply (s : State) (t : Tid) (n : Nat) (v : Word) : State :=
  let th := getThread s t
  let dbg (f : Dbg → Dbg) : State :=
    match dbgTarget s th with
    | some u => modThread s u fun x => { x with dbg := f x.dbg }
    | none => s
  match n with
  | 0x405 => pushEvent s (if bitAt v 63 then .switchSchedule else .switchCancel) (evArgT t th.ctx v)
  | 0x880 => pushEvent s (if bitAt v 63 then .hswitchSchedule else .hswitchCancel) (evArgT t 0 v)
  | 0x881 => pushEvent s .fcmdWrite (evArgT t 0 v)
  | 0x8C1 => match dbgCommand v with
    | some i => pushEvent s i (evArgT t 0 v)
    | none => s
  | 0x8C3 => pushEvent s .dbgdataAccess { evArgT t 0 v with w := some v }
  | 0x8C4 => dbg fun d => { d with bp0 := v &&& 0xC00000000FFFFFF0 }
  | 0x8C5 => dbg fun d => { d with bp1 := v &&& 0xC00000000FFFFFF0 }
  | 0x8C6 => dbg fun d => { d with wp := v &&& 0xFFE0FFFFFFFFFFFF }
  | 0x8C8 => pushEvent s .lanternEnable (evArgT t 0 v)
  | 0x8C9 => pushEvent s .bellArm (evArgT t 0 v)
  | 0x8CA => { s with bellbuf := v &&& 0x3FFFFFFFFFC0 }
  | 0x8CB => pushEvent s .cntpolWrite (evArgT t (bitsAt v 56 8) v)
  | n => modThread s t fun th => csrThread th n v

end Sys2Proof.Machine
end

