-- ==== Sys2Proof/Machine/Invalidate.lean ====
section
/-! DEFINITION. What `sfence` removes from the translation and walk caches of every die memory agent (spec/06 R116). -/

namespace Sys2Proof.Machine

set_option Elab.async false

/-- Whether a page contains an address. -/
def pageHolds (base size a : Nat) : Bool := base ≤ a && a < base + size

/-- A selector of contexts (256: every one) or of regions (64: every one). -/
def selects (sel top n : Nat) : Bool := sel == top || sel == n

/-- A guest-stage fence of a VA, or of everything with VA 0 (R116, in S). -/
def fenceGuest (d : Die) (v ctx region : Nat) : Die :=
  let mine (c r : Nat) : Bool := c == ctx && selects region 64 r
  { d with
    tlb := d.tlb.filter fun e => !(mine e.ctx e.region && !e.hyper && (v == 0 || pageHolds e.gbase e.gsize v))
    wcache := d.wcache.filter fun e => !(mine e.ctx e.region && !e.hyper) }

/-- A fence of both stages for a GPA, or of everything with GPA 0 (R116, in H). -/
def fenceHyper (d : Die) (v ctx region : Nat) : Die :=
  let mine (c r : Nat) : Bool := selects ctx 256 c && selects region 64 r
  { d with
    tlb := d.tlb.filter fun e => !(mine e.ctx e.region && (v == 0 || pageHolds e.hbase e.hsize v))
    wcache := d.wcache.filter fun e =>
      if e.hyper then !(selects ctx 256 e.ctx && (v == 0 || pageHolds e.base e.size v))
      else !(mine e.ctx e.region && (v == 0 || pageHolds e.hbase e.hsize v)) }

/-- sfence at every die (R116). -/
def sfenceState (s : State) (v ctx region : Nat) (h : Bool) : State :=
  { s with dies := s.dies.map fun d => (d.1, if h then fenceHyper d.2 v ctx region else fenceGuest d.2 v ctx region) }

end Sys2Proof.Machine
end

