-- ==== Sys2Proof/Machine/Sched.lean ====
section
/-! DEFINITION. Creating launches and tasks (spec/15 R319 to R326): the launch block's fields, the effects of `lnch`, `spawn` and
`trig`, and joining a tower's queue. -/

namespace Sys2Proof.Machine

set_option Elab.async false

/-- The block of a launch as 16 doublewords (R321). -/
def launchBlock (l : List Byte) : Vector Word 16 := Vector.ofFn fun i => word (bytesNat ((l.drop (8 * i)).take 8))

def lBits (b : Vector Word 16) (off lo n : Nat) : Nat := bitsAt (vget b (off / 8) 0) lo n

/-- Tasks of the index space. -/
def lTasks (b : Vector Word 16) : Nat := lBits b 0 0 32 * lBits b 0 32 16 * lBits b 0 48 16

def getLaunch (s : State) (ctx h : Nat) : Option Launch := mapFind (getCtx s ctx).launches h
def modLaunch (s : State) (ctx h : Nat) (f : Launch → Launch) : State :=
  match getLaunch s ctx h with
  | some l => modCtx s ctx fun c => { c with launches := mapSet c.launches h (f l) }
  | none => s

/-- A launch takes the context's next handle (R323). -/
def createLaunch (s : State) (ctx : Nat) (b : Vector Word 16) : State :=
  modCtx s ctx fun c =>
    { c with
      nextHandle := c.nextHandle + 1
      launches := mapSet c.launches c.nextHandle
        { blk := b, stage := .waiting, status := 0, shapes := [], circs := [], place := [], left := lTasks b, unbound := lTasks b, spawned := 0,
          lost := 0, wheel := 0, ordsig := 0 } }

/-- A task joins a tower's queue. -/
def enqueueTask (s : State) (die : Nat) (k : Task) : State := modDie s die fun d => { d with queue := d.queue ++ [k] }

/-- spawn (R324): the task takes REGION and MODE from the spawner's launch. -/
def spawnTask (s : State) (t : Tid) (desc : Rec) (hard : Bool) (die : Nat) : State :=
  let th := getThread s t
  let c := getCtx s th.ctx
  let m := match getLaunch s th.ctx th.launch with
    | some l => lBits l.blk 0x08 24 1
    | none => 0
  let s := enqueueTask s die
    { id := c.nextTask, ctx := th.ctx, launch := th.launch, index := c.nextTask, spawned := true, entry := desc.w0,
      segaddr := desc.w1, arg := desc.w2, thr := bitsAt desc.w3 0 3 + 1, gang := 0, pri := bitsAt desc.w3 4 3, region := th.region,
      mode := m, hard := hard, live := 0, untrig := 0 }
  modLaunch (modCtx s th.ctx fun c => { c with nextTask := c.nextTask + 1 }) th.ctx th.launch fun l =>
    { l with spawned := l.spawned + 1 }

/-- trig marks the thread, once (R325). -/
def trigThread (s : State) (t : Tid) : State :=
  let th := getThread s t
  if th.triggered then s
  else
    let s := modThread s t fun th => { th with triggered := true }
    modCtx s th.ctx fun c =>
      match mapFind c.tasks th.task with
      | some k => { c with tasks := mapSet c.tasks th.task { k with untrig := k.untrig - 1 } }
      | none => c

end Sys2Proof.Machine
end

