-- ==== Sys2Proof/Machine/Apply.lean ====
section
/-! DEFINITION. The effects of a syllable, applied at step 5 (a request is made) or at step 6 (R35). -/

namespace Sys2Proof.Machine

set_option Elab.async false

/-- A loaded value of n bytes, zero- or sign-extended (R201). -/
def extendLoad (n : Nat) (sx : Bool) (v : Nat) : Word :=
  if sx then (BitVec.ofNat (8 * n) v).signExtend 64 else (BitVec.ofNat (8 * n) v).setWidth 64

/-- Dst of a scalar destination at step 6. -/
def putDst (s : State) (t : Tid) (x : SOp) (v : Word) : State :=
  match x with
  | .s r => modThread s t fun th => writeS th r.toNat v
  | .port n => pushBeat s t n.toNat (queueBeat (v.setWidth 512))

/-- One effect of a syllable of thread t; `got` holds the bytes that arrived while the bundle waited at step 5. -/
def applyEff (t : Tid) (got : List (Nat × Option (List Byte))) (s : State) (e : Eff) : State :=
  let me := modThread s t
  let core := modCore s (tidKey t)
  match e with
  | .sreg r v => me fun th => writeS th r v
  | .vreg r v => me fun th => writeV th r v
  | .sEmpty r => me fun th => if (streamS th r).isSome then th else putFeS th r .empty
  | .vEmpty r => me fun th => if (streamV th r).isSome then th else putFeV th r .empty
  | .sPend r => me fun th => putFeS th r .pending
  | .vPend r => me fun th => putFeV th r .pending
  | .preg p v => me fun th => setP th p v
  | .push n b => pushBeat s t n b
  | .pop n => popPortEff s t n
  | .popStream j => me fun th => setStream th j { getStream th j with fifo := (getStream th j).fifo.tail, checked := true }
  | .win n v wc mask => winWrite s t n v wc mask
  | .tcm a n v => sink (core fun c => tcmPut c a n v) (getThread s t).ctx
  | .scratch a n v => sink (modCluster s (tidCluster t) fun c => scratchPut c a n v) (getThread s t).ctx
  | .full a f => core fun c => setFull c a f
  | .boundLoads => modDie s t.die (boundLoads t)
  | .jump x => emitTrace (me fun th => { th with pc := x, ranOff := false }) t ((getThread s t).pc - 16) 6 0 x
  | .csr n v => csrApply s t n v
  | .plive m => me fun th => { th with plive := m &&& 0xFE }
  | .eret => me fun th => { eretThread th with dbg := { th.dbg with skipOnce := true } }
  | .sfence v ctx region h => sfenceState s v ctx region h
  | .ipi target code => match tidOf (word (bitsAt target 0 18)) with
      | some u => { s with ipis := s.ipis ++ [(t, u, mode (getThread s t) == 3, code)] }
      | none => s
  | .trace kind code payload => emitTrace s t ((getThread s t).pc - 16) kind code payload
  | .bindRx n circ rbase rlen => me fun th => bindRxThread th n circ rbase rlen
  | .bindTx n circ => me fun th => { th with tx := vset th.tx n (some circ) }
  | .unbind sel => me fun th => unbindThread th sel
  | .winb n circ wbase wlen tag tagen => me fun th => setWin th n ⟨some circ, wbase, wlen, 0, tag, tagen⟩
  | .winUnbind n => me fun th => setWin th n Win.reset
  | .sbind j r => me fun th => sbindThread th j r (th.pc - 16)
  | .sunbind j => me fun th => sunbindThread th j
  | .unload seg => core fun c => { c with segs := c.segs.filter fun g => g.num != seg }
  | .land seg key addr space => core fun c =>
      let th := getThread s t
      let src : SegSrc := ⟨space, th.ctx, th.region, mode th, addr⟩
      startLanding c (match mapGet none got key with
        | some l => ⟨seg, l, src, t, false⟩
        | none => ⟨seg, [], src, t, true⟩)
  | .post r => modDie s t.die fun d => { d with reqs := d.reqs ++ [r] }
  | .transfer ch x dest => acceptTransfer s t ch x dest
  | .leave k v => core fun c => takeLeave c t.slot v k
  | .noLeave v => core fun c => giveBack c t.slot v
  | .setph k => modDie (me fun th => { th with phase := word k }) t.die fun d =>
      let c := (getThread s t).ctx
      { d with pmax := mapSet d.pmax c (max k (mapGet 0 d.pmax c)) }
  | .gang _ => me fun th => { th with gang := th.gang.map fun g => { g with forming := false, count := 0 } }
  | .split => splitGang s t
  | .offer m => core fun c => joinQueue c { m with hold := some t.slot }
  | .admitted => core fun c => freeHeld c t.slot
  | .tileRow i row c0 v mask => core fun c => { c with tiles := putTileRow c.tiles i row c0 v mask }
  | .claim k => core fun c => claimTiles c t.slot k
  | .release k => core fun c => releaseTiles c t.slot k
  | .stopBrk code => me fun th => { th with dbg := { th.dbg with stopReq := some 5, bcode := code } }
  | .mcmd n data cap key => startMcmd s t n data cap key
  | .spawn desc hard die x => putDst (spawnTask s t desc hard die) t x (Config.taskHandle (getCtx s (getThread s t).ctx).nextTask)
  | .launch _ key x => match mapGet none got key with
      | some l => putDst (createLaunch s (getThread s t).ctx (launchBlock l)) t x (word (getCtx s (getThread s t).ctx).nextHandle)
      | none => s
  | .trig => trigThread s t
  | .spjoin ch w key => if bitAt w 16 then spireGone s (leafPos t) ch else spireJoin s t ch (bitsAt w 0 14) key
  | .spire ch op v d key => spireContribute s t ch op v d key
  | .sregOf r key n sx pc => me fun th => match mapGet (some []) got key with
      | some l => writeS th r (extendLoad n sx (bytesNat l))
      | none => if (streamS th r).isSome then th else putS th r 0 (.poisoned pc)
  | .vregOf r key pc => me fun th => match mapGet (some []) got key with
      | some l => writeV th r (BitVec.ofNat 512 (bytesNat l))
      | none => if (streamV th r).isSome then th else putV th r 0 (.poisoned pc)
  | .pushOf n key => match mapGet (some []) got key with
      | some l => pushBeat s t n (queueBeat (BitVec.ofNat 512 (bytesNat l)))
      | none => s

/-- The effects of a bundle in order: S syllable, then V syllable. -/
def applyEffs (t : Tid) (got : List (Nat × Option (List Byte))) (s : State) (l : List Eff) : State := l.foldl (applyEff t got) s

end Sys2Proof.Machine
end

