-- ==== Sys2Proof/Machine/Issue.lean ====
section
/-! DEFINITION. The issue of a bundle in the six steps of R35: the conflict check, the choice of the trap or park that
decides, taking the trap or parking, and the effects of steps 5 and 6. -/

namespace Sys2Proof.Machine

set_option Elab.async false

/-- A syllable that is not enabled, or a NOP (R32, R58). -/
def SylOut.off : SylOut := ⟨false, [], none, [], [], [], [], [], [], none, 0⟩

/-- Whether a gate request has leave that it holds. -/
def holdsLeave (g : GateReq) : Bool := g.granted && g.kind != .plain

/-- Requests at the gate go, and leave granted and not used is given back. -/
def dropGate (c : Core) (p : GateReq → Bool) : Core :=
  { c with
    heavy := c.heavy - (c.gate.filter fun g => p g && holdsLeave g).length
    gate := c.gate.filter fun g => !p g }

/-- The commands of a slot's bundle that has not come to step 6 leave the queue, with their leave (R38, R227). -/
def dropHeld (c : Core) (slot : Nat) : Core :=
  { c with
    heavy := c.heavy - (c.mq.filter fun m => m.hold == some slot && m.kind == .mma).length
    mq := c.mq.filter fun m => m.hold != some slot }

/-- Heavy transfers of a bundle at step 5 that have leave and have not been accepted (R255). -/
def heldLeave (th : Thread) : Nat :=
  match th.inflight with
  | some f => (f.eff6.filter fun e => match e with
    | .transfer _ x _ => x.heavy
    | _ => false).length
  | none => 0

/-- Withdraw what a slot's bundle has asked of the power gate and of the matrix unit (R38, R135, R227). -/
def withdrawGate (s : State) (t : Tid) : State :=
  modCore s (tidKey t) fun c =>
    let c := dropHeld (dropGate c fun g => g.slot == some t.slot) t.slot
    { c with heavy := c.heavy - heldLeave (slotOf c t.slot) }

/-- A member of a gang detaches; a member whose `gang` has not completed still belongs to the gang that formed (R269, R271). -/
def detachThread (th : Thread) : Thread :=
  { th with gang := th.gang.map fun g => { g with attached := false } }

/-- A follower detaches; when the leader takes a trap or an interrupt, every follower does, and the leader leads on (R271, R272). -/
def detachGang (s : State) (t : Tid) : State :=
  match (getThread s t).gang with
  | none => s
  | some g =>
    if gangLeader t g.k = t then
      (gangMembers t g.k).foldl (fun s m =>
        if m ≠ t ∧ ((getThread s m).gang.map (·.k)) = some g.k then modThread s m detachThread else s) s
    else modThread s t detachThread

/-- A follower that the debugger stops detaches; a stopped leader holds its followers (R271, R449). -/
def stopGang (s : State) (t : Tid) : State :=
  match (getThread s t).gang with
  | some g => if gangLeader t g.k = t then s else modThread s t detachThread
  | none => s

/-- The cause of a wait at step 5 (R125). -/
def waitCause : Wait5 → Nat
  | .key c _ => c
  | .requests c _ => c
  | .transfers _ | .commands _ | .wheel _ | .refence => 15
  | .drain => 9
  | .channel _ | .room _ | .quota _ => 6
  | .act _ => 0

/-- The cause under which a thread is parked, at step 4 or 5. -/
def parkedCause (th : Thread) : Option Nat :=
  if th.run ≠ .parked then none
  else match th.park, th.inflight with
    | some p, _ => some p.cause
    | none, some f => f.waits.head?.map waitCause
    | none, none => none

/-- A park ends, with its trace record (R454). -/
def endPark (s : State) (t : Tid) : State :=
  let th := getThread s t
  match parkedCause th with
  | some c => emitTrace (modThread s t fun th =>
      { th with run := .running, park := none, inflight := none, failed := none }) t th.pc 3 c 0
  | none => s

/-- Raise source 4 in the agent of a claimed thread that stops (R451). -/
def notifyAgent (s : State) (th : Thread) (why : Nat) : State :=
  match th.dbg.agent with
  | some a => if why = 0 then s else modThread s a fun x => setPending x 4
  | none => s

/-- The thread stops with its next bundle not issued (R448). -/
def stopThreadNow (s : State) (t : Tid) (why bcode : Nat) : State :=
  let th := getThread s t
  let s := stopGang (endPark (withdrawGate s t) t) t
  let s := modThread s t fun th => { th with
    run := .stopped
    park := none
    tileWait := none
    dbg := { th.dbg with why := why, bcode := bcode, stepping := false, stopReq := none } }
  let s := emitTrace s t th.pc 4 why 0
  notifyAgent s th why

/-- After a bundle reached step 6 or a trap was entered: a pending STOP takes effect, and a STEP ends (R448, R449). -/
def afterBundle (s : State) (t : Tid) : State :=
  let th := getThread s t
  match th.dbg.stopReq with
  | some why => stopThreadNow s t why (if why = 5 then th.dbg.bcode else 0)
  | none => if th.dbg.stepping then stopThreadNow s t 1 0 else s

/-- Take a trap of R109 for the bundle at pc (R38, R110, R111). -/
def takeTrap (s : State) (t : Tid) (code : Nat) (tval : Word) (slotV : Bool) (elem : Nat) (force : Bool) : State :=
  let pc := (getThread s t).pc
  let s := detachGang (endPark (withdrawGate s t) t) t
  let s := modThread s t fun th =>
    let th := trapThread (countSlot th .issue) th.pc code tval slotV elem force
    { th with
      run := .running
      park := none
      inflight := none
      failed := none
      mwait := none
      tileWait := none
      dbg := { th.dbg with skipOnce := false } }
  afterBundle (emitTrace s t pc 1 code tval) t

/-- Taking port-overflow clears the flag of the port (R215). -/
def clearOverflow (s : State) (t : Tid) (code : Nat) (tval : Word) : State :=
  if code = 10 then modThread s t fun th => setRx th tval.toNat { getRx th tval.toNat with overflow := false } else s

/-- A privilege trap on an H-range CSR goes to H (R111): the syllable is a CSR access numbered 0x800 to 0xBFF. -/
def forcedToH (code : Nat) (tval : Word) : Bool :=
  code == 3 && 0x68 ≤ bitsAt tval 40 7 && bitsAt tval 40 7 ≤ 0x6B && 0x800 ≤ bitsAt tval 0 12

/-- A syllable's request joins the order of the power gate, where it does not stand there already (R135, R227). -/
def askGate (c : Core) (slot : Nat) (slotV : Bool) (k : GateKind) : Core :=
  let own (g : GateReq) : Bool := g.slot == some slot && g.slotV == slotV
  if c.gate.any fun g => own g && g.kind == k then c
  else
    let c := dropGate c own
    { c with gate := c.gate ++ [⟨some slot, 0, k, false, slotV⟩] }

/-- The bundle parks at step 4 with nothing consumed (R35, R125). Where the V syllable parks, the commands that it waits for at
a tile stay as they are (R240). -/
def parkThread (s : State) (t : Tid) (p : Park) (slotV : Bool) (gate : Option GateKind) (fixed : Option (List Nat)) : State :=
  let s := match gate with
    | some k => modCore s (tidKey t) fun c => askGate c t.slot slotV k
    | none => s
  let s := modThread s t fun th => { countSlot th (.park p.cause) with
    run := .parked
    park := some { p with slotV := slotV }
    tileWait := if slotV then fixed else th.tileWait }
  emitTrace s t (getThread s t).pc 2 p.cause 0

/-- What a bundle of the leader at pc, its n-th after `gang` itself, means for another member: an attached follower that has come
as far and goes on elsewhere detaches; one that waits in `join` at that bundle attaches, with the bundle still to issue (R271,
R272). -/
def gangMeet (s : State) (l : Tid) (k n : Nat) (pc : Word) (m : Tid) : State :=
  let th := getThread s m
  match th.gang with
  | none => s
  | some h =>
    if m = l ∨ h.k ≠ k then s
    else if h.attached then
      if 0 < n ∧ h.count = n + 1 ∧ th.pc ≠ (getThread s l).pc then modThread s m detachThread else s
    else match th.park with
      | some p =>
        if p.wake = .join ∧ th.pc = pc then modThread s m fun th => { th with gang := some { h with attached := true, count := n } }
        else s
      | none => s

/-- Lock-step after a bundle of a gang at pc (R269 to R273): the count goes up. The leader meets every other member; a follower
whose leader has ended the gang goes on alone, and one that completes a bundle after its leader did and goes on elsewhere
detaches. The `gang` bundle itself, from which every member goes on attached, detaches nobody. -/
def gangStep (s : State) (t : Tid) (pc : Word) : State :=
  match (getThread s t).gang with
  | none => s
  | some g =>
    let l := gangLeader t g.k
    if l = t then
      (gangMembers t g.k).foldl (fun s m => gangMeet s t g.k g.count pc m)
        (modThread s t fun th => { th with gang := some { g with count := g.count + 1 } })
    else if g.attached = false then s
    else match (getThread s l).gang with
      | some h =>
        if h.k ≠ g.k then modThread s t fun th => { th with gang := none }
        else
          let s := modThread s t fun th => { th with gang := some { g with count := g.count + 1 } }
          if 0 < g.count ∧ h.count = g.count + 1 ∧ (getThread s l).pc ≠ (getThread s t).pc then modThread s t detachThread else s
      | none => modThread s t fun th => { th with gang := none }

/-- Step 6: all writes of the bundle take effect, and the thread goes on at the next bundle. -/
def finishBundle (s : State) (t : Tid) (got : List (Nat × Option (List Byte))) (effs : List Eff) : State :=
  let pc := (getThread s t).pc
  let s := modThread s t fun th =>
    { countSlot th .issue with
      pc := th.pc + 16
      fresh := 0
      run := .running
      park := none
      inflight := none
      mwait := none
      tileWait := none
      ranOff := bitsAt th.pc 4 12 == 4095
      dbg := { th.dbg with skipOnce := false } }
  afterBundle (gangStep (applyEffs t got s effs) t pc) t

/-- Whether the send queues of a thread have drained. -/
def noBeats (s : State) (t : Tid) : Bool :=
  s.circuits.all fun c => c.2.inj.all fun b => match b.src with
    | .tx t' _ => t' != t
    | _ => true

/-- The conditions of `halt`: every request replied, the send queues drained; ownerships lapse (R104). -/
def drained (s : State) (t : Tid) : Bool := (getDie s t.die).reqs.all (fun r => r.tid != t || r.who != .thread) && noBeats s t

/-- Whether a die's queues hold fewer tasks of a context, and of its region, than their quotas (R324, R411). -/
def queueRoom (s : State) (ctx region die : Nat) : Bool :=
  let l := (getDie s die).queue.filter fun k => k.ctx == ctx
  decide (l.length < cBits s ctx 0x10 48 16) &&
    decide ((l.filter fun k => k.region == region).length < effBits s ctx region 3 0x10 48 16)

/-- The checks of a launch block that `lnch` traps on (R323): cause and tval, or none. -/
def launchFault (s : State) (ctx region : Nat) (user : Bool) (a : Word) (b : Vector Word 16) : Option (Nat × Word) :=
  let reserved := lBits b 0x08 3 1 != 0 || lBits b 0x08 6 2 != 0 || lBits b 0x08 11 5 != 0 || lBits b 0x08 22 2 != 0 ||
    lBits b 0x08 25 7 != 0 || lBits b 0x08 44 4 != 0 || lBits b 0x08 60 4 != 0 || lBits b 0x20 19 1 != 0 ||
    lBits b 0x20 29 3 != 0 || lBits b 0x20 38 2 != 0 || lBits b 0x20 42 22 != 0 || lBits b 0x70 0 64 != 0 || lBits b 0x78 0 64 != 0
  let tasks := lTasks b
  let shdst := lBits b 0x20 0 19
  let shcnt := lBits b 0x20 20 4
  let reg := lBits b 0x08 16 6
  if reserved || decide (2 ^ 32 ≤ tasks) || decide (8 < shcnt) || decide (16 < lBits b 0x20 24 5) || shdst % 64 != 0 ||
    decide (0x80000 < shdst + 64 * shcnt) || (mapFind (getCtx s ctx).regions reg).isNone ||
    (user && (reg != region || lBits b 0x08 24 1 == 1)) then some (6, a)
  else
    match (List.range 4).find? fun j =>
      lBits b (0x40 + 8 * j) 0 62 ≠ 0 ∧ (getCtx s ctx).nextHandle ≤ lBits b (0x40 + 8 * j) 0 62 with
    | some j => some (6, word (lBits b (0x40 + 8 * j) 0 62))
    | none => none

/-- A trap that the bytes a bundle waited for bring before step 6: the checks of a launch block (R323). A Poisoned read of
the block is a poison trap with the bundle's pc (R25; log 12). -/
def finalTrap (s : State) (t : Tid) (got : List (Nat × Option (List Byte))) (effs : List Eff) : Option (Nat × Word) :=
  let th := getThread s t
  effs.findSome? fun e => match e with
    | .launch a k _ =>
      match mapGet none got k with
      | some l => launchFault s th.ctx th.region (mode th == 0) a (launchBlock l)
      | none => some (14, th.pc)
    | _ => none

/-- Whether a wait of step 5 has ended. THREAD_RETIRE alone ends that of `halt`. -/
def waitDone (s : State) (t : Tid) (got : List (Nat × Option (List Byte))) (w : Wait5) : Bool :=
  match w with
  | .key _ k => (mapFind got k).isSome
  | .requests _ ids => (getDie s t.die).reqs.all fun r => !ids.contains r.id
  | .transfers l => l.all fun x => decide (x.2.2 ≤ (getChan s x.1 x.2.1).done)
  | .commands ids => (getCore s (tidKey t)).mq.all fun m => !ids.contains m.id
  | .wheel e => decide (e ≤ s.wheel)
  | .drain => false
  | .channel ch => decide ((getChan s (tidCluster t) ch).q.length < Config.chanDepth)
  | .room n => match liveCirc s (getTx (getThread s t) n) with
    | some k => txRoom s t n k
    | none => false
  | .quota d => queueRoom s (getThread s t).ctx (getThread s t).region d
  | .refence | .act _ => true

/-- Pass the waits that have ended, in order, with the effects that stand among them; what is left. -/
def passWaits (s : State) (t : Tid) (got : List (Nat × Option (List Byte))) : List Wait5 → State × List Wait5
  | [] => (s, [])
  | .act e :: l => passWaits (applyEff t got s e) t got l
  | .refence :: l =>
    let q := (getCore s (tidKey t)).mq
    if q.isEmpty then passWaits s t got l else (s, .commands (q.map (·.id)) :: l)
  | w :: l => if waitDone s t got w then passWaits s t got l else (s, w :: l)

/-- Step 5: requests are made; the bundle waits while any wait is left, else it goes on to step 6. -/
def startBundle (s : State) (t : Tid) (eff5 : List Eff) (waits : List Wait5) (eff6 : List Eff) : State :=
  let (s, waits) := passWaits (applyEffs t [] s eff5) t [] waits
  match waits with
  | [] => finishBundle s t [] eff6
  | w :: _ =>
    let s := modThread s t fun th =>
      { countSlot th (.park (waitCause w)) with run := .parked, park := none, inflight := some ⟨waits, eff6, []⟩ }
    emitTrace s t (getThread s t).pc 2 (waitCause w) 0

/-- A bundle that waits at step 5 goes on as far as its waits allow; a rotation slot spent waiting counts under the cause. -/
def resumeBundle (s : State) (t : Tid) : State :=
  match (getThread s t).failed, (getThread s t).inflight with
  | some (cause, tval, v), _ => takeTrap s t cause tval v 0 false
  | none, none => s
  | none, some f =>
    let (s, waits) := passWaits s t f.got f.waits
    match waits with
    | [] =>
      match finalTrap s t f.got f.eff6 with
      | some (cause, tval) => takeTrap s t cause tval false 0 false
      | none => finishBundle (endPark s t) t f.got f.eff6
    | w :: _ =>
      let s := if f.waits.head?.map waitCause = some (waitCause w) then s
        else emitTrace (emitTrace s t (getThread s t).pc 3 ((f.waits.head?.map waitCause).getD 0) 0) t (getThread s t).pc 2 (waitCause w) 0
      modThread s t fun th => { countSlot th (.park (waitCause w)) with inflight := some { f with waits := waits } }

/-- A fault comes to a waiting bundle: the trap is taken in the thread's next rotation slot. -/
def failWait (s : State) (t : Tid) (cause : Nat) (tval : Word) (slotV : Bool) : State :=
  modThread s t fun th => { th with failed := some (cause, tval, slotV) }

/-- The bytes of a wait arrive at a thread under a key (none for a Poisoned reply). -/
def giveKey (s : State) (t : Tid) (k : Nat) (v : Option (List Byte)) : State :=
  modThread s t fun th => { th with inflight := th.inflight.map fun f => { f with got := mapSet f.got k v } }

/-- The step of R35 at which a stop was found. -/
def stopStep : Stop → Nat
  | .trap n _ _ _ => n
  | .park _ _ => 4
  | .watch => 4
  | .engine _ _ _ => 4

/-- The operand number of the S syllable at a location both syllables write, the first as written where both pd and pe of the S syllable
conflict (R36, R94; DESIGN CHOICE, log 117). -/
def conflictOf (a b : SylOut) : Option Nat :=
  if a.enabled && b.enabled then (a.dests.find? fun l => b.dests.any fun m => m.1 == l.1).map fun l => l.2 else none

/-- The stop that decides the bundle, with its slot: the earlier step, the S syllable's at the same step (R38, R110). -/
def firstStop (a b : SylOut) : Option (Stop × Bool) :=
  match a.stop, b.stop with
  | none, none => none
  | some x, none => some (x, false)
  | none, some y => some (y, true)
  | some x, some y => if stopStep x ≤ stopStep y then some (x, false) else some (y, true)

/-- Whether an effect changes what a port, a window or a stream register stands for. -/
def rebinds : Eff → Bool
  | .bindRx .. | .bindTx .. | .unbind _ | .winb .. | .winUnbind _ | .sbind .. | .sunbind _ => true
  | _ => false

/-- The effects of a bundle at step 6: the S syllable's, then the V syllable's. A V syllable that uses a port, a window or a stream
which the S syllable binds or unbinds uses it as it was before the bundle (R35). -/
def pairEffs (a b : List Eff) : List Eff := if a.any rebinds then b ++ a else a ++ b

/-- The waits of a bundle: the S syllable's first, but for those of `halt`, which end the thread when nothing else is left (R104). -/
def pairWaits (a b : List Wait5) : List Wait5 := if a = [.drain] then b ++ a else a ++ b

/-- A bundle whose syllables came to a and b takes its trap, parks, waits or completes (R35 to R38). A segment-miss that a
transfer of the bundle raises for its target is no miss of this bundle, also in the first bundle of a handler (R111; DESIGN CHOICE,
log 118). -/
def commitBundle (s : State) (t : Tid) (a b : SylOut) : State :=
  let s := { s with nextId := s.nextId + a.keys + b.keys, pair := .alone }
  match conflictOf a b with
  | some n => takeTrap s t 2 (word n) false 0 false
  | none =>
    match firstStop a b with
    | some (.trap _ code tval elem, v) => takeTrap (clearOverflow s t code tval) t code tval v elem (forcedToH code tval)
    | some (.park p gate, v) => parkThread s t p v gate b.fixed
    | some (.watch, _) => stopThreadNow s t 4 0
    | some (.engine ch cause tval, v) =>
      takeTrap (modChan s (tidCluster t) ch fun x => { x with fault := none, more := false }) t cause tval v 0 false
    | none => startBundle s t (a.eff5 ++ b.eff5) (pairWaits a.waits b.waits) (pairEffs a.eff6 b.eff6)

/-- What the S half of a bundle has taken before its V half is examined: pops, streams, leave and keys (R37). -/
def pairTaken (s : State) : List Nat × List Nat × List GateKind × Nat :=
  match s.pair with
  | .second o => (o.pops, o.spops, o.gates, o.keys)
  | _ => ([], [], [], 0)

/-- Evaluate the body of an enabled syllable of the current thread. -/
def evalBody (slotV : Bool) (body : Ev Unit) (dests : List (Loc × Nat)) (s : State) : SylOut :=
  let th := getThread s s.cur
  let (pops, spops, gates, keys) := pairTaken s
  match body ⟨s, s.cur, th, getCore s (tidKey s.cur), slotV, pops, spops, gates, th.tileWait, [], [], [], keys⟩ with
  | .error (x, c) => ⟨true, dests, some x, [], [], [], c.pops, c.spops, c.gates, c.fixed, 0⟩
  | .ok (_, c) => ⟨true, dests, none, c.eff5, c.waits, c.eff6, c.pops, c.spops, c.gates, c.fixed, c.keys - keys⟩

/-- A trap of a V syllable names no element below the lowest that is enabled (R110). -/
def SylOut.atElem (o : SylOut) (n : Nat) : SylOut :=
  { o with stop := o.stop.map fun x => match x with
    | .trap step cause tval e => .trap step cause tval (max e n)
    | x => x }

/-- Issue a syllable of the current thread: alone beside a NOP, as the first half of a bundle, or as the half that
completes one (R35). -/
def issueOut (slotV : Bool) (o : SylOut) (s : State) : State :=
  match s.pair with
  | .alone => if slotV then commitBundle s s.cur .off o else commitBundle s s.cur o .off
  | .first => { s with pair := .second o }
  | .second a => commitBundle s s.cur a o

/-- An S syllable: its guard is Guard(0) (R29). -/
def issueS (g : Guard) (dests : List (Loc × Nat)) (body : Ev Unit) (s : State) : Out :=
  .next (issueOut false (if guardBit g (getThread s s.cur) 0 then evalBody false body dests s else .off) s)

/-- A V syllable guarded per element of a governing width (R30, R32). -/
def issueV (g : Guard) (w : Nat) (dests : List (Loc × Nat)) (body : Ev Unit) (s : State) : Out :=
  let th := getThread s s.cur
  .next (issueOut true (if anyGuard g th w then (evalBody true body dests s).atElem (firstElem g th w) else .off) s)

/-- A V syllable guarded by Guard(0) alone (R235, 18). -/
def issueV0 (g : Guard) (dests : List (Loc × Nat)) (body : Ev Unit) (s : State) : Out :=
  .next (issueOut true (if guardBit g (getThread s s.cur) 0 then evalBody true body dests s else .off) s)

/-- A NOP is never enabled (R58). -/
def issueNop (s : State) : Out := .next (issueOut (match s.pair with | .second _ => true | _ => false) .off s)

end Sys2Proof.Machine
end

