-- ==== Sys2Proof/Machine/Memory.lean ====
section
/-! DEFINITION. Loads, stores, full/empty operations, atomics, fences, seals, publishes, phases and code fetches at issue
(spec/10 R191 to R202, R208 to R210; spec/13 R288 to R294; spec/14 R300 to R307; spec/07 R132; spec/24 R453). What the die
memory agent then does with a request is in Agent.lean. -/

namespace Sys2Proof.Machine

set_option Elab.async false

/-! ## Accesses -/

/-- An access of whole bytes at an address. -/
def wholeAcc (a len pos data : Nat) : Acc := ⟨a, len, 0, 8 * len, pos, data, .none, 0, 0, false, false, false⟩

/-- An access to element j of width w of a vector, at a place. -/
def elemAcc (p : Place) (w j data : Nat) : Acc := ⟨p.addr, elemBytes w, p.bit, w, w * j, data, .none, 0, 0, false, false, false⟩

/-- A position that makes no access: its value is already there (R208). -/
def padAcc (w j data : Nat) : Acc := ⟨0, 0, 0, w, w * j, data, .none, 0, 0, true, true, false⟩

/-- Merge the bits of a store access into a memory. -/
def putAcc (m : Memory) (x : Acc) : Memory :=
  if x.done then m
  else
    let old := mNat m x.va x.len
    mPut m x.va x.len (old - old / 2 ^ x.bit % 2 ^ x.w * 2 ^ x.bit + x.data % 2 ^ x.w * 2 ^ x.bit)

/-- The bits that a load access takes from a memory. -/
def takeAcc (m : Memory) (x : Acc) : Acc :=
  if x.done then x else { x with data := mNat m x.va x.len / 2 ^ x.bit % 2 ^ x.w, done := true }

/-- The value that accesses assemble, each at its position. -/
def accsValue (l : List Acc) : Nat := l.foldl (fun v x => v + x.data % 2 ^ x.w * 2 ^ x.pos) 0

/-- The register offset of a memory operand (R49, R201). -/
def scaleOfIdx : Scale → Nat
  | .x1 => 1
  | .x8 => 8
  | .x64 => 64

/-- The address of a memory operand, modulo 2^64 (R201). -/
def evAddr (ra : SOp) (m : MemOff) : Ev Word := do
  let a ← srcS ra
  match m with
  | .off o => pure (a + o.signExtend 64)
  | .idx rb sc => do
    let b ← srcS rb
    pure (a + b * word (scaleOfIdx sc))

/-! ## Checks (10 R192, 06 R110) -/

def localSize : Space → Nat
  | .l => Config.tcmBytes
  | _ => Config.scratchBytes

def localMem (c : EvCtx) (sp : Space) : Memory :=
  if sp = .l then c.core.tcm else (getCluster c.s (tidCluster c.t)).scratch

/-- Misaligned: the first access that is not aligned to its length, at a step of R35. -/
def evAligned (step : Nat) (l : List Acc) : Ev Unit :=
  match l.find? fun x => x.len ≠ 0 ∧ x.va % x.len ≠ 0 with
  | some x => evTrapAt step 4 (word x.va)
  | none => pure ()

/-- Access-fault: the first access with a byte outside a local space (R192). -/
def evInside (sp : Space) (l : List Acc) : Ev Unit :=
  match l.find? fun x => localSize sp < x.va + x.len with
  | some x => evTrap 6 (word x.va)
  | none => pure ()

/-- The classes of a watch (R453). -/
inductive WatchKind where
  | load | store | both
deriving DecidableEq, Repr

def watchKindHits (k : WatchKind) (n : Nat) : Bool :=
  match k with
  | .load => n % 2 == 1
  | .store => n / 2 == 1
  | .both => n != 0

/-- Whether an access meets the watched range (R447, R453). -/
def watchHits (wp : Word) (x : Acc) : Bool :=
  let len := bitsAt wp 53 5
  let base := bitsAt wp 0 48 / 2 ^ len * 2 ^ len
  3 ≤ len && x.len != 0 && x.va < base + 2 ^ len && base < x.va + x.len

/-- The lowest address of the accesses that meet the watched range. -/
def watchLowest (wp : Word) (l : List Acc) : Nat :=
  let base := bitsAt wp 0 48 / 2 ^ bitsAt wp 53 5 * 2 ^ bitsAt wp 53 5
  ((l.filter (watchHits wp)).map fun x => max x.va base).foldl Nat.min (2 ^ 64)

/-- The watch of a thread over the accesses of an instruction: ACT 0 stops the thread; ACT 1 answers the lowest matching address
(R453). -/
def evWatch (k : WatchKind) (sp : Space) (l : List Acc) : Ev (Option Word) := do
  let c ← get
  let wp := c.th.dbg.wp
  if bitAt wp 63 && watchKindHits k (bitsAt wp 60 2) && bitsAt wp 58 2 == spaceCode sp && l.any (watchHits wp) then
    if bitAt wp 62 then pure (some (word (watchLowest wp l))) else evStop .watch
  else pure none

/-- A watch over accesses in `.l` or `.c`, whose breakpoint ranks after every other trap of the bundle (R110, R453). -/
def evWatchLocal (k : WatchKind) (sp : Space) (l : List Acc) : Ev Unit := do
  match ← evWatch k sp l with
  | some a => evTrapAt 7 15 a
  | none => pure ()

/-- Every check of an access in `.l` or `.c`, which comes after the thread's earlier loads (R192, R301). -/
def evLocal (k : WatchKind) (sp : Space) (l : List Acc) : Ev Unit := do
  evAligned 4 l
  evInside sp l
  evWatchLocal k sp l
  evEff .boundLoads

/-! ## Requests (10 R193, 14 R306) -/

/-- The scope at which an order modifier acts in a space of the die's agent: at most `di` in `.d` (R300). -/
def narrowed (sp : Space) (sco : Scope) : Scope := if sp = .d ∧ 3 < scopeCode sco then .di else sco

/-- A request of the current bundle; brk is the address of a breakpoint that is taken once every check has passed (R110). -/
def mkReq (c : EvCtx) (id : Nat) (sp : Space) (kind : ReqKind) (l : List Acc) (o : MOrd) (sco : Scope) (d : Dest)
    (brk : Option Word) : Req :=
  { id := id, tid := c.t, who := .thread, ctx := c.th.ctx, region := c.th.region, launch := c.th.launch, mode := mode c.th, space := sp, kind := kind, accs := l,
    ord := o, sco := narrowed sp sco,
    phase := (match kind with | .store | .amo _ | .cas _ => c.th.phase.toNat | _ => 0),
    dest := d, pc := c.th.pc, stage := .waiting, seq := 0, at_ := 0, poisoned := false, brk := brk, cap := none, due := 0,
    doom := none }

/-- Make a request and wait for its acceptance under cause 6 (R193). -/
def evPost (sp : Space) (kind : ReqKind) (l : List Acc) (o : MOrd) (sco : Scope) (d : Dest) (brk : Option Word := none) : Ev Unit := do
  let id ← evKey
  let c ← get
  evEff5 (.post (mkReq c id sp kind l o sco d brk))
  evWait (.key 6 id)

/-- Whether an acquire parks until its reply (R306). -/
def acquires (o : MOrd) (sco : Scope) : Bool := (o == .acq || o == .acqrel) && sco != .th

/-- The destination of a load of n bytes into a scalar register: Pending, or written at step 6 by an acquire (R193, R306). -/
def evLoadS (sp : Space) (kind : ReqKind) (l : List Acc) (o : MOrd) (sco : Scope) (d : SOp) (n : Nat) (sx : Bool)
    (brk : Option Word) : Ev Unit := do
  let c ← get
  let r := match d with
    | .s r => r.toNat
    | .port _ => 0
  if acquires o sco then
    let k ← evKey
    evPost sp kind l o sco (.bundle k) brk
    evWait (.key 15 k)
    evEff (.sregOf r k n sx c.th.pc)
  else if r = 0 ∨ (streamS c.th r).isSome = true then evPost sp kind l o sco .none brk
  else do
    evPost sp kind l o sco (.sreg r sx) brk
    evEff (.sPend r)

/-- The same for a vector register. -/
def evLoadV (sp : Space) (l : List Acc) (o : MOrd) (sco : Scope) (d : VOp) (brk : Option Word) : Ev Unit := do
  let c ← get
  let r := match d with
    | .v r => r.toNat
    | _ => 0
  if acquires o sco then
    let k ← evKey
    evPost sp .load l o sco (.bundle k) brk
    evWait (.key 15 k)
    evEff (.vregOf r k c.th.pc)
  else if (streamV c.th r).isSome = true then evPost sp .load l o sco .none brk
  else do
    evPost sp .load l o sco (.vreg r) brk
    evEff (.vPend r)

/-- A load of a scalar (R201). -/
def evLoadScalar (sp : Space) (l : List Acc) (o : MOrd) (sco : Scope) (d : SOp) (n : Nat) (sx : Bool) : Ev Unit :=
  if sp = .l ∨ sp = .c then do
    evLocal .load sp l
    let c ← get
    dstS d (extendLoad n sx (accsValue (l.map (takeAcc (localMem c sp)))))
  else do
    evAligned 5 l
    let brk ← evWatch .load sp l
    evLoadS sp .load l o sco d n sx brk

/-- A load of a vector (R201, R202, R209). A strip that makes no access is complete as it stands. -/
def evLoadVector (sp : Space) (l : List Acc) (o : MOrd) (sco : Scope) (d : VOp) : Ev Unit :=
  if sp = .l ∨ sp = .c ∨ l.all (·.done) then do
    evLocal .load sp l
    let c ← get
    dstV d 64 (BitVec.allOnes 64) (BitVec.ofNat 512 (accsValue (l.map (takeAcc (localMem c sp)))))
  else do
    evAligned 5 l
    let brk ← evWatch .load sp l
    evLoadV sp l o sco d brk

/-- The bytes of a local store, as effects: each access's bytes after every element has been merged in ascending order. -/
def evPutLocal (sp : Space) (l : List Acc) : Ev Unit := do
  let c ← get
  let m := l.foldl putAcc (localMem c sp)
  (l.filter (!·.done)).forM fun x =>
    evEff (if sp = .l then .tcm x.va x.len (mNat m x.va x.len) else .scratch x.va x.len (mNat m x.va x.len))

/-- A store (R201, R202, R209). -/
def evStore (sp : Space) (l : List Acc) (o : MOrd) (sco : Scope) : Ev Unit :=
  if sp = .l ∨ sp = .c ∨ l.all (·.done) then do
    evLocal .store sp l
    evPutLocal sp l
  else do
    evAligned 5 l
    let brk ← evWatch .store sp l
    evPost sp .store l o sco .none brk

/-! ## Loads and stores (10 R200 to R202) -/

def execLd (g : Guard) (sp : Space) (wd : BitVec 2) (sx : Bool) (o : MOrd) (sco : Scope) (d ra : SOp) (m : MemOff) (s : State) : Out :=
  issueS g (locS d) (do
    examS d
    let a ← evAddr ra m
    evLoadScalar sp [wholeAcc a.toNat (2 ^ wd.toNat) 0 0] o sco d (2 ^ wd.toNat) sx) s

def execSt (g : Guard) (sp : Space) (wd : BitVec 2) (o : MOrd) (sco : Scope) (d ra : SOp) (m : MemOff) (s : State) : Out :=
  issueS g [] (do
    let v ← srcS d
    let a ← evAddr ra m
    evStore sp [wholeAcc a.toNat (2 ^ wd.toNat) 0 v.toNat] o sco) s

def execVld (g : Guard) (sp : Space) (o : MOrd) (sco : Scope) (d : VOp) (ra : SOp) (m : MemOff) (s : State) : Out :=
  issueS g (locV d) (do
    let _ ← examV d true
    let a ← evAddr ra m
    evLoadVector sp [wholeAcc a.toNat 64 0 0] o sco d) s

def execVst (g : Guard) (sp : Space) (o : MOrd) (sco : Scope) (d : VOp) (ra : SOp) (m : MemOff) (s : State) : Out :=
  issueS g [] (do
    let v ← srcV d
    let a ← evAddr ra m
    evStore sp [wholeAcc a.toNat 64 0 v.toNat] o sco) s

/-- The accesses of a strided load or store: element k at a + k·t modulo 2^64 (R202). -/
def stridedAccs (a t : Word) (len : Nat) (v : Vec) : List Acc :=
  (List.range (64 / len)).map fun k =>
    wholeAcc (a + word k * t).toNat len (8 * len * k) (vElem (8 * len) v k)

def execVlds (g : Guard) (sp : Space) (wd : BitVec 2) (o : MOrd) (sco : Scope) (d : VOp) (ra rb : SOp) (s : State) : Out :=
  issueS g (locV d) (do
    let _ ← examV d true
    let a ← srcS ra
    let t ← srcS rb
    evLoadVector sp (stridedAccs a t (2 ^ wd.toNat) 0) o sco d) s

def execVsts (g : Guard) (sp : Space) (wd : BitVec 2) (o : MOrd) (sco : Scope) (d : VOp) (ra rb : SOp) (s : State) : Out :=
  issueS g [] (do
    let v ← srcV d
    let a ← srcS ra
    let t ← srcS rb
    evStore sp (stridedAccs a t (2 ^ wd.toNat) v) o sco) s

/-! ## Shape-record strips (10 R208, R209, R220) -/

/-- Positions of strip s of a record, for a load: element accesses, pads and zeros (R208, R209). -/
def stripLoad (r : Rec) (rank s : Nat) : List Acc :=
  let w := rWidth r
  let n := 512 / w
  (List.range n).map fun j =>
    if elemCount r rank ≤ s * n + j then padAcc w j (padOf r)
    else match elemAt r rank (s * n + j) with
      | .at_ p _ _ => elemAcc p w j 0
      | .pad => padAcc w j (padOf r)
      | .null => padAcc w j 0

/-- Positions of strip s of a record, for a store of a vector: pads and null rows are not written. -/
def stripStore (r : Rec) (rank s : Nat) (v : Vec) : List Acc :=
  let w := rWidth r
  let n := 512 / w
  (List.range n).filterMap fun j =>
    if elemCount r rank ≤ s * n + j then none
    else match elemAt r rank (s * n + j) with
      | .at_ p _ _ => some (elemAcc p w j (vElem w v j))
      | _ => none

/-- The tag check of `vldx` at strip 0 (R220). -/
def evTag (r : Rec) : Ev Unit := fun c =>
  if isFull c.core (tagAddr r) then
    if tagMatches c.core r then .ok ((), c) else .error (.trap 4 9 (tagFault c.core r) 0, c)
  else .error (.park ⟨2, word (tagAddr r), .word (tagAddr r), false, 0, false⟩ none, c)

/-- A port destination over a record in `.d` or `.g` is an access-fault with the operand number (R196). -/
def evNoPort (d : VOp) (sp : Space) : Ev Unit :=
  match d with
  | .port n => evNeed (sp = .l ∨ sp = .c) 6 (word (16 + n.toNat))
  | _ => pure ()

def execVldx (g : Guard) (o : MOrd) (sco : Scope) (d : VOp) (ra rb : SOp) (s : State) : Out :=
  issueS g (locV d) (do
    let _ ← examV d true
    let a ← srcS ra
    let n ← srcS rb
    let r ← evRec a
    evNoPort d (rSpace r)
    let c ← get
    if n = 0 ∧ recTagen r = true then evTag r else pure ()
    evLoadVector (rSpace r) (stripLoad r c.th.rank n.toNat) o sco d) s

def execVstx (g : Guard) (o : MOrd) (sco : Scope) (d : VOp) (ra rb : SOp) (s : State) : Out :=
  issueS g [] (do
    let v ← srcV d
    let a ← srcS ra
    let n ← srcS rb
    let r ← evRec a
    let c ← get
    evStore (rSpace r) (stripStore r c.th.rank n.toNat v) o sco) s

/-! ## Full/empty operations (10 R210) -/

/-- The checked address of a full/empty operation, which comes after the thread's earlier loads (R192, R301). -/
def evWord (a : Word) : Ev Unit := do
  evAligned 4 [wholeAcc a.toNat 8 0 0]
  evInside .l [wholeAcc a.toNat 8 0 0]
  evEff .boundLoads

/-- Wait under cause 2 until the word is in a state. -/
def evAwait (a : Word) (f : Bool) : Ev Unit := do
  let c ← get
  if isFull c.core a.toNat = f then pure () else evPark 2 a (.word (a.toNat / 8 * 8))

/-- ldfe and ldff. -/
def bodyTake (d ra : SOp) (m : MemOff) (empties : Bool) : Ev Unit := do
  examS d
  let a ← evAddr ra m
  evWord a
  evWatchLocal .load .l [wholeAcc a.toNat 8 0 0]
  evAwait a true
  let c ← get
  dstS d (mWord c.core.tcm a.toNat)
  if empties then evEff (.full a.toNat false) else pure ()

/-- stef and stff. -/
def bodyLeave (d ra : SOp) (m : MemOff) (waits : Bool) : Ev Unit := do
  let v ← srcS d
  let a ← evAddr ra m
  evWord a
  evWatchLocal .store .l [wholeAcc a.toNat 8 0 0]
  if waits then evAwait a false else pure ()
  evEff (.tcm a.toNat 8 v.toNat)
  evEff (.full a.toNat true)

def execLdfe (g : Guard) (_o : MOrd) (_sco : Scope) (d ra : SOp) (m : MemOff) (s : State) : Out :=
  issueS g (locS d) (bodyTake d ra m true) s
def execLdff (g : Guard) (_o : MOrd) (_sco : Scope) (d ra : SOp) (m : MemOff) (s : State) : Out :=
  issueS g (locS d) (bodyTake d ra m false) s
def execStef (g : Guard) (_o : MOrd) (_sco : Scope) (d ra : SOp) (m : MemOff) (s : State) : Out :=
  issueS g [] (bodyLeave d ra m true) s
def execStff (g : Guard) (_o : MOrd) (_sco : Scope) (d ra : SOp) (m : MemOff) (s : State) : Out :=
  issueS g [] (bodyLeave d ra m false) s

def execFest (g : Guard) (f : Bool) (ra rb : SOp) (sc : Scale) (s : State) : Out :=
  issueS g [] (do
    let a ← evAddr ra (.idx rb sc)
    evWord a
    evEff (.full a.toNat f)) s

/-! ## Atomics (13 R288) -/

/-- The value an `amo` writes, at width w. -/
def amoNew (op : AmoOp) (w : Nat) (old b : Nat) : Nat :=
  let so := (BitVec.ofNat w old).toInt
  let sb := (BitVec.ofNat w b).toInt
  let y := b % 2 ^ w
  match op with
  | .add => (old + y) % 2 ^ w
  | .and => old &&& y
  | .or => old ||| y
  | .xor => old ^^^ y
  | .min => if so ≤ sb then old else y
  | .max => if so ≤ sb then y else old
  | .minu => Nat.min old y
  | .maxu => Nat.max old y
  | .swap => y

/-- The value a `cas` writes, at width w. -/
def casNew (w : Nat) (old e b : Nat) : Nat := if old = e % 2 ^ w then b % 2 ^ w else old

/-- An atomic over len bytes at a: in place for `.l` and `.c`, a request otherwise. -/
def evAtomic (sp : Space) (kind : ReqKind) (f : Nat → Nat) (o : MOrd) (sco : Scope) (d : SOp) (a : Word) (len data : Nat) : Ev Unit :=
  if sp = .l ∨ sp = .c then do
    evLocal .both sp [wholeAcc a.toNat len 0 0]
    let c ← get
    let old := mNat (localMem c sp) a.toNat len
    evEff (if sp = .l then .tcm a.toNat len (f old) else .scratch a.toNat len (f old))
    dstS d (word old)
  else do
    evAligned 5 [wholeAcc a.toNat len 0 data]
    let brk ← evWatch .both sp [wholeAcc a.toNat len 0 data]
    evLoadS sp kind [wholeAcc a.toNat len 0 data] o sco d len false brk

def execAmo (g : Guard) (op : AmoOp) (sp : Space) (w64 : Bool) (o : MOrd) (sco : Scope) (d ra rb : SOp) (s : State) : Out :=
  issueS g (locS d) (do
    let len := if w64 then 8 else 4
    examS d
    let a ← srcS ra
    let b ← srcS rb
    evAtomic sp (.amo op) (fun old => amoNew op (8 * len) old b.toNat) o sco d a len b.toNat) s

/-- cas reads d as well as writing it. -/
def execCas (g : Guard) (sp : Space) (w64 : Bool) (o : MOrd) (sco : Scope) (d ra rb : SOp) (s : State) : Out :=
  issueS g (locS d) (do
    let len := if w64 then 8 else 4
    let e ← srcS d
    let a ← srcS ra
    let b ← srcS rb
    evAtomic sp (.cas e) (fun old => casNew (8 * len) old e.toNat b.toNat) o sco d a len b.toNat) s

/-! ## Fences (14 R307) -/

/-- The loads of a thread that have not replied. -/
def myLoads (s : State) (t : Tid) : List Nat :=
  ((getDie s t.die).reqs.filter fun r => r.tid == t && r.who == .thread && isRead r.kind).map (·.id)

/-- The writes a fence waits for: the thread's own, and those before them in die order at a scope wider than `di`. -/
def fenceWrites (s : State) (t : Tid) (sco : Scope) : List Nat :=
  ((getDie s t.die).reqs.filter fun r =>
    isWrite r.kind && !isPerformed r && ((r.tid == t && r.who == .thread) || (3 < scopeCode sco && isAccepted r))).map (·.id)

/-- The transfers that a thread has issued and that have not completed. -/
def myTransfers (s : State) (t : Tid) : List (Nat × Nat × Nat) :=
  (List.range 8).flatMap fun ch =>
    ((getChan s (tidCluster t) ch).q.filter fun x => x.tid == t && x.task == (getThread s t).task).map fun x => (tidCluster t, ch, x.id)

/-- The waits of a fence (R307). -/
def fenceWaits (s : State) (t : Tid) (k : FenceKind) (sco : Scope) : List Wait5 :=
  let n := scopeCode sco
  let loads := if 0 < n then myLoads s t else []
  let reqs := match k with
    | .ld => loads
    | .st => if 3 < n then fenceWrites s t sco else []
    | .all | .eng => if 0 < n then loads ++ fenceWrites s t sco else []
  (if reqs.isEmpty then [] else [.requests 15 reqs]) ++
    (if k = .eng ∧ 0 < n ∧ (myTransfers s t).isEmpty = false then [.transfers (myTransfers s t)] else [])

def evFence (k : FenceKind) (sco : Scope) : Ev Unit := do
  let c ← get
  (fenceWaits c.s c.t k sco).forM evWait

def execFence (g : Guard) (k : FenceKind) (sco : Scope) (s : State) : Out := issueS g [] (evFence k sco) s

/-! ## Seal, unseal and publish (13 R289 to R291) -/

/-- The page checks of a range at step 4 (R289). -/
def evRange (a n : Word) : Ev Unit := evNeed (bitsAt a 0 12 = 0 ∧ bitsAt n 0 12 = 0 ∧ n ≠ 0) 4 a

def execSeal (g : Guard) (sp : Space) (ra rb : SOp) (s : State) : Out :=
  issueS g [] (do
    let a ← srcS ra
    let n ← srcS rb
    evRange a n
    let k ← evKey
    evPost sp .seal [wholeAcc a.toNat n.toNat 0 0] .plain .th (.bundle k)
    evWait (.key 15 k)) s

/-- unseal leaves d Pending, unless d discards writes. -/
def execUnseal (g : Guard) (sp : Space) (d ra rb : SOp) (s : State) : Out :=
  issueS g (locS d) (do
    examS d
    let a ← srcS ra
    let n ← srcS rb
    evRange a n
    evLoadS sp .unseal [wholeAcc a.toNat n.toNat 0 0] .plain .th d 8 false none) s

def execPublish (g : Guard) (sp : Space) (ra : SOp) (s : State) : Out :=
  issueS g [] (do
    let a ← srcS ra
    evNeed (sp = .g) 6 a
    let k ← evKey
    evPost sp .publish [wholeAcc a.toNat 0 0 0] .plain .th (.bundle k)
    evWait (.key 15 k)) s

/-! ## Phases (13 R292, R294) -/

/-- Phases from 1 up that threads of a context on a die hold, or accepted writes and transfers carry. -/
def livePhases (s : State) (die ctx : Nat) : List Nat :=
  let ths := (List.range 64).flatMap fun c => ((getCore s (coreKey die c)).slots.toList.filter fun th =>
    hasThread th && th.ctx == ctx).map (·.phase.toNat)
  let reqs := ((pendingWrites (getDie s die)).filter fun r => r.ctx == ctx).map (·.phase)
  let xs := (List.range 8).flatMap fun cl => (List.range 8).flatMap fun ch =>
    ((getChan s (clusterKey die cl) ch).q.filter fun x => x.ctx == ctx).map (·.phase)
  (ths ++ reqs ++ xs).filter (0 < ·)

/-- The published count as it stands: below every live phase, and at most the greatest phase set (R293, log 13). -/
def phaseCount (s : State) (die ctx : Nat) : Nat :=
  let d := getDie s die
  max (mapGet 0 d.pd ctx) ((livePhases s die ctx).foldl (fun m k => Nat.min m (k - 1)) (mapGet 0 d.pmax ctx))

/-- The published count of a die for a context, as a die holds it: its own as it stands, another's as last sent (R293). -/
def heldCount (s : State) (at_ die ctx : Nat) : Nat :=
  if at_ = die then phaseCount s die ctx else mapGet 0 (getDie s at_).held (256 * die + ctx)

def execSetph (g : Guard) (ra : SOp) (s : State) : Out :=
  issueS g [] (do
    let k ← srcS ra
    let c ← get
    evNeed (k ≠ 0 ∧ k.toNat < 2 ^ 32 ∧ max c.th.phase.toNat (heldCount c.s c.t.die c.t.die c.th.ctx) < k.toNat) 6 k
    evEff (.setph k.toNat)) s

/-- The tower that Src(ra) of `waitph` names, where it is a tower of the context on the module (R294). -/
def phaseDie (s : State) (ctx : Nat) (w : Word) : Option Nat :=
  if bitsAt w 24 40 = 0 ∧ bitsAt w 0 9 = 0 ∧ bitsAt w 18 6 = s.modNo then
    match tidOf w with
    | some t => if ctxTower s ctx t.die then some t.die else none
    | none => none
  else none

def execWaitph (g : Guard) (ra rb : SOp) (s : State) : Out :=
  issueS g [] (do
    let w ← srcS ra
    let k ← srcS rb
    let c ← get
    match phaseDie c.s c.th.ctx w with
    | none => evTrap 6 w
    | some d => do
      evNeed (k.toNat < 2 ^ 32) 6 k
      if k.toNat ≤ heldCount c.s c.t.die d c.th.ctx then pure () else evPark 11 w (.phase d k.toNat)) s

/-! ## Code fetches (07 R132) -/

def execCfetch (g : Guard) (sp : Space) (ra : SOp) (seg : BitVec 12) (s : State) : Out :=
  issueS g [] (do
    let a ← srcS ra
    if a = 0 then evEff (.unload seg.toNat)
    else do
      if bitsAt a 0 6 = 0 then pure () else evTrapAt 5 4 a
      let k ← evKey
      evPost sp .fetch [wholeAcc a.toNat 64 0 0] .plain .th (.bundle k)
      evWait (.key 6 k)
      evEff (.land seg.toNat k a.toNat sp)) s

end Sys2Proof.Machine
end

