-- ==== Sys2Proof/Machine/Translate.lean ====
section
/-! DEFINITION. Interleaving, homes, and the two-stage translation of a die memory agent
(spec/13_die_memory_and_translation.md R276, R281 to R287, R291). -/

namespace Sys2Proof.Machine

set_option Elab.async false

/-! ## Interleaving (R286, R287) -/

/-- Mix of R287, in 32-bit arithmetic. -/
def mix32 (j seed : BitVec 32) : BitVec 32 :=
  let z := j * 0x9E3779B9 + seed
  let z := z ^^^ (z >>> 16)
  let z := z * 0x85EBCA6B
  z ^^^ (z >>> 13)

/-- The domes of a context's mask, rising. -/
def domeMask (s : State) (ctx : Nat) : List Nat := (List.range 160).filter (blkSet (getCtx s ctx).blk 0x68)

/-- Granule of a code (R410). -/
def granuleOf (g : Nat) : Nat := match g with
  | 0 => 2 ^ 12
  | 1 => 2 ^ 16
  | 2 => 2 ^ 21
  | _ => 2 ^ 26

/-- Home of a CPA of the local module under a mask, or none where R287 finds no home. -/
def homeUnder (s : State) (ctx : Nat) (mask : List Nat) (cpa : Nat) : Home :=
  let z := cpa / 2 ^ 44 % 4
  let p := cpa % 2 ^ 44
  let off := 0x80 + 16 * z
  let g := granuleOf (cBits s ctx off 48 2)
  let c := mask.length
  if 2 ^ 46 ≤ cpa ∨ c = 0 ∨ cBits s ctx off 50 1 = 0 then .none
  else
    let gr := p / g
    let j := gr / c
    if cBits s ctx (off + 8) 0 48 ≤ j * g then .none
    else
      let k := (gr % c + (mix32 (BitVec.ofNat 32 j) (BitVec.ofNat 32 (cBits s ctx 0x30 32 32))).toNat) % c
      .dome (mask.getD k 0) (cBits s ctx off 0 48 + j * g + p % g)

/-- Home of a CPA with its module (R287, R487). -/
def homeOf (s : State) (ctx mod cpa : Nat) : Home :=
  if mod = s.modNo then homeUnder s ctx (domeMask s ctx) cpa
  else if bitAt (getCtx s ctx).modules mod then .far mod cpa else .none

/-! ## Two-backed regions (R291) -/

/-- The page that a flip puts in the place of a page. -/
def flipPage (f : Flip) (page : Nat × Nat) : Nat × Nat :=
  (f.pages.findSome? fun p => if p.1 = page then some p.2 else if p.2 = page then some p.1 else none).getD page

/-- A CPA after the flips in force at a wheel count: the newest exchanges what the earlier ones have left in its pages' places. -/
def flipCpa (s : State) (ctx wheel mod cpa : Nat) : Nat × Nat :=
  let q := ((getCtx s ctx).flips.filter fun f => decide (f.e ≤ wheel)).foldl (fun p f => flipPage f p) (mod, cpa / 4096 * 4096)
  (q.1, q.2 + cpa % 4096)

/-! ## Memory at a home (R295) -/

/-- The bytes at a home of a tower's agent; a far module's are not held here, and what the keep reads there is free (log 108). -/
def homeNat (s : State) (die : Nat) (h : Home) (n : Nat) : Nat :=
  match h with
  | .sram a => mNat (getDie s die).sram a n
  | .dome d off => mNat (getDome s d).mem off n
  | .far m c => bytesNat ((List.range n).map fun i => Config.farByte s.wheel m (c + i))
  | .none => 0

/-- Granules of a list that n bytes from a meet. -/
def granulesMet (l : List Nat) (a n : Nat) : List Nat := l.filter fun p => p < a + n && a < p + 64

/-- Whether n bytes at a home meet a granule that is poisoned, or whose read finds an uncorrectable error. -/
def homePoison (s : State) (die : Nat) (h : Home) (n : Nat) : Bool :=
  match h with
  | .sram a => !(granulesMet ((getDie s die).poison ++ (getDie s die).latent) a n).isEmpty
  | .dome d off => !(granulesMet ((getDome s d).poison ++ (getDome s d).latent) off n).isEmpty
  | _ => false

/-- Granules wholly covered by n bytes from a lose their poison (R295). -/
def clearPoison (l : List Nat) (a n : Nat) : List Nat := l.filter fun p => !(a ≤ p && p + 64 ≤ a + n)

/-- Write n bytes at a home; a far module's are not held here. -/
def homePut (s : State) (die : Nat) (h : Home) (n v : Nat) : State :=
  match h with
  | .sram a => modDie s die fun d => { d with sram := mPut d.sram a n v, poison := clearPoison d.poison a n, latent := clearPoison d.latent a n }
  | .dome k off => modDome s k fun d => { d with mem := mPut d.mem off n v, poison := clearPoison d.poison off n, latent := clearPoison d.latent off n }
  | _ => s

/-- The function that serves a context: 512 · port + number (R414). -/
def ctxFunc (s : State) (ctx : Nat) : Nat := if ctx < s.spl then ctx + 1 else 512 + (ctx - s.spl + 1)

def getFunc (s : State) (k : Nat) : Func := mapGet Func.reset s.funcs k
def setFunc (s : State) (k : Nat) (f : Func) : State := { s with funcs := mapSet s.funcs k f }

/-- The keep notifies a context: source 3 becomes pending in every thread of it (R112), and its function raises vector 1 (R414; log 64). -/
def notifyCtx (s : State) (ctx : Nat) : State :=
  let k := ctxFunc s ctx
  let f := getFunc s k
  setFunc { s with cores := s.cores.map fun k => (k.1, { k.2 with
      slots := k.2.slots.map fun th => if hasThread th = true ∧ th.ctx = ctx then setPending th 3 else th }) }
    k { f with raised := vset f.raised 1 (vget f.raised 1 0 + 1) }

/-- A read of n bytes at a home that finds an uncorrectable error: its granules become poisoned, the keep records each, and the context
is told, once (R295). -/
def findErrors (s : State) (die ctx : Nat) (h : Home) (n : Nat) : State :=
  match h with
  | .sram a =>
    let l := granulesMet (getDie s die).latent a n
    if l.isEmpty then s
    else notifyCtx { (modDie s die fun d => { d with
        poison := l.foldl setIns d.poison
        latent := d.latent.filter fun p => !l.contains p }) with errors := s.errors ++ l.map .sram } ctx
  | .dome k off =>
    let l := granulesMet (getDome s k).latent off n
    if l.isEmpty then s
    else notifyCtx { (modDome s k fun d => { d with
        poison := l.foldl setIns d.poison
        latent := d.latent.filter fun p => !l.contains p }) with errors := s.errors ++ l.map (.dome k) } ctx
  | _ => s

/-- A write of n bytes for a context at a home: merging it into a granule finds what errors the granule has (R195, R295). -/
def homeWrite (s : State) (die ctx : Nat) (h : Home) (n v : Nat) : State := findErrors (homePut s die h n v) die ctx h n

/-! ## Table entries (R282) -/

def teValid (e : Word) : Bool := bitAt e 0
def teLeaf (e : Word) : Bool := bitAt e 1
def teOut (e : Word) : Nat := bitsAt e 12 36 * 4096

/-- Bytes that a leaf at a level maps. -/
def levelSize (l : Nat) : Nat := 2 ^ (12 + 9 * l)

/-- Index of an address at a level. -/
def levelIdx (l a : Nat) : Nat := a / levelSize l % 512

/-- Whether an entry read at a level is well formed (R282). -/
def teOk (hyper : Bool) (l : Nat) (e : Word) : Bool :=
  teValid e && bitsAt e 58 6 == 0 && bitsAt e 48 4 == 0 && bitsAt e 6 6 == 0 &&
  !(l == 3 && teLeaf e) && !(l == 0 && !teLeaf e) &&
  (if teLeaf e then
    teOut e % levelSize l == 0 && (hyper || bitsAt e 52 6 == 0) && !(hyper && bitAt e 5) && !(hyper && decide (2 ^ 46 ≤ teOut e))
  else bitsAt e 52 6 == 0 && bitsAt e 2 4 == 0)

/-! ## Walks (R281 to R285) -/

/-- A walk under way: the reads it may still make, the one whose beat was lost and reads as an error (R489), the entries that other
modules have answered, the non-leaf entries it has read, and the homes of all that it has read. -/
structure Walk where
  budget : Nat
  lost : Option Nat
  far : List ((Nat × Nat) × Nat)
  news : List WalkEntry
  reads : List Home
deriving DecidableEq, Repr

/-- Outcome of a stage: a leaf with its page, a translation-fault (of the hypervisor stage, with its GPA, or of the guest stage),
or a further read. -/
inductive WalkRes where
  | leaf (e : Word) (base size : Nat)
  | fault (hyper : Bool) (gpa : Nat)
  | need (h : Home)
deriving DecidableEq, Repr

def wcacheFind (d : Die) (ctx region : Nat) (hyper : Bool) (addr : Nat) : Option Word :=
  (d.wcache.find? fun e => e.ctx == ctx && (hyper || e.region == region) && e.hyper == hyper && e.addr == addr).map (·.val)

/-- A walk of n reads from the start. -/
def Walk.start (n : Nat) (far : List ((Nat × Nat) × Nat)) : Walk := ⟨n, none, far, [], []⟩

/-- The walk after a read of an entry at a home. -/
def Walk.took (w : Walk) (h : Home) : Walk := { w with budget := w.budget - 1, reads := w.reads ++ [h] }

/-- The entry at a home, as memory or another module's answer gives it, and whether it carries an uncorrectable error. -/
def entryAtHome (s : State) (w : Walk) (h : Home) : Word × Bool :=
  if w.lost = some w.reads.length then (0, true)
  else match h with
  | .far m c => (word (((w.far.find? fun e => e.1 == (m, c)).map (·.2)).getD (homeNat s 0 h 8)), false)
  | _ => (word (homeNat s 0 h 8), homePoison s 0 h 8)

/-- The hypervisor stage of a GPA from level l down, its table at a CPA. -/
def walkHyper (s : State) (d : Die) (ctx gpa : Nat) : Nat → Nat → Walk → WalkRes × Walk
  | 0, _, w => (.fault true gpa, w)
  | n + 1, table, w =>
    let addr := table + 8 * levelIdx n gpa
    match wcacheFind d ctx 0 true addr with
    | some e => walkHyper s d ctx gpa n (teOut e) w
    | none =>
      let h := homeOf s ctx s.modNo addr
      if h = .none then (.fault true gpa, w)
      else if w.budget = 0 then (.need h, w)
      else
        let (e, bad) := entryAtHome s w h
        let w := w.took h
        if bad = true ∨ teOk true n e = false then (.fault true gpa, w)
        else if teLeaf e then (.leaf e (gpa / levelSize n * levelSize n) (levelSize n), w)
        else walkHyper s d ctx gpa n (teOut e)
          { w with news := w.news ++ [⟨ctx, 0, true, addr, e, gpa / levelSize n * levelSize n, levelSize n, 0, 0⟩] }

/-- The hypervisor stage from HROOT. -/
def walkGpa (s : State) (d : Die) (ctx gpa : Nat) (w : Walk) : WalkRes × Walk :=
  walkHyper s d ctx gpa 4 (cBits s ctx 0x20 12 36 * 4096) w

/-- The module of a hypervisor-stage leaf and its output for a GPA. -/
def leafMod (e : Word) : Nat := bitsAt e 52 6
def leafOut (e : Word) (base a : Nat) : Nat := teOut e + (a - base)

/-- The guest stage of a VA from level l down, its table at a GPA. -/
def walkGuest (s : State) (d : Die) (ctx region va : Nat) : Nat → Nat → Walk → WalkRes × Walk
  | 0, _, w => (.fault false 0, w)
  | n + 1, table, w =>
    let addr := table + 8 * levelIdx n va
    match wcacheFind d ctx region false addr with
    | some e => walkGuest s d ctx region va n (teOut e) w
    | none =>
      match walkGpa s d ctx addr w with
      | (.leaf he hbase hsize, w) =>
        let h := homeOf s ctx (leafMod he) (leafOut he hbase addr)
        if h = .none then (.fault true addr, w)
        else if w.budget = 0 then (.need h, w)
        else
          let (e, bad) := entryAtHome s w h
          let w := w.took h
          if bad = true ∨ teOk false n e = false then (.fault false 0, w)
          else if teLeaf e then (.leaf e (va / levelSize n * levelSize n) (levelSize n), w)
          else walkGuest s d ctx region va n (teOut e)
            { w with news := w.news ++ [⟨ctx, region, false, addr, e, va / levelSize n * levelSize n, levelSize n, hbase, hsize⟩] }
      | r => r

/-- The outcome of a translation: a cache entry, a fault with its cause and tval, or a further read of a table. -/
inductive Trans where
  | ok (e : TlbEntry)
  | fault (cause : Nat) (tval : Word)
  | need (h : Home)
deriving DecidableEq, Repr

/-- GROOT of a region's block. -/
def groot (s : State) (ctx region : Nat) : Nat :=
  match mapFind (getCtx s ctx).regions region with
  | some b => blkBits b 0x20 12 36 * 4096
  | none => 0

/-- tval of a fault of either stage (R284). -/
def stageTval (hyper : Bool) (gpa va : Nat) : Word := if hyper then word (gpa + 2 ^ 63) else word va

/-- The cache entry of a GPA through a hypervisor-stage leaf, for a guest page (its base, size, GPA and permissions). -/
def mkTlb (ctx region : Nat) (hmode : Bool) (va gpa gbase gsize : Nat) (ge he : Word) (hbase hsize : Nat) : TlbEntry :=
  let size := if hmode then hsize else Nat.min gsize hsize
  let g := gpa / size * size
  { ctx := ctx, region := region, hyper := hmode, va := va / size * size, size := size, cpa := leafOut he hbase g,
    mod := leafMod he, gbase := gbase, gsize := gsize, hbase := hbase, hsize := hsize, gpa := g,
    r := bitAt ge 2, w := bitAt ge 3, x := bitAt ge 4, u := bitAt ge 5, hr := bitAt he 2, hw := bitAt he 3, hx := bitAt he 4 }

/-- A walk of a VA, both stages, or the hypervisor stage alone in H mode. -/
def walkVa (s : State) (d : Die) (ctx region mode va : Nat) (w : Walk) : Trans × Walk :=
  if mode = 3 then
    match walkGpa s d ctx va w with
    | (.leaf e base size, w) => (.ok (mkTlb ctx region true va va 0 0 (word (2 ^ 6 - 1)) e base size), w)
    | (.fault h g, w) => (.fault 5 (stageTval h g va), w)
    | (.need h, w) => (.need h, w)
  else
    match walkGuest s d ctx region va 4 (groot s ctx region) w with
    | (.leaf ge gbase gsize, w) =>
      let gpa := leafOut ge gbase va
      (match walkGpa s d ctx gpa w with
      | (.leaf he hbase hsize, w) => (.ok (mkTlb ctx region false va gpa gbase gsize ge he hbase hsize), w)
      | (.fault h g, w) => (.fault 5 (stageTval h g va), w)
      | (.need h, w) => (.need h, w))
    | (.fault h g, w) => (.fault 5 (stageTval h g va), w)
    | (.need h, w) => (.need h, w)

/-! ## The translation cache (R285) -/

def tlbFind (d : Die) (ctx region mode va : Nat) : Option TlbEntry :=
  d.tlb.find? fun e => e.ctx == ctx && e.region == region && e.hyper == (mode == 3) && e.va ≤ va && va < e.va + e.size

/-- Entries join a cache; the oldest leave it above its size. -/
def cacheAdd {α : Type} (l new : List α) (size : Nat) : List α := (l ++ new).drop ((l ++ new).length - size)

/-- A finished walk fills the caches; a miss counts for the context (R462 counter 4). -/
def fillCaches (d : Die) (e : TlbEntry) (w : Walk) : Die :=
  let hs := cacheAdd (d.wcache.filter (·.hyper)) (w.news.filter (·.hyper)) 1024
  let gs := cacheAdd (d.wcache.filter (!·.hyper)) (w.news.filter (!·.hyper)) 1024
  { d with tlb := cacheAdd d.tlb [e] Config.tlbEntries, wcache := hs ++ gs }

/-- Raw counter k of a context rises by n (R462). -/
def countRaw (s : State) (ctx k n : Nat) : State := modCtx s ctx fun c => { c with raw := vset c.raw k (vget c.raw k 0 + n) }

/-! ## Permissions (R283) -/

/-- What an access needs. -/
inductive Perm where
  | r | w | rw | rx
deriving DecidableEq, Repr

def permHas (p : Perm) (r w x : Bool) : Bool :=
  match p with
  | .r => r
  | .w => w
  | .rw => r && w
  | .rx => r && x

/-- The access-fault of an entry that lacks a permission (R283, R284). -/
def permFault (e : TlbEntry) (mode : Nat) (p : Perm) (va : Nat) : Option Word :=
  if e.hyper = false ∧ (permHas p e.r e.w e.x = false ∨ (mode = 0 ∧ e.u = false)) then some (word va)
  else if permHas p e.hr e.hw e.hx then none
  else some (stageTval true (e.gpa + (va - e.va)) va)

/-- The errors that the reads of a walk have found (R282, R295). -/
def walkErrors (s : State) (ctx : Nat) (w : Walk) : State := w.reads.foldl (fun s h => findErrors s 0 ctx h 8) s

/-- A VA checked and translated at once, for the keep, which is no requester of the agent's, and for landings: the module and CPA, or
the cause and tval (R281 to R284); the caches fill. -/
def translateNow (s : State) (die ctx region mode va : Nat) (p : Perm) : State × Except (Nat × Word) (Nat × Nat) :=
  if 2 ^ 48 ≤ va ∨ domeMask s ctx = [] then (s, .error (6, word va))
  else
    let (s, r) := (match tlbFind (getDie s die) ctx region mode va with
      | some e => (s, Trans.ok e)
      | none =>
        match walkVa s (getDie s die) ctx region mode va (Walk.start 64 []) with
        | (.ok e, w) => (modDie (walkErrors (countRaw s ctx 4 1) ctx w) die fun d => fillCaches d e w, .ok e)
        | (x, w) => (walkErrors (countRaw s ctx 4 1) ctx w, x))
    match r with
    | .ok e =>
      match permFault e mode p va with
      | some tval => (s, .error (6, tval))
      | none =>
        let cpa := e.cpa + (va - e.va)
        if homeOf s ctx e.mod cpa = .none then (s, .error (6, word va)) else (s, .ok (e.mod, cpa))
    | .fault cause tval => (s, .error (cause, tval))
    | .need _ => (s, .error (5, word va))

/-! ## Die SRAM (R276) -/

/-- The die-SRAM byte of a `.d` address for n bytes, or none. -/
def sramAddr (s : State) (ctx a n : Nat) : Option Nat :=
  if 2 ^ 25 ≤ a ∨ 65536 * cBits s ctx 0x30 16 10 < a + n then none else some (65536 * cBits s ctx 0x30 0 9 + a)

end Sys2Proof.Machine
end

