-- ==== Sys2Proof/Machine/Route.lean ====
section
/-! DEFINITION. Routers, links, routes and the choice of slots (spec/17_wheel_circuits_and_belfry.md R338 to R349, R365, R370;
spec/26 R480, R485). -/

namespace Sys2Proof.Machine

set_option Elab.async false

/-! ## Routers and ports (R340)

A core router has the number of its core, the router of lane j of a dome 10,240 + 8 · dome + j. Directions are 0 N, 1 E, 2 S, 3 W
and 4 L; an input port is 8 · router + direction, and so is the link of an output; the L input of a core counts as link 5. -/

def domeRouter (d lane : Nat) : Nat := 10240 + 8 * d + lane
def isDomeRouter (r : Nat) : Bool := 10240 ≤ r
def routerX (r : Nat) : Nat := if isDomeRouter r then domeX ((r - 10240) / 8) else dieX (r / 64)
def routerY (r : Nat) : Nat := if isDomeRouter r then dieY ((r - 10240) / 8) else dieY (r / 64)
def routerCx (r : Nat) : Nat := r % 8
def routerCy (r : Nat) : Nat := r / 8 % 8
def opposite (d : Nat) : Nat := (d + 2) % 4

/-- Slots from entering a router to leaving it (R343). -/
def routerDelay (r : Nat) : Nat := if isDomeRouter r then 2 else 1

/-- The panel site one step in a direction, where the panel has one. -/
def sitePast (x y d : Nat) : Option (Nat × Nat) :=
  match d with
  | 0 => if y = 0 then none else some (x, y - 1)
  | 1 => if x = 15 then none else some (x + 1, y)
  | 2 => if y = 19 then none else some (x, y + 1)
  | _ => if x = 0 then none else some (x - 1, y)

/-- The router that lane j of an edge of a site leads to, entered at the edge d (R340). -/
def edgeRouter (x y d lane : Nat) : Nat :=
  if isTower x y then
    64 * siteOf x y + (match d with
      | 0 => lane
      | 1 => 8 * lane + 7
      | 2 => 56 + lane
      | _ => 8 * lane)
  else domeRouter (siteOf x y) lane

/-- Where an output of a router leads: next router, its input direction, and the slots of the link (R340, R343). None for L and for
the links that leave the panel. -/
def nextRouter (r d : Nat) : Option (Nat × Nat × Nat) :=
  if d = 4 then none
  else if isDomeRouter r then
    (sitePast (routerX r) (routerY r) d).map fun p => (edgeRouter p.1 p.2 (opposite d) (r % 8), opposite d, Config.crossing)
  else
    let x := routerCx r
    let y := routerCy r
    let cross (lane : Nat) : Option (Nat × Nat × Nat) :=
      (sitePast (routerX r) (routerY r) d).map fun p => (edgeRouter p.1 p.2 (opposite d) lane, opposite d, Config.crossing)
    match d with
    | 0 => if y = 0 then cross x else some (r - 8, 2, 0)
    | 1 => if x = 7 then cross y else some (r + 1, 3, 0)
    | 2 => if y = 7 then cross x else some (r + 8, 0, 0)
    | _ => if x = 0 then cross y else some (r - 1, 1, 0)

/-! ## Routes (R344, R365) -/

/-- Where a route ends: a core, a dome's service port, or off the panel in a direction (R485). -/
inductive RouteEnd where
  | core (r : Nat)
  | dome (d : Nat)
  /-- The die memory agent of a tower, entered through an edge. -/
  | agent (die : Nat)
  | bastion (east : Bool)
deriving DecidableEq, Repr

/-- The panel site a route ends at; a bastion lies beyond column 0 or 15 of the row. -/
def endSite (y : Nat) : RouteEnd → Nat × Nat
  | .core r => (routerX r, routerY r)
  | .dome d => (domeX d, dieY d)
  | .agent die => (dieX die, dieY die)
  | .bastion east => (if east then 16 else 100, y)

/-- The output a word takes at a router: X crossings before Y crossings on a kept lane, along X before Y inside a die (R344). -/
def routeDir (r lane : Nat) (e : RouteEnd) : Nat :=
  let (xd, yd) := endSite (routerY r) e
  let x := routerX r
  let y := routerY r
  let toward (a b lo hi : Nat) : Nat := if a < b then hi else lo
  if xd = 100 then 3
  else if x ≠ xd then toward x xd 3 1
  else if isDomeRouter r then (if y = yd then 4 else toward y yd 0 2)
  else if y ≠ yd then (if routerCx r ≠ lane then toward (routerCx r) lane 3 1 else toward y yd 0 2)
  else match e with
    | .core t =>
      if routerCx r ≠ routerCx t then toward (routerCx r) (routerCx t) 3 1
      else if routerCy r ≠ routerCy t then toward (routerCy r) (routerCy t) 0 2 else 4
    | _ => 4

/-- The lane a route keeps from a router (R344). -/
def laneFor (r : Nat) (e : RouteEnd) : Nat :=
  if isDomeRouter r then r % 8
  else
    let (xd, _) := endSite (routerY r) e
    if routerX r ≠ xd then routerCy r else routerCx r

/-- One router of a route: number, input direction, slots after injection at which a word enters it, and the output it takes. -/
abbrev RouteHop := Nat × Nat × Nat × Nat

/-- The route from a router on, entered in a direction at an offset. -/
def routeGo (lane : Nat) (e : RouteEnd) : Nat → Nat → Nat → Nat → List RouteHop
  | 0, _, _, _ => []
  | n + 1, r, dir, off =>
    let d := routeDir r lane e
    (r, dir, off, d) :: match nextRouter r d with
      | some (r', dir', t) =>
        match e with
        | .agent die => if !isDomeRouter r' && r' / 64 == die then [] else routeGo lane e n r' dir' (off + routerDelay r + t)
        | _ => routeGo lane e n r' dir' (off + routerDelay r + t)
      | none => []

/-- Routers that a route can pass at most. -/
def routeFuel : Nat := 400

/-- The route of a circuit from a core. -/
def routeCore (src : Nat) (e : RouteEnd) : List RouteHop := routeGo (laneFor src e) e routeFuel src 4 0

/-- The edge by which a route leaves a site (R344, R365). -/
def edgeToward (x y xd yd : Nat) : Nat := if x < xd then 1 else if xd < x then 3 else if y < yd then 2 else 0

/-- The route of a request circuit on a lane: it leaves its agent's edge in the slot after injection (R365). -/
def routeMemReq (die dome lane : Nat) : List RouteHop :=
  let x := dieX die
  let y := dieY die
  let d := edgeToward x y (domeX dome) (dieY dome)
  match sitePast x y d with
  | some p => routeGo lane (.dome dome) routeFuel (edgeRouter p.1 p.2 (opposite d) lane) (opposite d) (1 + Config.crossing)
  | none => []

/-- The route of a reply circuit: from the dome's router to the agent's edge. -/
def routeMemRep (die dome lane : Nat) : List RouteHop := routeGo lane (.agent die) routeFuel (domeRouter dome lane) 4 0

/-! ## The terms of R348 -/

/-- Die crossings, on-die hops and dome traversals of a route. -/
def routeHx (l : List RouteHop) : Nat := (l.filter fun h => match nextRouter h.1 h.2.2.2 with
  | some (_, _, t) => decide (t ≠ 0)
  | none => false).length
def routeHd (l : List RouteHop) : Nat := (l.filter fun h => match nextRouter h.1 h.2.2.2 with
  | some (_, _, t) => decide (t = 0)
  | none => false).length
def routeHm (l : List RouteHop) : Nat := (l.filter fun h => isDomeRouter h.1).length

/-! ## Hops and links of a circuit (R342, R344) -/

/-- Merge a route of a phase into the hops of a circuit. -/
def mergeHop (l : List Hop) (p : Nat) (h : RouteHop) : List Hop :=
  let (r, dir, off, d) := h
  let set (v : Vector Nat 4) : Vector Nat 4 := vset v p (vget v p 0 ||| 2 ^ d)
  if l.any fun x => x.router == r && x.dir == dir && x.off == off then
    l.map fun x => if x.router = r ∧ x.dir = dir ∧ x.off = off then { x with outs := set x.outs } else x
  else l ++ [⟨r, dir, off, set (Vector.replicate 4 0)⟩]

def mergeRoute (l : List Hop) (p : Nat) (route : List RouteHop) : List Hop := route.foldl (fun l h => mergeHop l p h) l

/-- Every output that some phase of a hop takes. -/
def hopOuts (h : Hop) : List Nat := (List.range 5).filter fun d => (List.range 4).any fun p => (vget h.outs p 0).testBit d

/-- The links of a circuit with the slots after injection at which its words take them; the L input of its source first, an L output at
the slot of ejection (R343, R345). -/
def hopLinks (l : List Hop) : List (Nat × Nat) :=
  (match l.head? with
  | some h => if h.dir = 4 then [(8 * h.router + 5, h.off)] else []
  | none => []) ++
  l.flatMap fun h => (hopOuts h).map fun d => (8 * h.router + d, h.off + routerDelay h.router + if d = 4 then 1 else 0)

/-- Links and slots as the circuits hold them. -/
def linkSlots (w : Nat) (links : List (Nat × Nat)) (slots : List Nat) : List Nat :=
  links.flatMap fun l => slots.map fun i => 1024 * l.1 + (i + l.2) % w

/-- Greatest number of slots from injection to ejection. -/
def hopsLmax (l : List Hop) : Nat := l.foldl (fun m h => max m (h.off + routerDelay h.router + 1)) 0

/-! ## Choosing slots (R339, R345, R346, R370) -/

/-- The slots that circuits hold, and those that changes have freed and that stay held (R362). -/
def heldSlots (s : State) : List Nat :=
  s.circuits.flatMap fun c => (if circOpen c.2 s.wheel then c.2.held else []) ++
    (c.2.freed.filter fun f => decide (s.wheel < f.2)).map (·.1)

/-- Injection slots free on every link, lowest first; slot 0 of every link is the configuration circuit's. -/
def freeSlots (s : State) (links : List (Nat × Nat)) : List Nat :=
  let occ := heldSlots s
  (List.range s.W).filter fun i => links.all fun l =>
    (i + l.2) % s.W ≠ 0 && !occ.contains (1024 * l.1 + (i + l.2) % s.W)

/-- Slots of a link that a context's circuits own, or those of one region; memory circuits are not counted (R365). -/
def linkOwned (s : State) (ctx : Nat) (region : Option Nat) (link : Nat) : Nat :=
  ((s.circuits.filter fun c => c.2.ctx == ctx && c.2.mem.isNone && circOpen c.2 s.wheel && (match region with
    | some r => c.2.region == r
    | none => true)).map fun c => (c.2.held.filter fun h => h / 1024 == link).length).sum

/-- Whether n more slots on every link stay within the budgets of the context and of its region (R370, R411). -/
def withinBudget (s : State) (ctx region n : Nat) (links : List (Nat × Nat)) : Bool :=
  (links.map (·.1)).dedup.all fun l =>
    let k := (links.filter fun x => x.1 == l).length * n
    decide (linkOwned s ctx none l + k ≤ cBits s ctx 0x10 0 10) &&
    decide (linkOwned s ctx (some region) l + k ≤ effBits s ctx region 2 0x10 0 10)

/-- Distances from a start to chosen slots, each at most g from the one before, round to the start. -/
def gapChain (ds : List Nat) (w g : Nat) : Nat → Nat → Option (List Nat)
  | 0, _ => none
  | n + 1, cur =>
    if w ≤ cur + g then some []
    else match (ds.filter fun d => cur < d && d ≤ cur + g).getLast? with
      | some d => (gapChain ds w g n d).map (d :: ·)
      | none => none

def insertAll (l new : List Nat) : List Nat := new.foldl setIns l

/-- The greatest distance between successive slots, round the wheel. -/
def maxGapOf (slots : List Nat) (w : Nat) : Nat :=
  match slots with
  | [] => 0
  | a :: _ => (List.zipWith (fun x y => y - x) slots (slots.drop 1 ++ [a + w])).foldl max 0

/-- n slots out of free ones beside those kept, within MAXGAP where it is not 0; the lowest that will do. -/
def chooseSlots (kept free : List Nat) (n g w : Nat) : Option (List Nat) :=
  let all := insertAll kept free
  let fill (l : List Nat) : Option (List Nat) :=
    let more := (free.filter fun i => !l.contains i).take (n - l.length)
    let l := insertAll l more
    if l.length = n then some l else none
  if n < kept.length then none
  else if g = 0 then fill kept
  else
    all.findSome? fun a =>
      let ds := insertAll [] (all.map fun i => (i + w - a) % w)
      match gapChain ds w g (n + 1) 0 with
      | some l => fill (insertAll kept (a :: l.map fun d => (d + a) % w))
      | none => none

/-! ## Endpoints (R346) -/

/-- The core of an endpoint on this module. -/
def endpointCore (e : Nat) : Option Nat :=
  let y := e / 2 ^ 10 % 32
  let x := e / 2 ^ 6 % 16
  if y ≤ 19 ∧ isTower x y = true then some (coreKey (siteOf x y) (8 * (e / 2 ^ 3 % 8) + e % 8)) else none

def endpointMod (e : Nat) : Nat := e / 2 ^ 15 % 64

/-- Whether an endpoint is a core of a context that is not absent from its die's core map (R360). -/
def endpointOk (s : State) (ctx e : Nat) : Bool :=
  match endpointCore e with
  | some k => endpointMod e == s.modNo && ctxTower s ctx (k / 64) && !(getDie s (k / 64)).absent.contains (k % 64) && !(getCore s k).quarantined
  | none => false

/-- The lowest-numbered port that is up and leads to a module (R485). -/
def portTo (s : State) (m : Nat) : Option Nat :=
  (s.ports.find? fun p => p.2.up && p.2.peermod == m).map (·.1)

end Sys2Proof.Machine
end

