-- ==== Sys2Proof/Machine/Agent.lean ====
section
/-! DEFINITION. The die memory agent: its requests, the memory circuits, two-backed regions, acceptance and walks (spec/13 R276 to R292;
spec/17 R365 to R367). What becomes of an accepted request is in Perform.lean. -/

namespace Sys2Proof.Machine

set_option Elab.async false

/-! ## Requests of a die -/

def findReq (d : Die) (id : Nat) : Option Req := d.reqs.find? fun r => r.id == id
def setReq (s : State) (die : Nat) (r : Req) : State :=
  modDie s die fun d => { d with reqs := d.reqs.map fun x => if x.id = r.id then r else x }
def dropReq (s : State) (die id : Nat) : State := modDie s die fun d => { d with reqs := d.reqs.filter fun x => x.id != id }

def isWaiting (r : Req) : Bool :=
  match r.stage with
  | .waiting | .walking _ _ _ _ => true
  | _ => false

/-- The oldest request of its thread, and of what the thread has started, that has not been accepted (R278). -/
def reqFirst (d : Die) (r : Req) : Bool :=
  match d.reqs.find? fun x => x.tid == r.tid && isWaiting x with
  | some x => x.id == r.id
  | none => false

/-- Whether a request is of a transfer, which goes on through a switch (R275). -/
def ofEngine (r : Req) : Bool :=
  match r.who with
  | .engine _ _ => true
  | _ => false

/-- The cluster whose engine port a request takes an entry of. -/
def reqPort (r : Req) : Option Nat :=
  match r.who with
  | .thread => none
  | .engine cl _ => some cl
  | .stream _ => some (tidCluster r.tid)

/-- The entries of a cluster's engine port that are held: an accepted read until its reply has been returned, an accepted write until
it has been performed (R278). -/
def portHeld (d : Die) (cl : Nat) : Nat :=
  (d.reqs.filter fun r => reqPort r == some cl && isAccepted r && !(isWrite r.kind && isPerformed r)).length

/-- Whether nothing new enters for the threads of a context's region from a switch's wheel count (R421). -/
def ctxFrozen (s : State) (ctx region : Nat) : Bool :=
  s.switching.any fun w => w.ctx == ctx && match w.regions with
    | some (o, _) => o == region
    | none => true

/-! ## Discards and lost beats (17 R341, R342; 26 R489) -/

/-- The contexts that hold a tower. -/
def dieCtxs (s : State) (die : Nat) : List Nat := (s.ctxs.filter fun c => c.2.installed && blkSet c.2.blk 0x50 die).map (·.1)

/-- A word is discarded at a router and counted there. -/
def discardAt (s : State) (r : Nat) : State :=
  let s := { s with discards := mapSet s.discards r (mapGet 0 s.discards r + 1) }
  if isDomeRouter r then s else (dieCtxs s (r / 64)).foldl (fun s c => countRaw s c 2 1) s

/-- Whether a beat that leaves a router in a slot is lost on a die edge: its CRC fails (R341). -/
def edgeLoses (r d leave : Nat) : Bool :=
  match nextRouter r d with
  | some (_, _, t) => decide (t ≠ 0) && Config.crcFails leave (8 * r + d)
  | none => false

/-! ## Memory circuits (17 R365, R369, R487) -/

/-- The first wheel count from t whose slot index is in S (R348). -/
def nextOwned (slots : List Nat) (w t : Nat) : Option Nat :=
  slots.foldl (fun m i =>
    let x := t + (i + w - t % w) % w
    match m with
    | none => some x
    | some y => some (Nat.min x y)) none

/-- Slots from injection to writing at the destination (R348). -/
def circLatency (c : Circuit) : Nat := c.hd + 9 * c.hx + c.hm + 2 + c.fsum

/-- The links over an edge of a tower or dome site, both ways. -/
def edgeLinks (x y d : Nat) : List Nat :=
  (List.range 8).flatMap fun lane => (8 * edgeRouter x y d lane + d) :: match sitePast x y d with
    | some p => [8 * edgeRouter p.1 p.2 (opposite d) lane + opposite d]
    | none => []

/-- Whether a link is suspended: by the retrain of its edge, or with its port (R478, R483, R489). -/
def linkStopped (s : State) (link : Nat) : Bool :=
  if 2 ^ 21 ≤ link then s.offsSince.isSome || (mapGet FabPort.reset s.ports (link - 2 ^ 21)).suspended
  else s.dies.any fun t => (List.range 4).any fun e =>
    (vget t.2.edges e Edge.reset).begun && (edgeLinks (dieX t.1) (dieY t.1) e).contains link

/-- A circuit that crosses a suspended edge or port: its source releases nothing. -/
def circStopped (s : State) (c : Circuit) : Bool := c.held.any fun h => linkStopped s (h / 1024)

/-- When the next beat of a circuit that is available at t0 is injected (R348, R362). -/
def injectTime (s : State) (c : Circuit) (t0 : Nat) : Option Nat :=
  if circStopped s c then none
  else nextOwned c.slots s.W (max (max t0 c.opened) (match c.lastInj with
    | some t => t + 1
    | none => 0))

/-- The open memory circuit between a tower and a dome, or another module with 65,536 added; replies have source 1. -/
def memCirc (s : State) (ctx die dome reply : Nat) : Option Nat :=
  (s.circuits.find? fun c => c.2.mem == some (die, dome) && c.2.ctx == ctx && c.2.src == reply && circOpen c.2 s.wheel).map (·.1)

/-- The router at which a beat of a circuit injected at t is lost, if one of the edges on its way loses it; a request leaves its agent's
edge first. -/
def lostAt (c : Circuit) (t : Nat) : Option Nat :=
  let first := match c.mem, c.hops.head? with
    | some (die, _), some h => if h.off = 0 then none
        else if Config.crcFails (t + 1) (8 * edgeRouter (dieX die) (dieY die) (opposite h.dir) (h.router % 8) + opposite h.dir) then some h.router else none
    | _, _ => none
  match first with
  | some r => some r
  | none => c.hops.findSome? fun h => (hopOuts h).findSome? fun d =>
      if edgeLoses h.router d (t + h.off + routerDelay h.router) then (nextRouter h.router d).map (·.1) else none

/-- How a beat fares on a memory circuit. -/
inductive Sent where
  | kept
  | lost
  | arrives (at_ : Nat)
deriving DecidableEq, Repr

/-- A beat available at t0 takes its slot on a memory circuit, unless its source releases nothing; when it is written at the far end. -/
def memSend (s : State) (ctx die dome reply t0 : Nat) : State × Sent :=
  match memCirc s ctx die dome reply with
  | none => (s, .kept)
  | some k =>
    let c := getCircuit s k
    match injectTime s c t0 with
    | none => (s, .kept)
    | some t =>
      let s := setCircuit s k { c with lastInj := some t }
      match lostAt c t with
      | some r => (discardAt s r, .lost)
      | none => (s, .arrives (t + circLatency c))

/-- The dome, or the module with 65,536 added, that holds a home. -/
def homeDome : Home → Option Nat
  | .dome d _ => some d
  | .far m _ => some (65536 + m)
  | _ => none

/-! ## Two-backed regions (R261, R291, R413) -/

/-- The home of doubleword o of a context's publish table, where the hypervisor stage maps it (R413). -/
def publishHome (s : State) (ctx o : Nat) : Option Home :=
  let a := cBits s ctx 0x38 0 48 + o
  match (walkGpa s Die.reset ctx a (Walk.start 64 [])).1 with
  | .leaf e b _ => some (homeOf s ctx (leafMod e) (leafOut e b a))
  | _ => none

/-- A doubleword of the table; one that cannot be read names no backing. -/
def publishDW (s : State) (ctx o : Nat) : Nat :=
  match publishHome s ctx o with
  | some h => if homePoison s 0 h 8 then 0 else homeNat s 0 h 8
  | none => 0

/-- The errors that a reading of the table finds (R295). -/
def publishErrors (s : State) (ctx : Nat) : State :=
  (List.range 48).foldl (fun s i => match publishHome s ctx (32 * (i / 3) + 8 * (i % 3)) with
    | some h => findErrors s 0 ctx h 8
    | none => s) s

/-- BASE of each entry that is used. -/
def publishBases (s : State) (ctx : Nat) : List Nat :=
  ((List.range 16).map fun i => publishDW s ctx (32 * i)).filter (· != 0)

/-- LEN and SHADOW of the entry of a BASE (R413). -/
def publishEntry (s : State) (ctx base : Nat) : Option (Nat × Nat) :=
  if base = 0 then none
  else (List.range 16).findSome? fun i =>
    if publishDW s ctx (32 * i) = base then some (publishDW s ctx (32 * i + 8), publishDW s ctx (32 * i + 16)) else none

/-- The CPA pages of a backing of n pages from a VA of region 0, with R283's permissions. -/
def backingPages (s : State) (die ctx mode : Nat) : Nat → Nat → Option (List (Nat × Nat))
  | 0, _ => some []
  | n + 1, va =>
    match (translateNow s die ctx 0 mode va .rw).2, backingPages s die ctx mode n (va + 4096) with
    | .ok p, some l => some (p :: l)
    | _, _ => none

/-- Both backings of a two-backed region, page by page. -/
def flipPages (s : State) (die ctx mode base : Nat) : Option (List ((Nat × Nat) × (Nat × Nat))) :=
  match publishEntry s ctx base with
  | none => none
  | some (len, shadow) =>
    match backingPages s die ctx mode ((len + 4095) / 4096) base, backingPages s die ctx mode ((len + 4095) / 4096) shadow with
    | some a, some b => some (List.zip a b)
    | _, _ => none

/-- Where an engine write to a place of global memory goes: in a two-backed region, its shadow backing as it stands (R261, R291). -/
def shadowCpa (s : State) (die ctx mode mod cpa : Nat) : Nat × Nat :=
  let page := (mod, cpa / 4096 * 4096)
  match (publishBases s ctx).findSome? fun b =>
    ((flipPages s die ctx mode b).getD []).findSome? fun p => if p.1 = page then some p.2 else none with
  | some q => flipCpa s ctx s.wheel q.1 (q.2 + cpa % 4096)
  | none => flipCpa s ctx s.wheel mod cpa

/-- The place of a byte that a request reaches now: its own backing or, for an engine write, the shadow. -/
def reqPlace (s : State) (die : Nat) (r : Req) (mod cpa : Nat) : Nat × Nat :=
  if isWrite r.kind ∧ ofEngine r = true then shadowCpa s die r.ctx r.mode mod cpa else flipCpa s r.ctx s.wheel mod cpa

/-! ## Acceptance: checks (R276, R283, R287, R289; order R110) -/

/-- What a request needs of a leaf (R283). -/
def reqPerm : ReqKind → Perm
  | .load => .r
  | .store | .add _ _ => .w
  | .fetch => .rx
  | _ => .rw

/-- The place of a byte in the list of sealed ranges. -/
def sealBase (mod cpa : Nat) : Nat := mod * 2 ^ 46 + cpa

/-- Whether n bytes from a (of a die's SRAM, or of global memory) meet a range whose seal is in force (R289, R290). -/
def sealedAt (s : State) (ctx : Nat) (die : Option Nat) (a n wheel : Nat) : Bool :=
  s.seals.any fun z => z.ctx == ctx && z.die == die && a < z.base + z.len && z.base < a + n && z.from_ ≤ wheel &&
    (match z.until_ with
    | some e => decide (wheel < e)
    | none => true)

/-- A check of a request: its accesses with their homes, the VA that needs a walk, or a fault. -/
inductive AccRes where
  | ok (l : List Acc)
  | miss (va : Nat)
  | fault (cause : Nat) (tval : Word)
deriving DecidableEq, Repr

/-- One access at acceptance: the mapping is fixed then (R312), but for an engine write, which goes to the backing that is the shadow when
it is performed (R291). -/
def checkAcc (s : State) (die : Nat) (r : Req) (x : Acc) : AccRes :=
  if x.done then .ok [x]
  else if r.space = .d then
    match sramAddr s r.ctx x.va x.len with
    | none => .fault 6 (word x.va)
    | some a =>
      if isWrite r.kind ∧ sealedAt s r.ctx (some die) a x.len s.wheel = true then .fault 7 (word x.va)
      else .ok [{ x with home := .sram a }]
  else if 2 ^ 48 ≤ x.va ∨ domeMask s r.ctx = [] then .fault 6 (word x.va)
  else
    match tlbFind (getDie s die) r.ctx r.region r.mode x.va with
    | none => .miss x.va
    | some e =>
      match permFault e r.mode (reqPerm r.kind) x.va with
      | some tval => .fault 6 tval
      | none =>
        let cpa := e.cpa + (x.va - e.va)
        let (m, c) := reqPlace s die r e.mod cpa
        let h := homeOf s r.ctx m c
        if h = .none then .fault 6 (word x.va)
        else if isWrite r.kind ∧ sealedAt s r.ctx none (sealBase m c) x.len s.wheel = true then .fault 7 (word x.va)
        else if isWrite r.kind ∧ ofEngine r = true then .ok [{ x with home := h, mod := e.mod, cpa := cpa }]
        else .ok [{ x with home := h, mod := m, cpa := c }]

/-- Every access in ascending order; the first failure is taken (R110). -/
def checkAccs (s : State) (die : Nat) (r : Req) : List Acc → AccRes
  | [] => .ok []
  | x :: t =>
    match checkAcc s die r x with
    | .ok l =>
      (match checkAccs s die r t with
      | .ok l' => .ok (l ++ l')
      | e => e)
    | e => e

/-- The range [a, a + n) of `seal` and `unseal` page by page: contiguous from a place, or a miss, or a fault with tval a. -/
def rangePages (s : State) (die : Nat) (r : Req) (a : Nat) : Nat → Nat → Option Nat → AccRes × Option Nat
  | 0, _, base => (.ok [], base)
  | n + 1, va, base =>
    if 2 ^ 48 ≤ va ∨ domeMask s r.ctx = [] then (.fault 6 (word a), base)
    else
      match tlbFind (getDie s die) r.ctx r.region r.mode va with
      | none => (.miss va, base)
      | some e =>
        match permFault e r.mode .rw va with
        | some _ => (.fault 6 (word a), base)
        | none =>
          let (m, c) := flipCpa s r.ctx s.wheel e.mod (e.cpa + (va - e.va))
          let here := sealBase m c
          if homeOf s r.ctx m c = .none then (.fault 6 (word a), base)
          else match base with
            | none => rangePages s die r a n (va + 4096) (some here)
            | some b => if here = b + (va - a) then rangePages s die r a n (va + 4096) base else (.fault 6 (word a), base)

/-- The place of the range of a `seal` or `unseal`, or what stops it. -/
def sealRange (s : State) (die : Nat) (r : Req) (x : Acc) : AccRes × Option Nat :=
  if r.space = .d then
    match sramAddr s r.ctx x.va x.len with
    | some a => (.ok [], some a)
    | none => (.fault 6 (word x.va), none)
  else rangePages s die r x.va (x.len / 4096) x.va none

/-- The effective count of a seal change accepted at w (R290). -/
def sealCount (s : State) : Nat := (s.wheel / s.W + 8) * s.W

/-! ## Acceptance (R278, R290) -/

/-- Whether an access passes its checks. -/
def AccRes.passes : AccRes → Bool
  | .ok _ => true
  | _ => false

/-- The element of a request of an engine or stream that an access belongs to. -/
def accElem (x : Acc) : Nat := x.pos / 2

/-- A request of an engine or stream covers the elements before the one that faults; with none before it, it is answered at once
(R222, R264). -/
def doomReq (s : State) (die : Nat) (r : Req) (cause : Nat) (tval : Word) : State :=
  let k := ((r.accs.find? fun x => !(checkAcc s die r x).passes).map accElem).getD 0
  let l := r.accs.filter fun x => decide (accElem x < k)
  setReq s die { r with accs := l, doom := some (k, cause, tval), stage := if l.isEmpty then .performed s.wheel else .waiting }

/-- A fault found before acceptance: the trap of the waiting bundle (R193), or the end of what a transfer or stream asks for. -/
def faultReq (s : State) (die : Nat) (r : Req) (cause : Nat) (tval : Word) : State :=
  if r.who = .thread then failWait (dropReq s die r.id) r.tid cause tval false else doomReq s die r cause tval

/-- The request takes its place in the die order, and a thread goes on; in `.d` the next slot may serve it (R280). -/
def admitReq (s : State) (die : Nat) (r : Req) (l : List Acc) : State :=
  let d := getDie s die
  let s := setReq s die { r with accs := l, stage := .accepted, seq := d.seqNext, at_ := s.wheel, due := s.wheel + 1 }
  let s := modDie s die fun d => { d with seqNext := d.seqNext + 1 }
  if r.who = .thread then giveKey s r.tid r.id (some []) else s

/-- Whether a request may be accepted now: it is its thread's oldest, its walk has ended, and the table or its engine port has room
(R278). -/
def mayAccept (s : State) (die : Nat) (r : Req) : Bool :=
  let d := getDie s die
  r.stage == .waiting && reqFirst d r && (ofEngine r || !ctxFrozen s r.ctx r.region) && match reqPort r with
    | some cl => decide (portHeld d cl < Config.enginePort)
    | none => !(isWrite r.kind && decide (Config.pstDepth ≤ (pendingStores d).length))

/-- What the agent finds for a request: acceptance, a walk for a VA, or a fault. -/
def examReq (s : State) (die : Nat) (r : Req) : AccRes :=
  match r.kind, r.accs with
  | .seal, x :: _ =>
    (match sealRange s die r x with
    | (.ok _, some b) =>
      let dd := if r.space = .d then some die else none
      let mine := s.seals.filter fun z => z.ctx == r.ctx
      if (mine.any fun z => z.die == dd && b < z.base + z.len && z.base < b + x.len) || decide (64 ≤ mine.length) then
        .fault 6 (word x.va)
      else .ok r.accs
    | (e, _) => e)
  | .unseal, x :: _ =>
    (match sealRange s die r x with
    | (.ok _, some b) =>
      let dd := if r.space = .d then some die else none
      if s.seals.any fun z => z.ctx == r.ctx && z.die == dd && z.base == b && z.len == x.len && z.until_.isNone then .ok r.accs
      else .fault 6 (word x.va)
    | (e, _) => e)
  | .publish, x :: _ => if (flipPages s die r.ctx r.mode x.va).isSome then .ok r.accs else .fault 6 (word x.va)
  | _, l => checkAccs s die r l

/-- What acceptance of a seal or an unseal records (R290). -/
def noteSeal (s : State) (die : Nat) (r : Req) : State :=
  let dd := if r.space = .d then some die else none
  match r.kind, r.accs with
  | .seal, x :: _ =>
    { s with seals := s.seals ++ [⟨r.ctx, dd, ((sealRange s die r x).2).getD 0, x.len, sealCount s, none, some (die, r.id), none⟩] }
  | .unseal, x :: _ =>
    let b := ((sealRange s die r x).2).getD 0
    { s with seals := s.seals.map fun z =>
        if z.ctx == r.ctx && z.die == dd && z.base == b && z.len == x.len then
          { z with until_ := some (max (sealCount s) z.from_), unsealer := some (die, r.id) }
        else z }
  | _, _ => s

/-- REQUEST_ACCEPT: the request is accepted, faults, or turns to a walk. -/
def requestAccept (s : State) (die id : Nat) : State :=
  match findReq (getDie s die) id with
  | none => s
  | some r =>
    if mayAccept s die r then
      let s := if r.kind = .publish then publishErrors s r.ctx else s
      match examReq s die r, r.brk with
      | .ok _, some a => faultReq s die r 15 a
      | .ok l, none => admitReq (noteSeal s die r) die r l
      | .fault cause tval, _ => faultReq s die r cause tval
      | .miss _, _ => s
    else s

/-! ## Walks (R285) -/

/-- The VA that a waiting request misses. -/
def missOf (s : State) (die : Nat) (r : Req) : Option Nat :=
  match examReq s die r with
  | .miss va => some va
  | _ => none

/-- Walkers at work (R278). -/
def walkersBusy (d : Die) : Nat := (d.reqs.filter fun r => match r.stage with
  | .walking _ _ _ _ => true
  | _ => false).length

/-- Whether a walk of the same page is under way, which the request then shares. -/
def walkShared (d : Die) (r : Req) (va : Nat) : Bool := d.reqs.any fun x => match x.stage with
  | .walking v _ _ _ => x.ctx == r.ctx && x.region == r.region && (x.mode == 3) == (r.mode == 3) && v / 4096 == va / 4096
  | _ => false

/-- A beat joins its context's FIFO at a dome in order of arrival (R367, R368). -/
def fifoJoin (q : DomeReq) : List DomeReq → List DomeReq
  | [] => [q]
  | x :: l => if q.at_ < x.at_ then q :: x :: l else x :: fifoJoin q l

/-- A beat of a tower, available now, goes over its memory circuit to a dome or another module (R285, R365). -/
def sendBeat (s : State) (ctx die k id : Nat) (acc : Option Nat) : State × Sent :=
  match memSend s ctx die k 0 s.wheel with
  | (s, .arrives a) =>
    (if k < 65536 then
      modDome s k fun d => { d with fifo := mapSet d.fifo ctx (fifoJoin ⟨die, id, acc, a, false⟩ (mapGet [] d.fifo ctx)) }
    else s, .arrives a)
  | x => x

/-- A walker sends its next read to the entry's home; a walk that needs none is at its end (R285). -/
def walkSend (s : State) (die id : Nat) : State :=
  let d := getDie s die
  match findReq d id with
  | none => s
  | some r =>
    match r.stage with
    | .walking va n .toSend far =>
      (match (walkVa s d r.ctx r.region r.mode va (Walk.start n far)).1 with
      | .need h =>
        (match homeDome h with
        | some k =>
          (match sendBeat s r.ctx die k id none with
          | (s, .arrives _) => setReq s die { r with stage := .walking va n .sent far }
          | (s, .lost) => setReq s die { r with stage := .walking va n (.lost s.wheel) far }
          | (s, .kept) => s)
        | none => s)
      | _ => setReq s die { r with stage := .walking va n (.reply s.wheel) far })
    | _ => s

/-- TRANSLATION_WALK: a walker takes the request's page. -/
def translationWalk (s : State) (die id : Nat) : State :=
  let d := getDie s die
  match findReq d id with
  | none => s
  | some r =>
    match missOf s die r with
    | some va =>
      if mayAccept s die r && decide (walkersBusy d < Config.walkers) && !walkShared d r va then
        walkSend (setReq (countRaw s r.ctx 4 1) die { r with stage := .walking va 0 .toSend [] }) die id
      else s
    | none => s

/-- Whether a read of a walk has been answered by a wheel count, or its beat has been lost. -/
def WalkRead.endsBy (w : WalkRead) (wheel : Nat) : Bool :=
  match w with
  | .reply t | .lost t => decide (t ≤ wheel)
  | _ => false

def WalkRead.isLost : WalkRead → Bool
  | .lost _ => true
  | _ => false

/-- WALK_ENTRY_REPLY: one read of the walk replies; the walk goes on, fills the caches, or faults. A read that a suspended circuit kept
back is sent. -/
def walkEntryReply (s : State) (die id : Nat) : State :=
  let d := getDie s die
  match findReq d id with
  | none => s
  | some r =>
    match r.stage with
    | .walking _ _ .toSend _ => walkSend s die id
    | .walking va n now far =>
      if now.endsBy s.wheel then
        match walkVa s d r.ctx r.region r.mode va { Walk.start (n + 1) far with lost := if now.isLost then some n else none } with
        | (.ok e, w) => setReq (modDie (walkErrors s r.ctx w) die fun d => fillCaches d e w) die { r with stage := .waiting }
        | (.fault cause tval, w) => faultReq (walkErrors s r.ctx w) die { r with stage := .waiting } cause tval
        | (.need _, w) => walkSend (setReq (walkErrors s r.ctx w) die { r with stage := .walking va (n + 1) .toSend far }) die id
      else s
    | _ => s

end Sys2Proof.Machine
end

