-- ==== Sys2Proof/Machine/Perform.lean ====
section
/-! DEFINITION. The work of a die memory agent and the domes on accepted requests: homes, order, the pending-store table, service,
replies, seals, publishes, phases and replicas (spec/13 R277 to R280, R288 to R296; spec/14 R301 to R312; spec/17 R365 to R369). -/

namespace Sys2Proof.Machine

set_option Elab.async false

/-! ## Performing an access at its home (R195, R287, R288, R291, R295) -/

/-- The home of an access when it is performed: its own, or for an engine write in global memory the shadow backing of that moment
(R291). -/
def performHome (s : State) (die : Nat) (r : Req) (x : Acc) : Home :=
  if r.space = .g ∧ isWrite r.kind ∧ ofEngine r = true then
    let (m, c) := reqPlace s die r x.mod x.cpa
    match homeOf s r.ctx m c with
    | .none => x.home
    | h => h
  else x.home

/-- The value of a source element of a TYPE with its scale. -/
def srcFV (ty : Ty) (e : Nat × Nat) : FV := if tyM ty then scaled (valueOf ty e.1) e.2 else valueOf ty e.1

/-- The new value of a destination element of a `cpyr` (R257). -/
def reducePat (op : XOpKind) (ty : Ty) (old : Nat) (e : Nat × Nat) : Nat :=
  match op with
  | .addF32 => roundTo .f32 .rne false 0 (fAdd .rne (valueOf .f32 old) (srcFV ty e))
  | _ => wrapInt 32 (intValue .i32 old + intValue ty e.1)

/-- The value that a write leaves at its bytes. -/
def writtenNat (kind : ReqKind) (x : Acc) (old : Nat) : Nat :=
  match kind with
  | .amo op => amoNew op (8 * x.len) old x.data
  | .cas e => casNew (8 * x.len) old e.toNat x.data
  | .add op ty => reducePat op ((tyOf ty).getD .f32) old (x.data % 2 ^ 64, x.data / 2 ^ 64)
  | _ => old - old / 2 ^ x.bit % 2 ^ x.w * 2 ^ x.bit + x.data % 2 ^ x.w * 2 ^ x.bit

/-- Perform one access: the access done, with the bits it read and whether they are poisoned. An atomic on a poisoned location leaves it
(R288), and so does an addition (R264). -/
def performAcc (s : State) (die : Nat) (r : Req) (x : Acc) : State × Acc :=
  if x.done then (s, x)
  else
    let h := performHome s die r x
    let old := homeNat s die h x.len
    let bad := homePoison s die h x.len
    let put (s : State) : State := sink (homeWrite s die r.ctx h x.len (writtenNat r.kind x old)) r.ctx
    match r.kind with
    | .store => (put s, { x with done := true })
    | .amo _ | .cas _ | .add _ _ =>
      if bad then (findErrors s die r.ctx h x.len, { x with data := 0, done := true, bad := true })
      else (put s, { x with data := old, done := true })
    | _ => (findErrors s die r.ctx h x.len, { x with data := old / 2 ^ x.bit % 2 ^ x.w, done := true, bad := bad })

/-- Perform the i-th access of a request. -/
def performAt (s : State) (die : Nat) (r : Req) (i : Nat) : State × Req :=
  match r.accs[i]? with
  | none => (s, r)
  | some x =>
    let (s, x) := performAcc s die r x
    (s, { r with accs := r.accs.set i x, poisoned := r.poisoned || x.bad })

/-- A request all of whose accesses are done is performed: a thread's store leaves, another replies at `due`. -/
def settleReq (s : State) (die : Nat) (r : Req) (due : Nat) : State :=
  if r.accs.all (·.done) then
    if r.kind = .store ∧ r.who = .thread then dropReq s die r.id else setReq s die { r with stage := .performed due }
  else setReq s die r

/-- Perform every access of a request at once. -/
def performAll (s : State) (die : Nat) (r : Req) (due : Nat) : State :=
  let (s, r) := (List.range r.accs.length).foldl (fun p i => performAt p.1 die p.2 i) (s, r)
  settleReq s die r due

/-! ## Order of writes (R278, R306) -/

/-- A release at a scope wider than `di` is performed after every write before it in die order (R306). -/
def releaseReady (d : Die) (r : Req) : Bool :=
  !(isWrite r.kind && isRelease r.ord && decide (3 < scopeCode r.sco)) || (pendingWrites d).all fun x => decide (r.seq ≤ x.seq)

/-- Whether two homes' bytes meet. -/
def homesMeet (a : Home) (n : Nat) (b : Home) (m : Nat) : Bool :=
  match a, b with
  | .sram x, .sram y => x < y + m && y < x + n
  | .dome d x, .dome e y => d == e && x < y + m && y < x + n
  | .far c x, .far e y => c == e && x < y + m && y < x + n
  | _, _ => false

/-- Whether every earlier load of the thread has been performed: a load is compared with the table, and a write performed, only then
(R279, R301). A transfer and a stream ask for one beat at a time. -/
def loadTurn (d : Die) (r : Req) : Bool :=
  r.who != .thread || d.reqs.all fun x =>
    !(x.tid == r.tid && x.who == .thread && isRead x.kind && isAccepted x && !isPerformed x && decide (x.seq < r.seq))

/-- Whether a write comes too early for a load: one that a later access in `.l` or `.c` has bounded is performed
before every write to its bytes from that place in die order on (R301). -/
def boundedLoad (d : Die) (w : Req) : Bool := d.reqs.any fun r => isAccepted r && !isPerformed r && (match r.cap with
    | some n => decide (n ≤ w.seq)
    | none => false) &&
  r.accs.any fun x => !x.done && w.accs.any fun y => !y.done && homesMeet x.home x.len y.home y.len

/-- Whether a write may be performed now. -/
def writeReady (d : Die) (r : Req) : Bool := releaseReady d r && loadTurn d r && !boundedLoad d r

/-- Accepted requests in die order. -/
def inOrder (l : List Req) : List Req :=
  let rec ins (r : Req) : List Req → List Req
    | [] => [r]
    | x :: t => if r.seq < x.seq then r :: x :: t else x :: ins r t
  l.foldl (fun l r => ins r l) []

/-- Whether a load of the requester of x, at x or before it, waits for a write of the table that is not older than r: x then takes its
place in the injection order when it is compared (R279, R365; log 110). -/
def heldOnYounger (d : Die) (x r : Req) : Bool :=
  !isWrite x.kind && d.reqs.any fun y => y.tid == x.tid && y.who == x.who && decide (y.seq ≤ x.seq) && match y.stage with
    | .held ids => ids.any fun i => (findReq d i).any fun w => decide (r.seq ≤ w.seq)
    | _ => false

/-- Whether an earlier request of the tower has still to be sent to dome k: a tower's requests to one dome are injected in die order
(R365). -/
def sendsBefore (d : Die) (r : Req) (k : Nat) : Bool := d.reqs.any fun x =>
  isAccepted x && !isPerformed x && decide (x.seq < r.seq) && (x.accs.any fun y => !y.done && !y.queued && homeDome y.home == some k) &&
    !heldOnYounger d x r

/-- The beat of an access has been lost: a read returns Poisoned, and a lost write is told to the writer's context (R489). -/
def loseAcc (s : State) (r : Req) (i : Nat) : State × Req :=
  match r.accs[i]? with
  | none => (s, r)
  | some x =>
    (if isWrite r.kind then notifyCtx s r.ctx else s,
      { r with accs := r.accs.set i { x with data := 0, queued := true, done := true, bad := isRead r.kind }, poisoned := r.poisoned || isRead r.kind })

/-- The beats of a request's accesses go to their domes, each available now (R365). -/
def sendAccs (s : State) (die : Nat) (r : Req) : State × Req :=
  (List.range r.accs.length).foldl (fun (p : State × Req) i =>
    let (s, r) := p
    match r.accs[i]? with
    | none => (s, r)
    | some x =>
      if x.done || x.queued then (s, r)
      else match homeDome x.home with
        | none => (s, { r with accs := r.accs.set i { x with queued := true } })
        | some k =>
          if sendsBefore (getDie s die) r k then (s, r)
          else match sendBeat s r.ctx die k r.id (some i) with
            | (s, .arrives _) => (s, { r with accs := r.accs.set i { x with queued := true } })
            | (s, .lost) => loseAcc s r i
            | (s, .kept) => (s, r)) (s, r)

/-- Whether a message of a tower waits for no write any longer. -/
def beatFreed (s : State) (die : Nat) (b : InjBeat) : Bool :=
  match b.hold with
  | some (d, q) => d == die && (pendingWrites (getDie s die)).all fun r => decide (q < r.seq)
  | none => false

/-- A message whose release has been performed is available to its router from now on (R309). -/
def freeBeat (s : State) (die : Nat) (b : InjBeat) : InjBeat :=
  if beatFreed s die b then { b with hold := none, t0 := max b.t0 s.wheel } else b

/-- The messages of a tower after writes have been performed. -/
def freeBeats (s : State) (die : Nat) : State :=
  if (s.circuits.any fun c => c.2.inj.any (beatFreed s die)) = true then
    { s with circuits := s.circuits.map fun c => (c.1, { c.2 with inj := c.2.inj.map (freeBeat s die) }) }
  else s

/-- Every accepted write in `.g` that nothing holds back goes to its home; for each home the stores of the die go in die order (R278,
R306). -/
def pumpStores (s : State) (die : Nat) : State :=
  freeBeats ((inOrder ((pendingWrites (getDie s die)).filter fun r => r.space == .g)).foldl (fun s r =>
    if writeReady (getDie s die) r then
      let (s, r) := sendAccs s die r
      settleReq s die r s.wheel
    else s) s) die

/-! ## The pending-store table (R279) -/

/-- The place in die order of the first access of a load's thread after it that others of the die have seen: a pending write, or an access
in `.l` or `.c` (R301). -/
def loadBound (d : Die) (r : Req) : Option Nat :=
  (((pendingStores d).filter fun w => w.tid == r.tid && r.who == .thread && decide (r.seq < w.seq)).map (·.seq) ++ r.cap.toList).min?

/-- The entries of the table that hold bytes of a load: what follows the thread's next access that others have seen is not among them
(R301). -/
def holders (d : Die) (r : Req) : List Req :=
  inOrder ((pendingStores d).filter fun w => (match loadBound d r with
      | some n => decide (w.seq < n)
      | none => true) &&
    r.accs.any fun x => !x.done && w.accs.any fun y => !y.done && homesMeet x.home x.len y.home y.len)

/-- Byte k of an access from the youngest entry that holds it, there from its element of highest number (R202); entries are in die
order. -/
def heldByte (l : List Req) (x : Acc) (k : Nat) : Option Nat :=
  (l.reverse.findSome? fun w => w.accs.reverse.findSome? fun y =>
    let off (a b : Nat) : Option Nat := if b ≤ a ∧ a < b + y.len then some (y.data / 2 ^ (8 * (a - b)) % 256) else none
    if y.done then none
    else match x.home, y.home with
      | .sram a, .sram b => off (a + k) b
      | .dome d a, .dome e b => if d = e then off (a + k) b else none
      | .far d a, .far e b => if d = e then off (a + k) b else none
      | _, _ => none)

/-- The bits of an access that the table holds whole. -/
def heldAcc (l : List Req) (x : Acc) : Option Acc :=
  if x.done then some x
  else
    match (List.range x.len).foldr (fun k acc => match heldByte l x k, acc with
      | some b, some v => some (b + 256 * v)
      | _, _ => none) (some 0) with
    | some v => some { x with data := v / 2 ^ x.bit % 2 ^ x.w, done := true }
    | none => none

/-- An entry that gives no bytes: of an `amo` or `cas`, or one that holds part of a byte. -/
def givesNone (w : Req) : Bool := (match w.kind with
  | .store => false
  | _ => true) || w.accs.any fun y => decide (y.w % 8 ≠ 0)

/-- The replica of the granule of a byte in a die's pool (R277, R290). -/
def replicaOf (d : Die) (ctx mod cpa : Nat) : Option (List Byte) :=
  (d.replicas.find? fun x => x.1 == mod && x.2.1 == cpa / 64 * 64 && x.2.2.1 == ctx).map (·.2.2.2)

/-- A load whose every access lies in replicas is served by them. -/
def replicaAcc (s : State) (d : Die) (r : Req) (x : Acc) : Option Acc :=
  if x.done then some x
  else if r.space = .g ∧ r.kind = .load ∧ sealedAt s r.ctx none (sealBase x.mod x.cpa) x.len s.wheel = true then
    (replicaOf d r.ctx x.mod x.cpa).map fun l =>
      { x with data := bytesNat ((l.drop (x.cpa % 64)).take x.len) / 2 ^ x.bit % 2 ^ x.w, done := true }
  else none

/-- All of a list, or none. -/
def allSome {α : Type} (l : List (Option α)) : Option (List α) :=
  l.foldr (fun x acc => match x, acc with
    | some a, some t => some (a :: t)
    | _, _ => none) (some [])

/-- The writes to a range, accepted before E on any die, that have not been performed (R290). -/
def rangeWrites (s : State) (z : Seal) : Bool :=
  s.dies.any fun d => (pendingWrites d.2).any fun r => r.ctx == z.ctx && decide (r.at_ < z.from_) &&
    r.accs.any fun x => !x.done && (match z.die, x.home with
      | some k, .sram a => k == d.1 && a < z.base + z.len && z.base < a + x.len
      | none, .dome _ _ | none, .far _ _ =>
        let (m, c) := if ofEngine r then reqPlace s d.1 r x.mod x.cpa else (x.mod, x.cpa)
        sealBase m c < z.base + z.len && z.base < sealBase m c + x.len
      | _, _ => false)

/-- Whether a seal covers an access of a request of a die. -/
def sealCovers (z : Seal) (die : Nat) (r : Req) (x : Acc) : Bool :=
  z.ctx == r.ctx && match z.die, x.home with
    | some k, .sram a => k == die && a < z.base + z.len && z.base < a + x.len
    | none, .dome _ _ | none, .far _ _ => sealBase x.mod x.cpa < z.base + z.len && z.base < sealBase x.mod x.cpa + x.len
    | _, _ => false

/-- Whether a load of a sealed range, accepted at or after E, waits for a write accepted before E: its bytes are then final (R311). -/
def awaitsSeal (s : State) (die : Nat) (r : Req) : Bool :=
  s.seals.any fun z => decide (z.from_ ≤ r.at_) && (r.accs.any fun x => !x.done && sealCovers z die r x) && rangeWrites s z

/-- The replicas that would serve a load and that fail are discarded; the load reads its home (R295). -/
def dropFailed (s : State) (die : Nat) (r : Req) : State :=
  let d := getDie s die
  let fails (x : Nat × Nat × Nat × List Byte) : Bool := x.2.2.1 == r.ctx && (r.accs.any fun y =>
    !y.done && x.1 == y.mod && x.2.1 == y.cpa / 64 * 64) && Config.replicaFails s.wheel die x.1 x.2.1
  if r.space = .g ∧ d.replicas.any fails = true then modDie s die fun d => { d with replicas := d.replicas.filter fun x => !fails x } else s

/-- A load reads its home: it joins the die SRAM's service, goes to its domes, or is served by a replica. -/
def readHome (s : State) (die : Nat) (r : Req) : State :=
  let s := dropFailed s die r
  match allSome (r.accs.map (replicaAcc s (getDie s die) r)) with
  | some l => settleReq s die { r with accs := l } (s.wheel + 16)
  | none =>
    let (s, r) := sendAccs s die r
    let s := settleReq s die { r with stage := .accepted } s.wheel
    match r.accs.find? fun x => !x.done && r.space == .g && sealedAt s r.ctx none (sealBase x.mod x.cpa) x.len s.wheel with
    | some x => pushEvent s .replicaFill { EvArg.none with die := die, ctx := r.ctx, unit := x.mod, n := x.cpa / 64 * 64 }
    | none => s

/-- LOAD_TABLE_COMPARE: a load takes its bytes from the table, waits for entries, or reads its home (R279); accesses that a suspended
circuit kept back follow the others. -/
def loadTableCompare (s : State) (die id : Nat) : State :=
  let d := getDie s die
  match findReq d id with
  | none => s
  | some r =>
    if !isRead r.kind || isWrite r.kind then s
    else match r.stage with
      | .accepted =>
        if r.accs.any fun x => x.queued then
          let (s, r) := sendAccs s die r
          settleReq s die r s.wheel
        else if loadTurn d r && !awaitsSeal s die r then
          let l := holders d r
          if l.isEmpty then readHome s die r
          else if l.any givesNone then setReq s die { r with stage := .held (l.map (·.id)) }
          else match allSome (r.accs.map (heldAcc l)) with
            | some accs => settleReq s die { r with accs := accs } s.wheel
            | none => setReq s die { r with stage := .held (l.map (·.id)) }
        else s
      | .held ids => if (pendingStores d).all fun w => !ids.contains w.id then readHome s die r else s
      | _ => s

/-! ## Service (R280, R367, R368) -/

/-- The accepted `.d` reads and writes that have not been performed. -/
def sramWaiting (d : Die) : List Req :=
  inOrder (d.reqs.filter fun r => r.space == .d && isAccepted r && !isPerformed r && (isWrite r.kind || isRead r.kind))

/-- The `.d` requests that the die SRAM may serve now, in die order; a write held back holds back later writes. -/
def sramReady (d : Die) : List Req :=
  ((sramWaiting d).foldl
    (fun (p : List Req × Bool) r =>
      if isWrite r.kind then
        if p.2 || !writeReady d r then (p.1, true) else (p.1 ++ [r], false)
      else if r.accs.all fun x => x.queued || x.done then (p.1 ++ [r], p.2) else p) ([], false)).1

/-- The position that serves a request, 8 in each slot: the first after those used, not before the request's slot (R280). -/
def sramPos (d : Die) (r : Req) : Nat := max (8 * r.due) (d.sramUsed + 1)

/-- DIE_SRAM_SERVICE: the requests whose positions have come are served in die order; a reply is written 16 slots after. One that
waits may be served from the next slot on (R280). -/
def dieSramService (s : State) (die : Nat) : State :=
  let s := (sramReady (getDie s die)).foldl (fun s r =>
    let p := sramPos (getDie s die) r
    if p / 8 ≤ s.wheel then performAll (modDie s die fun d => { d with sramUsed := p }) die r (p / 8 + Config.sramReply) else s) s
  let ready := (sramReady (getDie s die)).map (·.id)
  ((sramWaiting (getDie s die)).filter fun r => !ready.contains r.id).foldl (fun s r => setReq s die { r with due := s.wheel + 1 }) s

/-- The first owned position of a context at a dome from a position on, as 16 · slot + position (R366, R367). -/
def nextPosition (s : State) (dome ctx from_ : Nat) : Option Nat :=
  let n := 16 * s.W
  (getDome s dome).table.foldl (fun m p =>
    if p.2 = ctx then
      let x := from_ + (p.1 + n - from_ % n) % n
      match m with
      | none => some x
      | some y => some (Nat.min x y)
    else m) none

/-- The position that serves a request of a context that arrived in a slot, the positions up to one being used (R367). -/
def servePosition (s : State) (dome ctx used at_ : Nat) : Option Nat := nextPosition s dome ctx (max (16 * (at_ + 1)) (used + 1))

/-- The head of a context's FIFO at a dome and the position that serves it (R367). -/
def domeNext (s : State) (dome ctx : Nat) : Option (DomeReq × Nat) :=
  let d := getDome s dome
  match mapGet [] d.fifo ctx with
  | [] => none
  | q :: _ => (servePosition s dome ctx (mapGet 0 d.used ctx) q.at_).map fun p => (q, p)

/-- How many requests of a FIFO have had their positions by now (R366, R367). -/
def servedBy (s : State) (dome ctx : Nat) : Nat → List DomeReq → Nat
  | _, [] => 0
  | used, q :: l =>
    match servePosition s dome ctx used q.at_ with
    | some p => if p / 16 ≤ s.wheel then servedBy s dome ctx p l + 1 else 0
    | none => 0

/-- DOME_SERVICE: the head of a context's FIFO takes its position (R367). -/
def domeService (s : State) (dome ctx : Nat) : State :=
  match domeNext s dome ctx with
  | none => s
  | some (q, p) =>
    if p / 16 ≤ s.wheel then
      let w := q.acc.isSome && match findReq (getDie s q.die) q.id with
        | some r => isWrite r.kind
        | none => false
      modDome (countRaw s ctx 1 1) dome fun d =>
        { d with
          fifo := mapSet d.fifo ctx ((mapGet [] d.fifo ctx).drop 1)
          used := mapSet d.used ctx p
          serving := d.serving ++ [(p / 16 + (if w then Config.tWr else Config.tRd), q)] }
    else s

/-- The access of a request in a dome's service is performed. -/
def applyServed (s : State) (q : DomeReq) : State :=
  match q.acc, findReq (getDie s q.die) q.id with
  | some a, some r =>
    let (s, r) := performAt s q.die r a
    setReq s q.die r
  | _, _ => s

/-- The context of a request in a dome's service. -/
def servedCtx (s : State) (q : DomeReq) : Nat := ((findReq (getDie s q.die) q.id).map (·.ctx)).getD 0

/-- Requests of a context in service before the i-th whose access has not been performed: they are performed first, in order of arrival
(R368). -/
def applyEarlier (s : State) (dome i : Nat) (q : DomeReq) : State :=
  let mine (x : DomeReq) : Bool := !x.applied && servedCtx s x == servedCtx s q
  let s := (((getDome s dome).serving.take i).filter fun x => mine x.2).foldl (fun s x => applyServed s x.2) s
  modDome s dome fun d => { d with serving := d.serving.mapIdx fun j x => if j < i ∧ mine x.2 = true then (x.1, { x.2 with applied := true }) else x }

/-- Whether a dome still holds an access of a request. -/
def atDomes (s : State) (die id : Nat) : Bool :=
  let mine (q : DomeReq) : Bool := q.die == die && q.id == id
  s.domes.any fun d => (d.2.serving.any fun x => mine x.2) || d.2.fifo.any fun f => f.2.any mine

/-- The reply of an access, or of a walker's read, takes its circuit; a store has none. -/
def domeReply (s : State) (dome due : Nat) (q : DomeReq) (r : Req) : State × Sent :=
  if (q.acc.isSome && r.kind == .store) || (memCirc s r.ctx q.die dome 1).isNone then (s, .arrives due) else memSend s r.ctx q.die dome 1 due

/-- DOME_REQUEST_COMPLETE: the i-th service at a dome ends; the access is performed, after those of its context that arrived before it,
and a reply takes its circuit, or waits while the circuit is suspended
(R367 to R369). -/
def domeRequestComplete (s : State) (dome i : Nat) : State :=
  match (getDome s dome).serving[i]? with
  | none => s
  | some (due, q) =>
    if due ≤ s.wheel then
      let s := applyEarlier s dome i q
      let s := if q.applied then s else applyServed s q
      let leave (s : State) : State := modDome s dome fun d => { d with serving := d.serving.eraseIdx i }
      match findReq (getDie s q.die) q.id with
      | none => leave s
      | some r =>
        let (s, back) := domeReply s dome due q r
        match q.acc, r.stage, back with
        | _, _, .kept => modDome s dome fun d => { d with serving := d.serving.set i (due, { q with applied := true }) }
        | none, .walking va n _ far, .arrives t => setReq (leave s) q.die { r with stage := .walking va n (.reply t) far }
        | none, .walking va n _ far, .lost => setReq (leave s) q.die { r with stage := .walking va n (.lost due) far }
        | none, _, _ => leave s
        | some a, _, _ =>
          let s := leave s
          let r := { r with due := max r.due (match back with
            | .arrives t => t
            | _ => due) }
          let r := if back = .lost then { r with accs := r.accs.modify a fun x => { x with bad := true }, poisoned := true } else r
          if atDomes s q.die q.id then setReq s q.die r else settleReq (setReq s q.die r) q.die r r.due
    else s

/-! ## Replies (R194, R195) -/

/-- The value of a request's accesses and the bytes they span. -/
def reqBytes (r : Req) : List Byte :=
  natBytes ((r.accs.foldl (fun n x => max n (x.pos + x.w)) 0 + 7) / 8) (accsValue r.accs)

/-- A request joins those of its context in order of arrival at the belfry (R361). -/
def belJoinList (b : BelReq) : List BelReq → List BelReq
  | [] => [b]
  | x :: l => if b.at_ < x.at_ then b :: x :: l else x :: belJoinList b l

/-- Whether the bundle that made a request has still to leave its register Pending, at its step 6 (R35, R193). -/
def leavesPending (th : Thread) (d : Dest) : Bool := th.inflight.any fun f =>
  match d with
  | .sreg n _ => f.eff6.contains (.sPend n)
  | .vreg n => f.eff6.contains (.vPend n)
  | _ => false

/-- The reply of a performed request reaches its thread (R194, R353); the block of a `cmreq` leaves for the belfry, where it joins the
requests of its context in order of arrival (R361). -/
def memoryReply (s : State) (die id : Nat) : State :=
  match findReq (getDie s die) id with
  | none => s
  | some r =>
    match r.stage with
    | .performed due =>
      if coreSees s due ∧ leavesPending (getThread s r.tid) r.dest = false then
        let s := dropReq s die id
        let bad := if r.poisoned then some r.pc else none
        let th := getThread s r.tid
        match r.dest with
        | .none => s
        | .sreg n sx =>
          if getFeS th n = .pending then
            modThread s r.tid fun th => replyS th n (extendLoad (reqBytes r).length sx (accsValue r.accs)) bad
          else s
        | .vreg n =>
          if getFeV th n = .pending then modThread s r.tid fun th => replyV th n (BitVec.ofNat 512 (accsValue r.accs)) bad else s
        | .bundle key => giveKey s r.tid key (if r.poisoned then none else some (reqBytes r))
        | .belfry key =>
          if r.poisoned then giveKey s r.tid key none
          else
            let b : BelReq := ⟨r.tid, key, r.ctx, r.region, r.mode, (r.accs.head?.map (·.va)).getD 0, reqBytes r,
              max s.wheel (r.at_ + (dieX die + 1) * s.W), none⟩
            { s with belfry := mapSet s.belfry r.ctx (belJoinList b (mapGet [] s.belfry r.ctx)) }
      else s
    | _ => s

/-! ## Seals and publishes taking effect (R290, R291) -/

/-- SEAL_EFFECT: E has passed and the range's earlier stores are performed; the thread goes on (R290). -/
def sealEffect (s : State) (die id : Nat) : State :=
  match s.seals.find? fun z => z.sealer == some (die, id) with
  | none => s
  | some z =>
    if z.from_ ≤ s.wheel && !rangeWrites s z then
      let s := { s with seals := s.seals.map fun y => if y.sealer = some (die, id) then { y with sealer := none } else y }
      match findReq (getDie s die) id with
      | some r => (match r.dest with
        | .bundle k => giveKey (dropReq s die id) r.tid k (some [])
        | _ => dropReq s die id)
      | none => s
    else s

/-- UNSEAL_EFFECT: at E the range is writable, its replicas go, and the register is filled with E (R290). -/
def unsealEffect (s : State) (die id : Nat) : State :=
  match s.seals.find? fun z => z.unsealer == some (die, id) with
  | none => s
  | some z =>
    let e := z.until_.getD 0
    if e ≤ s.wheel then
      let s := { s with
        seals := s.seals.filter fun y => y.unsealer != some (die, id)
        dies := s.dies.map fun d => (d.1, { d.2 with replicas := d.2.replicas.filter fun x =>
          !(z.die.isNone && x.2.2.1 == z.ctx && z.base ≤ sealBase x.1 x.2.1 && sealBase x.1 x.2.1 < z.base + z.len) }) }
      match findReq (getDie s die) id with
      | some r => setReq s die { r with accs := [wholeAcc 0 8 0 e].map fun x => { x with done := true }, stage := .performed s.wheel }
      | none => s
    else s

/-- The dome that is a context's publish point (R291). -/
def publishPoint (s : State) (ctx : Nat) : Option Nat := (domeMask s ctx).head?

/-- PUBLISH_SERIALISE: the request arrives at the region's publish point, once the thread's earlier writes are performed, and E is
assigned (R291, R312). -/
def publishSerialise (s : State) (die id : Nat) : State :=
  let d := getDie s die
  match findReq d id with
  | none => s
  | some r =>
    match r.kind, r.stage, r.accs with
    | .publish, .accepted, x :: _ =>
      if (pendingWrites d).any fun w => decide (w.seq < r.seq) then s
      else
        match flipPages s die r.ctx r.mode x.va with
        | none => s
        | some pages =>
          let prev := ((getCtx s r.ctx).flips.find? fun f => f.base == x.va).map fun f => f.e + s.W
          let e := max ((s.wheel / s.W + 8) * s.W) (prev.getD 0)
          let s := modCtx s r.ctx fun c => { c with flips := ⟨x.va, e, pages⟩ :: c.flips }
          setReq s die { r with stage := .performed e }
    | _, _, _ => s

/-- PUBLISH_EFFECT: from E the backings are exchanged; the thread goes on (R291). -/
def publishEffect (s : State) (die id : Nat) : State :=
  match findReq (getDie s die) id with
  | none => s
  | some r =>
    match r.kind, r.stage, r.dest with
    | .publish, .performed e, .bundle k => if e ≤ s.wheel then giveKey (dropReq s die id) r.tid k (some []) else s
    | _, _, _ => s

/-! ## Phases (R293) -/

/-- Threads that wait on a published count see its advance by source 7 (R112). -/
def notePhase (s : State) (ctx die : Nat) : State :=
  { s with cores := s.cores.map fun k => (k.1, { k.2 with slots := k.2.slots.map fun th =>
      match th.park with
      | some p => (match p.wake with
        | .phase d _ => if d = die ∧ th.ctx = ctx then setPending th 7 else th
        | _ => th)
      | none => th }) }

/-- PHASE_PUBLISH: a die fixes its count and every die of the context holds it (R293). -/
def phasePublish (s : State) (die ctx : Nat) : State :=
  let k := phaseCount s die ctx
  if k = mapGet 0 (getDie s die).pd ctx then s
  else
    let s := modDie s die fun d => { d with pd := mapSet d.pd ctx k }
    let s := (ctxTowers s ctx).foldl (fun s t =>
      if t = die then s else modDie s t fun d => { d with held := mapSet d.held (256 * die + ctx) k }) s
    notePhase s ctx die

/-! ## The replica pool (R277, R290) -/

/-- Granules that a die's pool can hold: those of the blocks no context is granted. -/
def poolGranules (s : State) (die : Nat) : Nat :=
  1024 * (512 - ((s.ctxs.filter fun c => c.2.installed && blkSet c.2.blk 0x50 die).map fun c => blkBits c.2.blk 0x30 16 10).sum)

/-- REPLICA_FILL: the pool takes a copy of a granule of sealed global data, once the writes before the seal have been performed (R290,
R311). -/
def replicaFill (s : State) (die ctx mod cpa : Nat) : State :=
  let d := getDie s die
  let h := homeOf s ctx mod cpa
  if sealedAt s ctx none (sealBase mod cpa) 64 s.wheel && (replicaOf d ctx mod cpa).isNone && !homePoison s die h 64 &&
    !(s.seals.any fun z => z.ctx == ctx && z.die.isNone && sealBase mod cpa < z.base + z.len && z.base < sealBase mod cpa + 64 && rangeWrites s z) &&
    decide (d.replicas.length < poolGranules s die) && (homeDome h).isSome && decide (mod = s.modNo) then
    modDie s die fun d => { d with replicas := d.replicas ++ [(mod, cpa, ctx, natBytes 64 (homeNat s die h 64))] }
  else s

/-! ## Memory as the engines, the keep and the network see it -/

/-- Bytes of global memory at a VA, read at once: aligned pieces within pages; a fault, or none where poisoned. -/
def readVa (s : State) (die ctx region mode va n : Nat) (p : Perm) : State × Except (Nat × Word) (Option Nat) :=
  match translateNow s die ctx region mode va p with
  | (s, .error e) => (s, .error e)
  | (s, .ok (m, c)) =>
    let (m, c) := flipCpa s ctx s.wheel m c
    let h := homeOf s ctx m c
    (findErrors s die ctx h n, .ok (if homePoison s die h n then none else some (homeNat s die h n)))

/-- n bytes of global memory at a VA in pieces of 64 bytes; none where a read faults or is poisoned. -/
def readBytes (s : State) (die ctx region mode va : Nat) : Nat → State × Option (List Byte)
  | 0 => (s, some [])
  | n + 1 =>
    match readVa s die ctx region mode va 64 .r with
    | (s, .ok (some v)) =>
      (match readBytes s die ctx region mode (va + 64) n with
      | (s, some l) => (s, some (natBytes 64 v ++ l))
      | (s, none) => (s, none))
    | (s, _) => (s, none)

/-- Write n bytes of global memory at a VA, within one page: the state, or a fault. -/
def writeVa (s : State) (die ctx region mode va n v : Nat) : State × Except (Nat × Word) Unit :=
  match translateNow s die ctx region mode va .w with
  | (s, .error e) => (s, .error e)
  | (s, .ok (m, c)) =>
    let (m, c) := flipCpa s ctx s.wheel m c
    if sealedAt s ctx none (sealBase m c) n s.wheel then (s, .error (7, word va))
    else (sink (homeWrite s die ctx (homeOf s ctx m c) n v) ctx, .ok ())

/-! ## Errors in an agent's own state (R296) -/

/-- The granules of stores that are lost become poisoned at their homes. -/
def poisonHome (s : State) (die : Nat) (h : Home) : State :=
  match h with
  | .sram a => modDie s die fun d => { d with poison := setIns d.poison (a / 64 * 64) }
  | .dome k off => modDome s k fun d => { d with poison := setIns d.poison (off / 64 * 64) }
  | _ => s

/-- The stores of a die's table are lost, and each affected context is told (R296). -/
def loseStores (s : State) (die : Nat) : State :=
  let l := pendingStores (getDie s die)
  let s := l.foldl (fun s r => r.accs.foldl (fun s x => if x.done then s else poisonHome s die x.home) s) s
  let s := (l.map (·.ctx)).dedup.foldl notifyCtx s
  freeBeats (modDie s die fun d => { d with reqs := d.reqs.filter fun r => !(isPending r && r.who == .thread) }) die

end Sys2Proof.Machine
end

