-- ==== Sys2Proof/Machine/AgentEvents.lean ====
section
/-! DEFINITION. The events of the die memory agents and the domes (spec/13, spec/14, spec/17 R365 to R369). What an event acts on
stands in State.arg (log 3): `die` the tower, `i` a request's identifier or a place in a list, `ctx` a context, `unit` a dome or a
module, `n` an address. An event whose condition does not hold has no effect (log 16). -/

namespace Sys2Proof.Machine

set_option Elab.async false

/-- REQUEST_ACCEPT of request i of a die (R276, R278, R283, R289). -/
def execRequestAccept (s : State) : Out := .next (pumpStores (requestAccept s s.arg.die s.arg.i) s.arg.die)

/-- TRANSLATION_WALK for request i of a die (R278, R285). -/
def execTranslationWalk (s : State) : Out := .next (translationWalk s s.arg.die s.arg.i)

/-- WALK_ENTRY_REPLY for request i of a die (R285). -/
def execWalkEntryReply (s : State) : Out := .next (walkEntryReply s s.arg.die s.arg.i)

/-- DIE_SRAM_SERVICE of a die (R280). -/
def execDieSramService (s : State) : Out := .next (pumpStores (dieSramService s s.arg.die) s.arg.die)

/-- LOAD_TABLE_COMPARE of load i of a die (R279). -/
def execLoadTableCompare (s : State) : Out := .next (pumpStores (loadTableCompare s s.arg.die s.arg.i) s.arg.die)

/-- DOME_SERVICE of a context at dome `unit` (R367). -/
def execDomeService (s : State) : Out := .next (domeService s s.arg.unit s.arg.ctx)

/-- The tower whose request is the i-th service at a dome. -/
def servedDie (s : State) (dome i : Nat) : Nat := ((getDome s dome).serving[i]?.map fun x => x.2.die).getD 0

/-- DOME_REQUEST_COMPLETE of the i-th service at dome `unit` (R367 to R369). -/
def execDomeRequestComplete (s : State) : Out :=
  .next (pumpStores (domeRequestComplete s s.arg.unit s.arg.i) (servedDie s s.arg.unit s.arg.i))

/-- PHASE_PUBLISH of a context on a die (R293). -/
def execPhasePublish (s : State) : Out := .next (phasePublish s s.arg.die s.arg.ctx)

/-- SEAL_EFFECT of the `seal` that is request i of a die (R290). -/
def execSealEffect (s : State) : Out := .next (sealEffect s s.arg.die s.arg.i)

/-- UNSEAL_EFFECT of the `unseal` that is request i of a die (R290). -/
def execUnsealEffect (s : State) : Out := .next (unsealEffect s s.arg.die s.arg.i)

/-- PUBLISH_SERIALISE of the `publish` that is request i of a die (R291). -/
def execPublishSerialise (s : State) : Out := .next (publishSerialise s s.arg.die s.arg.i)

/-- PUBLISH_EFFECT of the `publish` that is request i of a die (R291). -/
def execPublishEffect (s : State) : Out := .next (publishEffect s s.arg.die s.arg.i)

/-- REPLICA_FILL of a die's pool with the granule at an address of module `unit` (R277, R290). -/
def execReplicaFill (s : State) : Out := .next (replicaFill s s.arg.die s.arg.ctx s.arg.unit s.arg.n)

end Sys2Proof.Machine
end

