-- ==== Sys2Proof/Machine/Ports.lean ====
section
/-! DEFINITION. Fills, port and window bindings, streams and markers at issue (spec/10 R211 to R223; handles spec/17 R347). -/

namespace Sys2Proof.Machine

set_option Elab.async false

/-! ## Handles (17 R346, R347) -/

/-- The circuit of a context that a handle names and that starts at a core, or that ends at it (R214). -/
def circFrom (s : State) (t : Tid) (ctx : Nat) (h : Word) : Option Nat :=
  match openHandle s ctx h with
  | some n => if (getCircuit s n).src = endpoint s t.die t.core then some n else none
  | none => none
def circTo (s : State) (t : Tid) (ctx : Nat) (h : Word) : Option Nat :=
  match openHandle s ctx h with
  | some n => if (getCircuit s n).dsts.contains (endpoint s t.die t.core) then some n else none
  | none => none

/-! ## Fills and remp (10 R211, R212) -/

/-- The source of field x of format SG. -/
def srcX (x : XOp) : Ev Vec :=
  match x with
  | .sc o => do
    let v ← srcS o
    pure (v.setWidth 512)
  | .vec o => srcV o

/-- A fill beat: KIND 2, target register in [29:24], K in [30] (R351). -/
def fillBeat (v : Vec) (vec : Bool) (tgt : Nat) : Beat :=
  ⟨v, BitVec.ofNat 88 (2 + tgt * 2 ^ 24 + if vec then 2 ^ 30 else 0)⟩

def isVecX : XOp → Bool
  | .vec _ => true
  | .sc _ => false

def execRfill (g : Guard) (x : XOp) (port : BitVec 2) (tgt : BitVec 6) (s : State) : Out :=
  issueS g (locOutq port) (do
    examPort port.toNat (32 + port.toNat)
    let v ← srcX x
    evEff (.push port.toNat (fillBeat v (isVecX x) tgt.toNat))) s

/-- The register that field x names, as a location, and as a kind and number. -/
def locX (x : XOp) : List (Loc × Nat) :=
  match x with
  | .sc o => locS o
  | .vec o => locV o

def execRemp (g : Guard) (x : XOp) (s : State) : Out :=
  issueS g (locX x) (match x with
    | .sc (.s r) => do
      examS (.s r)
      evEff (.sEmpty r.toNat)
    | .vec (.v r) => do
      let _ ← examV (.v r) true
      evEff (.vEmpty r.toNat)
    | _ => pure ()) s

/-! ## Binding ports (10 R214, R216) -/

/-- Whether another receive port of the core is bound to a circuit. -/
def rxBound (c : Core) (n : Nat) : Bool := c.slots.any fun th => th.rx.any fun r => r.circ == some n

/-- The ring descriptor's layout (R214). -/
def ringOk (d : Word) : Bool :=
  bitsAt d 34 30 == 0 && bitsAt d 19 1 == 0 && bitsAt d 20 14 ≤ 8192 && bitsAt d 0 6 == 0 &&
  bitsAt d 0 19 + 64 * bitsAt d 20 14 ≤ 0x80000

/-- bind: imm [2] tells the send form, imm [1:0] the port (R214). -/
def execBind (g : Guard) (ra rb : SOp) (sel : BitVec 3) (s : State) : Out :=
  issueS g [] (do
    let h ← srcS ra
    let n := sel.toNat % 4
    if bitAt sel 2 then
      let c ← get
      match circFrom c.s c.t c.th.ctx h with
      | some k => do
        evNeed (getTx c.th n).isNone 6 h
        evEff (.bindTx n k)
      | none => evTrap 6 h
    else
      let d ← srcS rb
      let c ← get
      match circTo c.s c.t c.th.ctx h with
      | some k => do
        evNeed ((getRx c.th n).circ.isNone && !rxBound c.core k) 6 h
        evNeed (ringOk d) 6 d
        evEff (.bindRx n k (bitsAt d 0 19) (bitsAt d 20 14))
      | none => evTrap 6 h) s

/-- unbind: a send port waits until its queue is empty (R216). -/
def execUnbind (g : Guard) (sel : BitVec 3) (s : State) : Out :=
  issueS g [] (do
    let n := sel.toNat % 4
    let c ← get
    if bitAt sel 2 then
      match liveCirc c.s (getTx c.th n) with
      | some k =>
        if waitingBeats c.s k (.tx c.t n) = 0 then evEff (.unbind sel.toNat)
        else evPark 4 (word (32 + n)) (.outqEmpty n)
      | none => evEff (.unbind sel.toNat)
    else evEff (.unbind sel.toNat)) s

/-- mark pushes one marker beat (R217). -/
def execMark (g : Guard) (ra : SOp) (n : BitVec 2) (s : State) : Out :=
  issueS g (locOutq n) (do
    examPort n.toNat (32 + n.toNat)
    let v ← srcS ra
    evEff (.push n.toNat ⟨v.setWidth 512, 1⟩)) s

/-! ## Windows (10 R218) -/

/-- The layout of a window descriptor at an address of TCM. -/
def windowOk (m : Memory) (a : Nat) : Bool :=
  let w1 := mWord m (a + 8)
  let w2 := mWord m (a + 16)
  let w3 := mWord m (a + 24)
  bitsAt w1 19 45 == 0 && bitsAt w1 0 6 == 0 && bitsAt w2 14 50 == 0 && 1 ≤ bitsAt w2 0 14 && bitsAt w2 0 14 ≤ 8192 &&
  bitsAt w1 0 19 + 64 * bitsAt w2 0 14 ≤ 0x80000 && bitsAt w3 17 47 == 0 && !(bitAt w3 16 && bitsAt w1 0 19 == 0)

def execWinb (g : Guard) (ra : SOp) (n : BitVec 2) (s : State) : Out :=
  issueS g [] (do
    let a ← srcS ra
    let c ← get
    let m := c.core.tcm
    if a = 0 then evEff (.winUnbind n.toNat)
    else do
      evNeed (bitsAt a 0 5 = 0) 4 a
      evNeed (a.toNat ≤ 0x7FFE0) 6 a
      let h := mWord m a.toNat
      match circFrom c.s c.t c.th.ctx h with
      | none => evTrap 6 h
      | some k => do
        evNeed (!(c.th.tx.any fun p => p == some k)) 6 h
        evNeed (windowOk m a.toNat) 6 a
        let w1 := mWord m (a.toNat + 8)
        let w2 := mWord m (a.toNat + 16)
        let w3 := mWord m (a.toNat + 24)
        evEff (.winb n.toNat k (bitsAt w1 0 19) (bitsAt w2 0 14) (bitsAt w3 0 16) (bitAt w3 16))) s

/-! ## Streams (10 R221, R223) -/

/-- The stream of a register: s28 to s31 are 0 to 3, v12 to v15 are 4 to 7. -/
def streamOf (x : XOp) : Nat :=
  match x with
  | .sc (.s r) => r.toNat - 28
  | .vec (.v r) => r.toNat - 8
  | _ => 0

/-- Examine the register of `sbind` and `sunbind`. -/
def examX (x : XOp) : Ev Unit :=
  match x with
  | .sc o => examS o
  | .vec o => do
    let _ ← examV o true

def execSbind (g : Guard) (x : XOp) (ra : SOp) (s : State) : Out :=
  issueS g (locX x) (do
    examX x
    let a ← srcS ra
    let r ← evRec a
    evEff (.sbind (streamOf x) r)) s

/-- A Pending register that is not in stream mode parks the bundle, as any Pending destination does (R25, R223; DESIGN CHOICE,
log 123). -/
def execSunbind (g : Guard) (x : XOp) (s : State) : Out :=
  issueS g (locX x) (do
    examX x
    evEff (.sunbind (streamOf x))) s

end Sys2Proof.Machine
end

