-- ==== Sys2Proof/Machine/Copy.lean ====
section
/-! DEFINITION. Copy-engine instructions at issue, and the power gate (spec/12 R252 to R265, spec/07 R135). What the engine does
with an accepted transfer is in Engine.lean. -/

namespace Sys2Proof.Machine

set_option Elab.async false

/-! ## The power gate (07 R135, 11 R227, 25 R471) -/

/-- Pass the gate, or park under cause 7 with the request made (R135, R227). The leave that the bundle's S syllable uses counts. -/
def evGate (k : GateKind) : Ev Unit := fun c =>
  let core := c.gates.foldl (fun x j => takeLeave x c.t.slot false j) c.core
  if gatePasses core c.t.slot c.slotV k then
    .ok ((), { c with gates := c.gates ++ [k], eff5 := c.eff5 ++ [.leave k c.slotV] })
  else .error (.park ⟨7, 0, .leave, false, 0, false⟩ (some k), c)

/-- No leave is needed: a request of this syllable that still stands is withdrawn. -/
def evNoGate : Ev Unit := fun c =>
  if c.core.gate.any (ofSyllable c.t.slot c.slotV) then evEff5 (.noLeave c.slotV) c else .ok ((), c)

/-! ## Records of a transfer (12 R254 to R256) -/

/-- The elements of a record that lie in memory, in linear order. -/
def recElems (r : Rec) (rank : Nat) : List (Place × Nat × Nat) :=
  (List.range (elemCount r rank)).filterMap fun e => match elemAt r rank e with
    | .at_ p i0 row => some (p, i0, row)
    | _ => none

/-- The first misaligned element address of a record (R192). -/
def misalignedElem (r : Rec) (rank : Nat) : Option Nat :=
  ((recElems r rank).find? fun x => x.1.addr % elemBytes (rWidth r) ≠ 0).map (·.1.addr)

/-- The first element outside a local space. -/
def outsideElem (r : Rec) (rank : Nat) : Option Nat :=
  if rSpace r = .l ∨ rSpace r = .c then
    ((recElems r rank).find? fun x => localSize (rSpace r) < x.1.addr + elemBytes (rWidth r)).map (·.1.addr)
  else none

/-- The first scale byte of an MX record outside a local space. -/
def outsideScale (r : Rec) (rank : Nat) : Option Nat :=
  if tyM (rTy r) ∧ (rSpace r = .l ∨ rSpace r = .c) then
    ((recElems r rank).map fun x => scaleAddr r x.2.1 x.2.2).find? fun a => localSize (rSpace r) ≤ a
  else none

/-- A trap on an address that a check found. -/
def evNone (o : Option Nat) (cause : Nat) : Ev Unit :=
  match o with
  | some a => evTrap cause (word a)
  | none => pure ()

/-- The kinds of target (R254), after the layout check. -/
inductive Target where
  | rcd
  | reg (vec : Bool) (core slot n : Nat)
  | win (n : Nat)
  | bad
deriving DecidableEq, Repr

def targetOf (d : Word) : Target :=
  match bitsAt d 62 2 with
  | 0 => .rcd
  | 2 => if bitsAt d 14 47 = 0 ∧ bitsAt d 6 2 = 0 then .reg (bitAt d 61) (bitsAt d 11 3) (bitsAt d 8 3) (bitsAt d 0 6) else .bad
  | 3 => if bitsAt d 2 60 = 0 then .win (bitsAt d 0 2) else .bad
  | _ => .bad

/-- Bits of a transfer (R255). -/
def xferBits (count w : Nat) : Nat := count * w

/-- The type rule of `cpyr` (R258). -/
def cpyrOk (i32 : Bool) (src dst : Nat) : Bool :=
  if i32 then dst == 20 && 14 ≤ src && src ≤ 24 else dst == 0 && src ≤ 13

/-- The checks of a register target (R259). -/
def regTargetOk (vec : Bool) (n bits : Nat) : Bool :=
  if vec then n ≤ 15 && bits == 512 else 1 ≤ n && n ≤ 31 && bits == 64

/-- Room in a channel's queue (R252). -/
def chanRoom (s : State) (t : Tid) (ch : Nat) : Bool :=
  (getChan s (tidCluster t) ch).q.length < Config.chanDepth

/-- The body of `cpy` (reduce none) and `cpyr` (R255). -/
def bodyCopy (x ra rb : SOp) (ch : BitVec 3) (op : XOpKind) : Ev Unit := do
  examS x
  let d ← srcS ra
  let a ← srcS rb
  let c ← get
  let n := bitsAt d 0 2
  if bitsAt d 62 2 = 3 ∧ (liveCirc c.s (getWin c.th n).circ).isNone then evTrap 6 (word (20 + n)) else pure ()
  evNeed (bitsAt a 62 2 = 0) 6 a
  let src ← evRec a
  let tgt := targetOf d
  evNeed (tgt ≠ .bad ∧ (op = .copy ∨ tgt = .rcd)) 6 d
  let rank := c.th.rank
  let count := elemCount src rank
  let dst ← (match tgt with
    | .rcd => do
      let r ← evRec d
      pure r
    | _ => pure src)
  match tgt with
  | .rcd => do
    evNeed (!rConv dst) 6 d
  | _ => pure ()
  evNeed (!(rConv src && tyM (rTy src))) 6 a
  (match tgt with
  | .rcd => evNeed (elemCount dst rank = count) 6 d
  | .reg vec _ _ r => evNeed (regTargetOk vec r (xferBits count (rWidth src))) 6 d
  | _ => pure ())
  if op = .copy ∨ cpyrOk (op = .addI32) (rType src) (rType dst) then pure ()
  else evTrap 11 (word (rType src + 256 * rType dst))
  evNone (misalignedElem src rank) 4
  if tgt = .rcd then evNone (misalignedElem dst rank) 4 else pure ()
  evNone (outsideElem src rank) 6
  if tgt = .rcd then evNone (outsideElem dst rank) 6 else pure ()
  evNone (outsideScale src rank) 6
  if tgt = .rcd then evNone (outsideScale dst rank) 6 else pure ()
  if recTagen src then evTag src else pure ()
  let heavy := 8 * Config.heavyBytes < xferBits count (rWidth dst)
  if heavy then evGate .heavy else evNoGate
  if chanRoom c.s c.t ch.toNat then pure () else evWait (.channel ch.toNat)
  evEff (.transfer ch.toNat
    { id := 0, tid := c.t, ctx := c.th.ctx, region := c.th.region, mode := mode c.th,
      launch := c.th.launch, task := c.th.task, rank := rank, op := op, src := src,
      dst := (match tgt with
        | .rcd => .rcd dst
        | .reg vec i slot r => .reg vec (coreAt (clusterOf c.t.core) i) slot r
        | _ => .win n 0 0 0 0 0 false),
      heavy := heavy, phase := c.th.phase.toNat, pos := 0, begun := false, stage := .idle }
    x)

def execCpy (g : Guard) (x ra rb : SOp) (ch : BitVec 3) (s : State) : Out :=
  issueS g (locS x) (bodyCopy x ra rb ch .copy) s
def execCpyr (g : Guard) (i32 : Bool) (x ra rb : SOp) (ch : BitVec 3) (s : State) : Out :=
  issueS g (locS x) (bodyCopy x ra rb ch (if i32 then .addI32 else .addF32)) s

/-- twait (R265): a park, then the fault of a transfer up to n. -/
def execTwait (g : Guard) (ra : SOp) (ch : BitVec 3) (s : State) : Out :=
  issueS g [] (do
    let n ← srcS ra
    let c ← get
    let x := getChan c.s (tidCluster c.t) ch.toNat
    evNeed (n.toNat ≤ x.last) 6 n
    if n.toNat ≤ x.done then
      match x.fault with
      | some (fid, cause, tval) => if fid ≤ n.toNat then evStop (.engine ch.toNat cause tval) else pure ()
      | none => pure ()
    else evPark 10 n (.engine ch.toNat n.toNat)) s

/-- tstat: DONE and whether the fault record is held (R265). -/
def execTstat (g : Guard) (x : SOp) (ch : BitVec 3) (s : State) : Out :=
  issueS g (locS x) (do
    examS x
    let c ← get
    let y := getChan c.s (tidCluster c.t) ch.toNat
    dstS x (word (y.done % 2 ^ 63 + if y.fault.isSome then 2 ^ 63 else 0))) s

end Sys2Proof.Machine
end

