-- ==== Sys2Proof/Machine/Vector.lean ====
section
/-! DEFINITION. The vector instructions (spec/09_vector_instructions.md R165 to R190). -/

namespace Sys2Proof.Machine

set_option Elab.async false

/-! ## Modes, immediates, destinations (R166 to R168) -/

/-- The rounding mode of a code of `round` (R51, R118). -/
def rmodeOf (n : Nat) : RMode :=
  match n with
  | 1 => .rtz
  | 2 => .rdn
  | 3 => .rup
  | 4 => .sr
  | _ => .rne

/-- The mode of an rm field; DYN takes `round` as it stood before the bundle. -/
def resolveRm (th : Thread) : Rm → RMode
  | .rne => .rne
  | .rtz => .rtz
  | .rdn => .rdn
  | .rup => .rup
  | .sr => .sr
  | .dyn => rmodeOf th.round.toNat

/-- The pattern of an immediate operand (R166). -/
def immPattern (t : Ty) (bitwise : Bool) (i : BitVec 8) : Nat :=
  if tyF t && !bitwise then roundTo t .rne false 0 (.fin (numOfInt i.toInt 0))
  else if 8 ≤ tyWidth t then wrapInt (tyWidth t) i.toInt
  else i.toNat % 2 ^ tyWidth t

/-- The second source: a register or port, or the immediate in every element. -/
def srcVB (t : Ty) (bitwise : Bool) (b : VSrcB) : Ev Vec :=
  match b with
  | .reg o => srcV o
  | .imm i => pure (vTab (tyWidth t) fun _ => immPattern t bitwise i)

/-- The enabled positions of a written part [lo, lo+n) of width w, as the mask of R351. -/
def partMask (g : Guard) (th : Thread) (w lo n : Nat) : Word :=
  word ((List.range (predBits w)).foldl
    (fun m k => if predBit w lo ≤ k && k ≤ predBit w (lo + n - 1) && guardBit g th k then m + 2 ^ k else m) 0)

/-- Examine a destination of which an entry writes elements lo to lo+n−1 of width w (R33, R34, R167). An unbound window is
an access-fault of the lowest enabled element among them (R110, log 11). -/
def examPart (g : Guard) (vd : VOp) (w lo n : Nat) : Ev Vec := fun c =>
  let whole := lo == 0 && n == 512 / w && (List.range n).all (elemGuard g c.th w)
  match vd, examV vd whole c with
  | .win _, .error (.trap st code tv _, c') =>
    .error (.trap st code tv ((((List.range n).map (· + lo)).find? (elemGuard g c.th w)).getD 0), c')
  | _, r => r

/-- Write elements lo to lo+n−1: the enabled ones take f, the others keep their old value (R167). -/
def writePart (g : Guard) (vd : VOp) (w lo n : Nat) (old : Vec) (f : Nat → Nat) : Ev Unit := do
  let c ← get
  dstV vd w (partMask g c.th w lo n)
    (vTab w fun k => if lo ≤ k && k < lo + n && elemGuard g c.th w k then f k else vElem w old k)

/-- An element-wise syllable with two sources. -/
def bodyV2 (g : Guard) (t : Ty) (bitwise : Bool) (vd va : VOp) (b : VSrcB) (f : Thread → Nat → Nat → Nat → Nat) : Ev Unit := do
  let w := tyWidth t
  let old ← examPart g vd w 0 (512 / w)
  let x ← srcV va
  let y ← srcVB t bitwise b
  let c ← get
  writePart g vd w 0 (512 / w) old fun k => f c.th k (vElem w x k) (vElem w y k)

/-- An element-wise syllable with one source. -/
def bodyV1 (g : Guard) (t : Ty) (vd va : VOp) (f : Thread → Nat → Nat → Nat) : Ev Unit := do
  let w := tyWidth t
  let old ← examPart g vd w 0 (512 / w)
  let x ← srcV va
  let c ← get
  writePart g vd w 0 (512 / w) old fun k => f c.th k (vElem w x k)

/-- An element-wise syllable with three sources. -/
def bodyV3 (g : Guard) (t : Ty) (vd va : VOp) (b : VSrcB) (vc : VOp) (f : Thread → Nat → Nat → Nat → Nat → Nat) : Ev Unit := do
  let w := tyWidth t
  let old ← examPart g vd w 0 (512 / w)
  let x ← srcV va
  let y ← srcVB t false b
  let z ← srcV vc
  let c ← get
  writePart g vd w 0 (512 / w) old fun k => f c.th k (vElem w x k) (vElem w y k) (vElem w z k)

/-! ## Element arithmetic (R170, R171) -/

/-- The result of an exact integer: clamped with sat, else the low bits (R158). -/
def intResult (t : Ty) (sat : Bool) (i : Int) : Nat := wrapInt (tyWidth t) (if sat then clampInt t i else i)

/-- The result of an exact value: rounded once under the mode, SR index k (R158). -/
def fltResult (t : Ty) (rm : Rm) (sat : Bool) (th : Thread) (k : Nat) (f : RMode → FV) : Nat :=
  roundTo t (resolveRm th rm) sat (srDraw th.srkey k) (f (resolveRm th rm))

/-- An arithmetic element of two operands. -/
def arith2 (t : Ty) (rm : Rm) (sat : Bool) (ff : RMode → FV → FV → FV) (fi : Int → Int → Int) (th : Thread) (k x y : Nat) : Nat :=
  if tyF t then fltResult t rm sat th k fun m => ff m (valueOf t x) (valueOf t y)
  else intResult t sat (fi (intValue t x) (intValue t y))

/-- An arithmetic element of three operands. -/
def arith3 (t : Ty) (rm : Rm) (sat : Bool) (ff : RMode → FV → FV → FV → FV) (fi : Int → Int → Int → Int)
    (th : Thread) (k x y z : Nat) : Nat :=
  if tyF t then fltResult t rm sat th k fun m => ff m (valueOf t x) (valueOf t y) (valueOf t z)
  else intResult t sat (fi (intValue t x) (intValue t y) (intValue t z))

def execVadd (g : Guard) (ty : Ty) (rm : Rm) (sat : Bool) (vd va : VOp) (b : VSrcB) (s : State) : Out :=
  issueV g (tyWidth ty) (locV vd) (bodyV2 g ty false vd va b (arith2 ty rm sat fAdd fun x y => x + y)) s
def execVsub (g : Guard) (ty : Ty) (rm : Rm) (sat : Bool) (vd va : VOp) (b : VSrcB) (s : State) : Out :=
  issueV g (tyWidth ty) (locV vd) (bodyV2 g ty false vd va b (arith2 ty rm sat (fun m x y => fAdd m x (fNeg y)) fun x y => x - y)) s
def execVmul (g : Guard) (ty : Ty) (rm : Rm) (sat : Bool) (vd va : VOp) (b : VSrcB) (s : State) : Out :=
  issueV g (tyWidth ty) (locV vd) (bodyV2 g ty false vd va b (arith2 ty rm sat (fun _ => fMul) fun x y => x * y)) s
def execVmulh (g : Guard) (ty : Ty) (vd va : VOp) (b : VSrcB) (s : State) : Out :=
  issueV g (tyWidth ty) (locV vd) (bodyV2 g ty false vd va b fun _ _ x y =>
    wrapInt (tyWidth ty) (intValue ty x * intValue ty y / 2 ^ tyWidth ty)) s
def execVfma (g : Guard) (ty : Ty) (rm : Rm) (sat : Bool) (vd va : VOp) (b : VSrcB) (vc : VOp) (s : State) : Out :=
  issueV g (tyWidth ty) (locV vd) (bodyV3 g ty vd va b vc (arith3 ty rm sat fFma fun x y z => x * y + z)) s
def execVfms (g : Guard) (ty : Ty) (rm : Rm) (sat : Bool) (vd va : VOp) (b : VSrcB) (vc : VOp) (s : State) : Out :=
  issueV g (tyWidth ty) (locV vd)
    (bodyV3 g ty vd va b vc (arith3 ty rm sat (fun m x y z => fFma m x y (fNeg z)) fun x y z => x * y - z)) s
def execVfnma (g : Guard) (ty : Ty) (rm : Rm) (sat : Bool) (vd va : VOp) (b : VSrcB) (vc : VOp) (s : State) : Out :=
  issueV g (tyWidth ty) (locV vd)
    (bodyV3 g ty vd va b vc (arith3 ty rm sat (fun m x y z => fFma m (fNeg x) y z) fun x y z => -(x * y) + z)) s

def execVmin (g : Guard) (ty : Ty) (vd va : VOp) (b : VSrcB) (s : State) : Out :=
  issueV g (tyWidth ty) (locV vd) (bodyV2 g ty false vd va b fun _ _ => minElem ty) s
def execVmax (g : Guard) (ty : Ty) (vd va : VOp) (b : VSrcB) (s : State) : Out :=
  issueV g (tyWidth ty) (locV vd) (bodyV2 g ty false vd va b fun _ _ => maxElem ty) s

/-- vabs and vneg (R171). -/
def absElem (t : Ty) (sat : Bool) (x : Nat) : Nat :=
  match fmtOf t with
  | some f => if fIsNan (valueOf t x) then nanPat f else x % 2 ^ (tyWidth t - 1)
  | none => if tySigned t then intResult t sat (intValue t x).natAbs else x
def negElem (t : Ty) (sat : Bool) (x : Nat) : Nat :=
  match fmtOf t with
  | some f => if fIsNan (valueOf t x) then nanPat f else (x + 2 ^ (tyWidth t - 1)) % 2 ^ tyWidth t
  | none => intResult t sat (-(intValue t x))

def execVabs (g : Guard) (ty : Ty) (sat : Bool) (vd va : VOp) (s : State) : Out :=
  issueV g (tyWidth ty) (locV vd) (bodyV1 g ty vd va fun _ _ => absElem ty sat) s
def execVneg (g : Guard) (ty : Ty) (sat : Bool) (vd va : VOp) (s : State) : Out :=
  issueV g (tyWidth ty) (locV vd) (bodyV1 g ty vd va fun _ _ => negElem ty sat) s

def execVdiv (g : Guard) (ty : Ty) (rm : Rm) (sat : Bool) (vd va : VOp) (b : VSrcB) (s : State) : Out :=
  issueV g (tyWidth ty) (locV vd) (bodyV2 g ty false vd va b fun th k x y =>
    fltResult ty rm sat th k fun _ => fDiv (valueOf ty x) (valueOf ty y)) s

/-- A function of one floating-point operand (R160 to R162). -/
def bodyFn (g : Guard) (ty : Ty) (rm : Rm) (sat : Bool) (vd va : VOp) (f : FV → FV) : Ev Unit :=
  bodyV1 g ty vd va fun th k x => fltResult ty rm sat th k fun _ => f (valueOf ty x)

def execVsqrt (g : Guard) (ty : Ty) (rm : Rm) (sat : Bool) (vd va : VOp) (s : State) : Out :=
  issueV g (tyWidth ty) (locV vd) (bodyFn g ty rm sat vd va fSqrt) s
def execVrcp (g : Guard) (ty : Ty) (rm : Rm) (sat : Bool) (vd va : VOp) (s : State) : Out :=
  issueV g (tyWidth ty) (locV vd) (bodyFn g ty rm sat vd va fRcp) s
def execVrsq (g : Guard) (ty : Ty) (rm : Rm) (sat : Bool) (vd va : VOp) (s : State) : Out :=
  issueV g (tyWidth ty) (locV vd) (bodyFn g ty rm sat vd va fRsq) s
def execVexp2 (g : Guard) (ty : Ty) (rm : Rm) (sat : Bool) (vd va : VOp) (s : State) : Out :=
  issueV g (tyWidth ty) (locV vd) (bodyFn g ty rm sat vd va fExp2) s
def execVlog2 (g : Guard) (ty : Ty) (rm : Rm) (sat : Bool) (vd va : VOp) (s : State) : Out :=
  issueV g (tyWidth ty) (locV vd) (bodyFn g ty rm sat vd va fLog2) s
def execVsigm (g : Guard) (ty : Ty) (rm : Rm) (sat : Bool) (vd va : VOp) (s : State) : Out :=
  issueV g (tyWidth ty) (locV vd) (bodyFn g ty rm sat vd va fSigm) s
def execVsilu (g : Guard) (ty : Ty) (rm : Rm) (sat : Bool) (vd va : VOp) (s : State) : Out :=
  issueV g (tyWidth ty) (locV vd) (bodyFn g ty rm sat vd va fSilu) s

/-! ## Bitwise operations, shifts, counts, classes (R172 to R176) -/

def execVand (g : Guard) (ty : Ty) (vd va : VOp) (b : VSrcB) (s : State) : Out :=
  issueV g (tyWidth ty) (locV vd) (bodyV2 g ty true vd va b fun _ _ x y => x &&& y) s
def execVor (g : Guard) (ty : Ty) (vd va : VOp) (b : VSrcB) (s : State) : Out :=
  issueV g (tyWidth ty) (locV vd) (bodyV2 g ty true vd va b fun _ _ x y => x ||| y) s
def execVxor (g : Guard) (ty : Ty) (vd va : VOp) (b : VSrcB) (s : State) : Out :=
  issueV g (tyWidth ty) (locV vd) (bodyV2 g ty true vd va b fun _ _ x y => x ^^^ y) s
def execVandn (g : Guard) (ty : Ty) (vd va : VOp) (b : VSrcB) (s : State) : Out :=
  issueV g (tyWidth ty) (locV vd) (bodyV2 g ty true vd va b fun _ _ x y => x &&& (2 ^ tyWidth ty - 1 - y)) s

/-- Shifts of a pattern by a count that may be w or more (R173). -/
def sllElem (w x c : Nat) : Nat := if w ≤ c then 0 else x * 2 ^ c % 2 ^ w
def srlElem (w x c : Nat) : Nat := if w ≤ c then 0 else x / 2 ^ c
def sraElem (w x c : Nat) : Nat := wrapInt w ((BitVec.ofNat w x).toInt / 2 ^ Nat.min c w)

def execVsll (g : Guard) (ty : Ty) (vd va : VOp) (b : VSrcB) (s : State) : Out :=
  issueV g (tyWidth ty) (locV vd) (bodyV2 g ty false vd va b fun _ _ => sllElem (tyWidth ty)) s
def execVsrl (g : Guard) (ty : Ty) (vd va : VOp) (b : VSrcB) (s : State) : Out :=
  issueV g (tyWidth ty) (locV vd) (bodyV2 g ty false vd va b fun _ _ => srlElem (tyWidth ty)) s
def execVsra (g : Guard) (ty : Ty) (vd va : VOp) (b : VSrcB) (s : State) : Out :=
  issueV g (tyWidth ty) (locV vd) (bodyV2 g ty false vd va b fun _ _ => sraElem (tyWidth ty)) s

/-- Zero bits above the highest set bit of a w-bit pattern (R174). -/
def clzElem (w x : Nat) : Nat := if x = 0 then w else w - 1 - x.log2

def execVclz (g : Guard) (ty : Ty) (vd va : VOp) (s : State) : Out :=
  issueV g (tyWidth ty) (locV vd) (bodyV1 g ty vd va fun _ _ => clzElem (tyWidth ty)) s
def execVpopc (g : Guard) (ty : Ty) (vd va : VOp) (s : State) : Out :=
  issueV g (tyWidth ty) (locV vd) (bodyV1 g ty vd va fun _ _ x => countOnes (BitVec.ofNat 64 x) 64) s

/-- The class mask of a value: subnormal where the exponent field is zero (R175). -/
def classMask (t : Ty) (x : Nat) : Nat :=
  match fmtOf t with
  | none => 0
  | some f =>
    let sub := x / 2 ^ f.mb % 2 ^ f.eb == 0
    match fltValue f x with
    | .nan => 256
    | .inf n => if n then 1 else 128
    | .fin v =>
      if v.m = 0 then (if v.neg then 8 else 16)
      else if sub then (if v.neg then 4 else 32)
      else if v.neg then 2 else 64

def execVclass (g : Guard) (ty : Ty) (vd va : VOp) (s : State) : Out :=
  issueV g (tyWidth ty) (locV vd) (bodyV1 g ty vd va fun _ _ => classMask ty) s

/-- vmov governs 32-bit elements (R176). -/
def execVmov (g : Guard) (vd va : VOp) (s : State) : Out :=
  issueV g 32 (locV vd) (bodyV1 g .u32 vd va fun _ _ x => x) s

/-! ## Compare (R177) -/

/-- A condition on two element patterns of a type (R50, R177). -/
def condElem (t : Ty) (c : Cond) (x y : Nat) : Bool :=
  if tyF t then
    let a := valueOf t x
    let b := valueOf t y
    match c with
    | .eq => fEq a b
    | .ne => !fEq a b
    | .lt => fLess a b
    | .ge => fLess b a || fEq a b
    | .gt => fLess b a
    | .le => fLess a b || fEq a b
    | .un => fIsNan a || fIsNan b
    | _ => false
  else
    match c with
    | .lt => decide (intValue t x < intValue t y)
    | .ge => decide (intValue t y ≤ intValue t x)
    | .gt => decide (intValue t y < intValue t x)
    | .le => decide (intValue t x ≤ intValue t y)
    | c => condInt c (BitVec.ofNat 64 x) (BitVec.ofNat 64 y)

/-- Keep bit k where the element is suppressed, take the new bit where it is enabled, clear from n up (R177). -/
def mixMask (old new en : Word) (n : Nat) : Word := ((old &&& ~~~en) ||| (new &&& en)) &&& word (2 ^ n - 1)

def execVcmp (g : Guard) (pd pe : BitVec 3) (m : PMode) (cond : Cond) (ty : Ty) (va : VOp) (b : VSrcB) (s : State) : Out :=
  issueV g (tyWidth ty) (locP pd ++ locP pe) (do
    let w := tyWidth ty
    let n := 512 / w
    let old ← srcP pd
    let old' ← srcP pe
    let x ← srcV va
    let y ← srcVB ty false b
    let c ← get
    let hits := word ((List.range n).foldl (fun a k => if condElem ty cond (vElem w x k) (vElem w y k) then a + 2 ^ k else a) 0)
    let en := guardMask g c.th w
    evEff (.preg pd.toNat (mixMask old (combine m old old' hits).1 en n))
    evEff (.preg pe.toNat (mixMask old' (combine m old old' hits).2 en n))) s

/-! ## Moving elements (R178 to R183) -/

def execVbc (g : Guard) (ty : Ty) (vd : VOp) (sa : SOp) (s : State) : Out :=
  issueV g (tyWidth ty) (locV vd) (do
    let w := tyWidth ty
    let old ← examPart g vd w 0 (512 / w)
    let x ← srcS sa
    writePart g vd w 0 (512 / w) old fun _ => x.toNat % 2 ^ w) s

/-- A V syllable enabled by the guard of one element (R179, R180). -/
def issueVAt (g : Guard) (w i : Nat) (dests : List (Loc × Nat)) (body : Ev Unit) (s : State) : Out :=
  .next (issueOut true (if elemGuard g (getThread s s.cur) w i then (evalBody true body dests s).atElem i else .off) s)

/-- An element extended to 64 bits (R179, R221). -/
def extendElem (t : Ty) (x : Nat) : Word :=
  if tySigned t ∨ t = .mxi8 then BitVec.ofInt 64 (intValue t x) else word (x % 2 ^ tyWidth t)

def execVext (g : Guard) (ty : Ty) (sd : SOp) (va : VOp) (i : BitVec 8) (s : State) : Out :=
  issueVAt g (tyWidth ty) i.toNat (locS sd) (do
    examS sd
    let x ← srcV va
    dstS sd (extendElem ty (vElem (tyWidth ty) x i.toNat))) s

/-- vins: element idx is written, every other is unwritten (R180). -/
def execVins (g : Guard) (ty : Ty) (vd : VOp) (sa : SOp) (i : BitVec 8) (s : State) : Out :=
  issueVAt g (tyWidth ty) i.toNat (locV vd) (do
    let w := tyWidth ty
    let old ← examV vd false
    let x ← srcS sa
    dstV vd w 0 (vTab w fun k => if k = i.toNat then x.toNat % 2 ^ w else vElem w old k)) s

def execVperm (g : Guard) (ty : Ty) (vd va vb : VOp) (s : State) : Out :=
  issueV g (tyWidth ty) (locV vd) (do
    let w := tyWidth ty
    let n := 512 / w
    let old ← examPart g vd w 0 n
    let x ← srcV va
    let y ← srcV vb
    writePart g vd w 0 n old fun k => vElem w x (vElem w y k % n)) s

def execVrot (g : Guard) (ty : Ty) (vd va : VOp) (b : VSrcB) (s : State) : Out :=
  issueV g (tyWidth ty) (locV vd) (do
    let w := tyWidth ty
    let n := 512 / w
    let old ← examPart g vd w 0 n
    let x ← srcV va
    let r ← (match b with
      | .reg o => do
        let y ← srcV o
        pure (bitsAt y 0 64)
      | .imm i => pure i.toNat)
    writePart g vd w 0 n old fun k => vElem w x ((k + r) % n)) s

def execVzip (g : Guard) (ty : Ty) (hi : Bool) (vd va vb : VOp) (s : State) : Out :=
  issueV g (tyWidth ty) (locV vd) (do
    let w := tyWidth ty
    let n := 512 / w
    let h := if hi then n / 2 else 0
    let old ← examPart g vd w 0 n
    let x ← srcV va
    let y ← srcV vb
    writePart g vd w 0 n old fun k => if k % 2 = 0 then vElem w x (k / 2 + h) else vElem w y (k / 2 + h)) s

def execVuzp (g : Guard) (ty : Ty) (hi : Bool) (vd va vb : VOp) (s : State) : Out :=
  issueV g (tyWidth ty) (locV vd) (do
    let w := tyWidth ty
    let n := 512 / w
    let old ← examPart g vd w 0 n
    let x ← srcV va
    let y ← srcV vb
    writePart g vd w 0 n old fun k =>
      let j := 2 * k + if hi then 1 else 0
      if j < n then vElem w x j else vElem w y (j - n)) s

/-! ## Conversion, scaling, dot products (R184 to R186) -/

def execVcvt (g : Guard) (ty tys : Ty) (rm : Rm) (sat : Bool) (vd va : VOp) (q : BitVec 8) (s : State) : Out :=
  let wd := tyWidth ty
  let ws := tyWidth tys
  let n := if wd ≤ ws then 512 / ws else 512 / wd
  let dbase := if wd ≤ ws then q.toNat * n else 0
  let sbase := if wd ≤ ws then 0 else q.toNat * n
  issueV g wd (locV vd) (do
    let old ← examPart g vd wd dbase n
    let x ← srcV va
    let c ← get
    writePart g vd wd dbase n old fun k =>
      convert tys ty (resolveRm c.th rm) sat (srDraw c.th.srkey k) (vElem ws x (sbase + (k - dbase)))) s

/-- Decoding: ty in F, tys in M, widening (R185). -/
def bodyUnscale (g : Guard) (ty tys : Ty) (rm : Rm) (sat : Bool) (vd va vb : VOp) (q : Nat) : Ev Unit := do
  let wd := tyWidth ty
  let ws := tyWidth tys
  let n := 512 / wd
  let old ← examPart g vd wd 0 n
  let x ← srcV va
  let y ← srcV vb
  let c ← get
  writePart g vd wd 0 n old fun j =>
    let i := q * n + j
    roundTo ty (resolveRm c.th rm) sat (srDraw c.th.srkey j) (scaled (valueOf tys (vElem ws x i)) (vElem 8 y (i / 32)))

/-- Encoding: ty in M, tys in F, narrowing (R185). -/
def bodyScale (g : Guard) (ty tys : Ty) (rm : Rm) (vd va vb : VOp) (q : Nat) : Ev Unit := do
  let wd := tyWidth ty
  let ws := tyWidth tys
  let n := 512 / ws
  let old ← examPart g vd wd (q * n) n
  let x ← srcV va
  let y ← srcV vb
  let c ← get
  writePart g vd wd (q * n) n old fun i =>
    let sc := vElem 8 y (i / 32)
    match valueOf tys (vElem ws x (i - q * n)) with
    | .fin v =>
      if sc = 255 then 0
      else roundTo ty (resolveRm c.th rm) true (srDraw c.th.srkey i) (.fin { v with e := v.e - ((sc : Int) - 127) })
    | _ => 0

def execVscl (g : Guard) (ty tys : Ty) (rm : Rm) (sat : Bool) (vd va vb : VOp) (q : BitVec 8) (s : State) : Out :=
  issueV g (tyWidth ty) (locV vd)
    (if tyM ty then bodyScale g ty tys rm vd va vb q.toNat else bodyUnscale g ty tys rm sat vd va vb q.toNat) s

def execVdot (g : Guard) (ty tys : Ty) (rm : Rm) (vd va vb : VOp) (s : State) : Out :=
  issueV g 32 (locV vd) (do
    let ws := tyWidth tys
    let p := 32 / ws
    let old ← examV vd false
    let x ← srcV va
    let y ← srcV vb
    let c ← get
    writePart g vd 32 0 16 old fun j =>
      let ks := (List.range p).map (p * j + ·)
      if ty = .f32 then
        fltResult .f32 rm false c.th j fun m =>
          fAdd m (valueOf .f32 (vElem 32 old j))
            (groupExact m (ks.map fun k => fMul (valueOf tys (vElem ws x k)) (valueOf tys (vElem ws y k))))
      else
        wrapInt 32 (ks.foldl (fun a k => a + intValue tys (vElem ws x k) * intValue tys (vElem ws y k))
          (vElem 32 old j : Int))) s

/-! ## Reductions and scans (R187 to R189) -/

/-- The tree sum of R163 over floating-point values, the last addition rounded to the destination type. -/
def treeSum (t : Ty) (mode : RMode) (draw : Nat) (l : List FV) : Nat :=
  match reduceTree (fun a b => round32 (fAdd .rne a b)) (l.length.log2 - 1) l with
  | [a, b] => roundTo t mode false draw (fAdd mode a b)
  | _ => 0

/-- A reduction writes element 0 and zeros the rest (R187). -/
def bodyReduce (g : Guard) (ty : Ty) (vd va : VOp) (ident : Nat) (f : Thread → List Nat → Nat) : Ev Unit := do
  let w := tyWidth ty
  let _ ← examV vd true
  let x ← srcV va
  let c ← get
  let l := (List.range (512 / w)).map fun k => if elemGuard g c.th w k then vElem w x k else ident
  dstV vd w (BitVec.allOnes 64) (vPack w [f c.th l])

def execVredadd (g : Guard) (ty : Ty) (rm : Rm) (sat : Bool) (vd va : VOp) (s : State) : Out :=
  issueV g (tyWidth ty) (locV vd) (bodyReduce g ty vd va (addIdent ty) fun th l =>
    if tyF ty then treeSum ty (resolveRm th rm) (srDraw th.srkey 0) (l.map (valueOf ty))
    else intResult ty sat (l.foldl (fun a x => a + intValue ty x) 0)) s

/-- A tree of exact combinations of patterns. -/
def treeElem (op : Nat → Nat → Nat) (l : List Nat) : Nat := (reduceTree op (l.length.log2 + 1) l).headD 0

def execVredmax (g : Guard) (ty : Ty) (vd va : VOp) (s : State) : Out :=
  issueV g (tyWidth ty) (locV vd) (bodyReduce g ty vd va (leastPat ty) fun _ => treeElem (maxElem ty)) s
def execVredmin (g : Guard) (ty : Ty) (vd va : VOp) (s : State) : Out :=
  issueV g (tyWidth ty) (locV vd) (bodyReduce g ty vd va (greatestPat ty) fun _ => treeElem (minElem ty)) s

/-- The items in ascending order: each answers what it receives (R189). `acc` is none until the first enabled item. -/
def scanGo (t : Ty) (opr : Nat) (exc : Bool) : List (Option (Nat × Nat)) → Option (Nat × Nat) → List (Option (Nat × Nat))
  | [], _ => []
  | none :: l, acc => none :: scanGo t opr exc l acc
  | some x :: l, acc =>
    let old := acc.getD (scanIdent t opr)
    let new := match acc with
      | none => x
      | some p => scanCombine t opr p x
    some (if exc then old else new) :: scanGo t opr exc l (some new)

/-- Examine the destination of a scan: it is read where an item, a pair for two operators, is suppressed (R33, R188, log 44). -/
def examItems (g : Guard) (vd : VOp) (w gp : Nat) : Ev Vec := fun c =>
  if (List.range (512 / w)).all fun k => elemGuard g c.th w (k / gp * gp) then examV vd true c
  else examPart g vd w 0 (512 / w) c

/-- Elements in an item of a scan under the descriptor that a register holds now; the source before it pops first (R37). -/
def scanItem (va : VOp) (sa : SOp) : Ev Nat := fun c =>
  match (srcV va >>= fun _ => srcS sa) c with
  | .ok (d, _) => .ok (scanGroup (bitsAt d 0 4), c)
  | .error _ => .ok (1, c)

def execVscan (g : Guard) (ty : Ty) (vd va : VOp) (sa : SOp) (s : State) : Out :=
  issueV g (tyWidth ty) (locV vd) (do
      let w := tyWidth ty
      let n := 512 / w
      let old ← examItems g vd w (← scanItem va sa)
      let x ← srcV va
      let d ← srcS sa
      let opr := bitsAt d 0 4
      if scanOk ty opr then pure () else evTrap 11 (word (tyCode ty + 256 * opr))
      let c ← get
      let gp := scanGroup opr
      let items := (List.range (n / gp)).map fun i =>
        if elemGuard g c.th w (gp * i) then some (vElem w x (gp * i), vElem w x (gp * i + gp - 1)) else none
      let res := scanGo ty opr (bitAt d 4) items none
      let val (k : Nat) : Nat := match (res[k / gp]?).join with
        | some p => if k % gp = 0 then p.1 else p.2
        | none => vElem w old k
      let mask := word ((List.range n).foldl (fun a k => if elemGuard g c.th w (k / gp * gp) then a + 2 ^ k else a) 0)
      dstV vd w mask (vTab w val)) s

/-! ## Random numbers (R190) -/

/-- One doubleword of RngBlock: four rounds from z and y. -/
def rngRounds : Nat → Word → Word → Word
  | 0, z, _ => z
  | n + 1, z, y =>
    let z := z + y
    let z := (z ^^^ (z >>> 30)) * 0xBF58476D1CE4E5B9
    let z := (z ^^^ (z >>> 27)) * 0x94D049BB133111EB
    rngRounds n (z ^^^ (z >>> 31)) (y + 0x9E3779B97F4A7C15)

def rngBlock (key ctr : Word) (st : Nat) : Vec :=
  vTab 64 fun j => (rngRounds 4 ctr (key + word (8 * st + j + 1) * 0xD1B54A32D192ED03)).toNat

/-- The element a pattern of the block gives (R190). -/
def rngElem (t : Ty) (e : Nat) : Nat :=
  match t with
  | .f32 => roundTo .f32 .rne false 0 (.fin ⟨false, e / 2 ^ 8, -24, false⟩)
  | .f16 => roundTo .f16 .rne false 0 (.fin ⟨false, e / 2 ^ 5, -11, false⟩)
  | .bf16 => roundTo .bf16 .rne false 0 (.fin ⟨false, e / 2 ^ 8, -8, false⟩)
  | _ => e

def execVrng (g : Guard) (ty : Ty) (vd : VOp) (sc : SOp) (st : BitVec 8) (s : State) : Out :=
  issueV g (tyWidth ty) (locV vd) (do
    let w := tyWidth ty
    let old ← examPart g vd w 0 (512 / w)
    let ctr ← srcS sc
    let c ← get
    let blk := rngBlock c.th.srkey ctr st.toNat
    writePart g vd w 0 (512 / w) old fun k => rngElem ty (vElem w blk k)) s

end Sys2Proof.Machine
end

