-- ==== Sys2Proof/Machine/Matrix.lean ====
section
/-! DEFINITION. The matrix unit at issue: the checks of its commands, admission, the accumulator instructions, ownership and
`mcmd` (spec/11 R225 to R246). Beginning and retiring commands is in MatrixUnit.lean. -/

namespace Sys2Proof.Machine

set_option Elab.async false

/-! ## Tiles and banks (R225, R226) -/

/-- Whether another slot owns a tile that T names (R236). -/
def ownedByOther (c : Core) (slot : Nat) (t : TileSel) : Bool :=
  (tilesOf t).any fun i => match ownerOf c i with
    | some o => o != slot
    | none => false

/-- Whether effects that wait for step 6 claim a tile that T names. -/
def claimsTile (l : List Eff) (t : TileSel) : Bool := l.any fun e => match e with
  | .claim k => (tilesOf k).any fun i => (tilesOf t).contains i
  | _ => false

/-- Whether `mclaim` has to wait: another slot owns a tile that T names, or is about to (R241, log 102). -/
def tileTaken (c : Core) (slot : Nat) (t : TileSel) : Bool :=
  ownedByOther c slot t || (List.range 8).any fun i => i != slot && match (slotOf c i).inflight with
    | some f => claimsTile f.eff6 t
    | none => false

/-- The bank record of the loaded tile whose bank set is bm (R231). -/
def tileOfBanks (c : Core) (bm : BitVec 4) : Option Bank :=
  ((List.range 4).find? fun j => bitAt bm j && (bankOf c j).loaded && (bankOf c j).set == bm).map (bankOf c)

/-! ## Checks (R230 to R232, R237) -/

/-- What the checks of a command come to: the record's copy, a trap, or a tag word that is still Empty. -/
inductive MCheck where
  | ok (r : Rec)
  | trap (cause : Nat) (tval : Word)
  | tag (a : Nat)
deriving DecidableEq, Repr

/-- The type pairs of R232, one way round. -/
def pairRow (a b : Nat) : Bool :=
  if a = 0 then b ≤ 2
  else if a ≤ 2 then b ≤ 13
  else if a ≤ 12 then 1 ≤ b && b ≤ 13
  else if a = 13 then 1 ≤ b && b ≤ 19
  else if a = 14 then 13 ≤ b && b ≤ 16
  else if a ≤ 16 then 13 ≤ b && b ≤ 19
  else if a ≤ 19 then b == 13 || (15 ≤ b && b ≤ 19)
  else false

/-- A pair is implemented when its mirror pair is (R232). -/
def pairOkTypes (a b : Nat) : Bool := a ≤ 19 && b ≤ 19 && (pairRow a b || pairRow b a)

/-- Whether a pair accumulates in INT32 (R232). -/
def pairInt (a b : Nat) : Bool := 14 ≤ a && 14 ≤ b

/-- K, N of a B record, and K, M of an A record (R230). -/
def recK (r : Rec) (rank : Nat) : Nat := if rConv r then convKC r rank else extOf r rank 0
def recRows (r : Rec) (rank : Nat) : Nat :=
  if rConv r then convM r rank else extOf r rank 1 * extOf r rank 2 * extOf r rank 3

/-- The rows of R231 over elements and scales: alignment, ranges of elements, ranges of scale bytes. -/
def elemChecks (r : Rec) (rank : Nat) : Option (Nat × Nat) :=
  match misalignedElem r rank, outsideElem r rank, outsideScale r rank with
  | some a, _, _ => some (4, a)
  | none, some a, _ => some (6, a)
  | none, none, some a => some (6, a)
  | none, none, none => none

/-- The sequence tag, last (R220, R231). -/
def tagCheck (c : Core) (r : Rec) : MCheck :=
  if recTagen r then
    if isFull c (tagAddr r) then
      if tagMatches c r then .ok r else .trap 9 (tagFault c r)
    else .tag (tagAddr r)
  else .ok r

/-- Bytes of a B tile (R237). -/
def bBytes (r : Rec) (rank : Nat) : Nat :=
  ceilDiv (recK r rank * recRows r rank * rWidth r) 8 + if tyM (rTy r) then ceilDiv (recK r rank) 32 * recRows r rank else 0

/-- The checks of `mldb` on the record at a (R231, R237). -/
def mldbCheck (c : Core) (rank : Nat) (bm : BitVec 4) (a : Word) : MCheck :=
  match recFault c a with
  | some cause => .trap cause a
  | none =>
    let r := memRec c.tcm a.toNat
    let k := recK r rank
    let n := recRows r rank
    if rSpace r ≠ .l ∨ rConv r = true ∨ 19 < rType r ∨ k < 1 ∨ 256 < k ∨ n < 1 ∨ 256 < n ∨ (8 < rWidth r ∧ 128 < n) then .trap 6 a
    else match elemChecks r rank with
      | some (cause, x) => .trap cause (word x)
      | none =>
        match tagCheck c r with
        | .ok r => if countOnes bm 4 = ceilDiv (bBytes r rank) 65536 then .ok r else .trap 6 a
        | x => x

/-- The checks of `mma` on the record at a (R231, R232). -/
def mmaCheck (c : Core) (rank : Nat) (t : TileSel) (bm : BitVec 4) (a : Word) : MCheck :=
  match recFault c a with
  | some cause => .trap cause a
  | none =>
    let r := memRec c.tcm a.toNat
    match tileOfBanks c bm with
    | none => .trap 6 a
    | some b =>
      if rSpace r ≠ .l ∨ (rConv r = true ∧ tyM (rTy r) = true) ∨ 128 < recRows r rank ∨ b.k ≠ recK r rank ∨
        (128 < b.n ∧ t ≠ .pair) then .trap 6 a
      else match elemChecks r rank with
        | some (cause, x) => .trap cause (word x)
        | none => if pairOkTypes (rType r) b.ty then tagCheck c r else .trap 11 (word (rType r + 256 * b.ty))

/-- The outcome of the checks at issue (R220: the tag parks under cause 2). -/
def evCheck (m : MCheck) : Ev Rec :=
  match m with
  | .ok r => pure r
  | .trap cause tval => evTrap cause tval
  | .tag a => evPark 2 (word a) (.word a)

/-- The command of a check's record: K and N of the tile and M of A as they stand at admission. -/
def mkCmd (c : Core) (rank : Nat) (kind : MKind) (t : TileSel) (bm : BitVec 4) (r : Rec) (creg : Nat) (cval rh : Word) : MCmd :=
  let b := (tileOfBanks c bm).getD ⟨false, 0, 0, 0, 0⟩
  match kind with
  | .mldb => ⟨.mldb, t, bm, r, recK r rank, recRows r rank, 0, rank, rType r, creg, cval, rh, c.mnext, none, 0, 0, 0, 0, none⟩
  | .mma => ⟨.mma, t, bm, r, recK r rank, b.n, recRows r rank, rank, b.ty, creg, cval, rh, c.mnext, none, 0, 0, 0, 0, none⟩
  | .vacczr => ⟨.vacczr, t, bm, r, 0, 0, 0, rank, 0, creg, cval, rh, c.mnext, none, 0, 0, 0, 0, none⟩

/-! ## Instructions (R235 to R242) -/

def evOwner (t : TileSel) : Ev Unit := do
  let c ← get
  evNeed (!ownedByOther c.core c.t.slot t) 6 (word (tileCode t))

/-- The trap of a part of a syllable, where it has one, with no effect and no park of it. -/
def evTrapsOf (m : Ev Unit) : Ev Unit := fun c =>
  match m c with
  | .error (.trap step cause tval e, c') => .error (.trap step cause tval e, c')
  | _ => .ok ((), c)

/-- The ownership check of an instruction that other checks precede: it comes before any park (R236, R240). -/
def evOwnerAfter (t : TileSel) (m : Ev Unit) : Ev Unit := do
  let c ← get
  if ownedByOther c.core c.t.slot t then do
    evTrapsOf m
    evOwner t
  else pure ()

/-- A command takes its place in the queue at step 4 and may begin once the bundle is at step 6 (R227). -/
def evOffer (m : MCmd) : Ev Unit := do
  evEff5 (.offer m)
  evEff .admitted

def execMldb (g : Guard) (bm : BitVec 4) (sa : SOp) (s : State) : Out :=
  issueV0 g [] (do
    let a ← srcS sa
    let c ← get
    let r ← evCheck (mldbCheck c.core c.th.rank bm a)
    evGate .plain
    evOffer (mkCmd c.core c.th.rank .mldb .a0 bm r 0 0 0)) s

def execMma (g : Guard) (t : TileSel) (bm : BitVec 4) (sa : SOp) (s : State) : Out :=
  issueV0 g [] (do
    evOwner t
    let a ← srcS sa
    let c ← get
    let r ← evCheck (mmaCheck c.core c.th.rank t bm a)
    if recRows r c.th.rank = 0 then evNoGate
    else do
      evGate .mma
      evOffer (mkCmd c.core c.th.rank .mma t bm r 0 0 0)) s

def execVacczr (g : Guard) (t : TileSel) (s : State) : Out :=
  issueV0 g [] (do
    evOwner t
    evGate .plain
    let c ← get
    evOffer (mkCmd c.core c.th.rank .vacczr t 0 Rec.zero 0 0 0)) s

/-- Whether a multiplier command names a tile of T. -/
def namesTile (m : MCmd) (t : TileSel) : Bool := m.kind != .mldb && (tilesOf m.t).any fun i => (tilesOf t).contains i

/-- Wait under cause 13 for the multiplier commands that name the tile and were admitted before the bundle first came here:
a reissue after a wake waits for none admitted since (R240). -/
def evTileWait (t : TileSel) : Ev Unit := do
  let c ← get
  let ids := c.fixed.getD ((c.core.mq.filter fun m => namesTile m t).map (·.id))
  set { c with fixed := some ids }
  if c.core.mq.any fun m => ids.contains m.id then evPark 13 (word (tileCode t)) (.commands ids) else pure ()

/-- The tile and first column of a column group (R240). -/
def groupTile (t : TileSel) (gr : Nat) : Nat × Nat :=
  match t with
  | .a0 => (0, 16 * gr)
  | .a1 => (1, 16 * gr)
  | .pair => if 8 ≤ gr then (1, 16 * (gr - 8)) else (0, 16 * gr)

/-- The row of `vaccrd` and `vaccwr`, checked (R240). -/
def evRow (sa : SOp) : Ev Nat := do
  let r ← srcS sa
  evNeed (r.toNat ≤ 127) 6 r
  pure r.toNat

def execVaccrd (g : Guard) (t : TileSel) (sa : SOp) (vd : VOp) (gr : BitVec 8) (s : State) : Out :=
  issueV g 32 (locV vd) (do
    evOwnerAfter t (do
      let _ ← examPart g vd 32 0 16
      let _ ← evRow sa)
    let old ← examPart g vd 32 0 16
    let row ← evRow sa
    evTileWait t
    let c ← get
    let (i, c0) := groupTile t gr.toNat
    writePart g vd 32 0 16 old fun j => mNat c.core.tiles (tileAddr i row (c0 + j)) 4) s

def execVaccwr (g : Guard) (t : TileSel) (sa : SOp) (vs : VOp) (gr : BitVec 8) (s : State) : Out :=
  issueV g 32 [] (do
    evOwnerAfter t (do
      let _ ← evRow sa)
    let row ← evRow sa
    evTileWait t
    let v ← srcV vs
    let c ← get
    let (i, c0) := groupTile t gr.toNat
    evEff (.tileRow i row c0 v (guardMask g c.th 32))) s

def execMclaim (g : Guard) (t : TileSel) (s : State) : Out :=
  issueV0 g [] (do
    let c ← get
    if tileTaken c.core c.t.slot t then evPark 13 (word (tileCode t)) (.tile t) else evEff (.claim t)) s

def execMrel (g : Guard) (t : TileSel) (s : State) : Out := issueV0 g [] (evEff (.release t)) s

def execMfence (g : Guard) (s : State) : Out :=
  issueV0 g [] (do
    let c ← get
    if c.core.mq.isEmpty then pure () else evWait (.commands (c.core.mq.map (·.id)))) s

/-! ## Remote commands at the sender (R244, R245) -/

/-- The layout of a command block (R244). -/
def cmdBlockOk (m : Memory) (a : Nat) : Bool :=
  let w0 := mWord m a
  let w1 := mWord m (a + 8)
  let kind := bitsAt w0 0 2
  kind != 3 && bitsAt w0 2 2 == 0 && bitsAt w0 4 2 != 3 && bitsAt w0 6 2 == 0 && bitsAt w0 12 4 == 0 &&
  bitsAt w0 21 43 == 0 && bitsAt w1 19 45 == 0 && mWord m (a + 24) == 0 &&
  !(kind == 0 && bitsAt w0 4 2 != 0) && !(kind == 2 && (bitsAt w0 8 4 != 0 || w1 != 0))

/-- The data of a command beat: the block, the capability and the sender's tid (R245). -/
def cmdData (m : Memory) (a : Nat) (cap tid : Word) : Vec :=
  BitVec.ofNat 512 (mNat m a 32 + cap.toNat * 2 ^ 256 + tid.toNat * 2 ^ 320)

def execMcmd (g : Guard) (x ra rb : SOp) (n : BitVec 2) (s : State) : Out :=
  issueS g (locS x ++ locOutq n) (do
    examS x
    let a ← srcS ra
    let cap ← srcS rb
    let c ← get
    evNeed (liveCirc c.s (getTx c.th n.toNat)).isSome 6 (word (32 + n.toNat))
    evNeed (bitsAt a 0 5 = 0) 4 a
    evNeed (a.toNat + 32 ≤ 0x80000 ∧ cmdBlockOk c.core.tcm a.toNat = true) 6 a
    let k ← evKey
    evWait (.room n.toNat)
    evWait (.act (.mcmd n.toNat (cmdData c.core.tcm a.toNat cap (tidWord c.s c.t)) cap k))
    evWait (.key 6 k)
    match x with
    | .s r => evEff (.sregOf r.toNat k 8 false c.th.pc)
    | .port p => evEff (.pushOf p.toNat k)) s

end Sys2Proof.Machine
end

