-- ==== Sys2Proof/Machine/Net.lean ====
section
/-! DEFINITION. Circuits at work: injection, forwarding by slot tables, phases, delivery at a core, and configuration beats
(spec/17_wheel_circuits_and_belfry.md R339, R342, R343, R348 to R356, R362; spec/10 R211 to R219; spec/11 R245, R246). -/

namespace Sys2Proof.Machine

set_option Elab.async false

/-! ## Beats (R351) -/

def beatKind (b : Beat) : Nat := bitsAt b.env 0 4
def circNum (k : Nat) : Nat := k % 65536

/-- Element width of a window beat's mask code. -/
def wcWidth (c : Nat) : Nat := match c with
  | 0 => 64
  | 1 => 32
  | 2 => 16
  | 3 => 8
  | 4 => 4
  | _ => 2

/-- Whether a position of a window beat is enabled: by its mask, or by the count of the prefix form. -/
def beatEnabled (env : BitVec 88) (w i : Nat) : Bool :=
  if bitAt env 7 then i < bitsAt env 24 9 else bitAt (word (bitsAt env 24 64)) (predBit w i)

/-! ## Injection (R344, R348, R362, R372) -/

def engineBeat (b : InjBeat) : Bool :=
  match b.src with
  | .engine _ _ _ _ _ => true
  | _ => false

/-- Whether a message waits for the writes before its release (R309). -/
def heldBack (s : State) (b : InjBeat) : Bool :=
  match b.hold with
  | some (d, q) => (pendingWrites (getDie s d)).any fun r => decide (r.seq ≤ q)
  | none => false

/-- The beat that a circuit injects next, and what is left: its head, or at a switch the first beat of an accepted transfer, which
still completes (R275, R421). -/
def injHead (s : State) (c : Circuit) : Option (InjBeat × List InjBeat) :=
  if circStopped s c then none
  else if ctxFrozen s c.ctx c.region then
    match c.inj.find? engineBeat, c.inj.findIdx? engineBeat with
    | some b, some i => some (b, c.inj.eraseIdx i)
    | _, _ => none
  else match c.inj with
    | b :: l => if heldBack s b then none else some (b, l)
    | [] => none

/-- When the next beat of a circuit is injected. -/
def injectDue (s : State) (c : Circuit) : Option Nat := (injHead s c).bind fun b => injectTime s c b.1.t0

/-- The input port a circuit's words are injected into. -/
def injectPort (c : Circuit) : Nat :=
  match c.hops with
  | h :: _ => 8 * h.router + h.dir
  | [] => match endpointCore c.src with
    | some k => 8 * k + 4
    | none => 0

/-- A waiting `mcmd` learns that its beat has left (R245). -/
def noteLeft (s : State) (b : InjBeat) (at_ : Nat) : State :=
  match b.src with
  | .tx t _ =>
    if beatKind b.beat = 5 then modThread s t fun th => match th.mwait with
      | some m => if m.seq % 2 ^ 16 = bitsAt b.beat.env 24 16 then { th with mwait := some { m with leftAt := some at_ } } else th
      | none => th
    else s
  | _ => s

/-- INJECT: the head of a circuit's injection order enters the L port of its source router in an owned slot. -/
def injectStep (s : State) (k : Nat) : State :=
  let c := getCircuit s k
  match injHead s c, injectDue s c with
  | some (b, l), some t =>
    if t ≤ s.wheel then
      let s := setCircuit s k { c with inj := l, lastInj := some t }
      { noteLeft s b t with words := s.words ++ [⟨t, false, injectPort c, k, b.beat, b.src, none⟩] }
    else s
  | _, _ => s

/-! ## Edge counts and lost beats (R462, R489) -/

/-- A lost beat of a circuit: its receive ports overflow, or the receiving context is told (R489). -/
def lostBeat (s : State) (key kind : Nat) : State :=
  if kind ≤ 1 then
    { s with cores := s.cores.map fun k => (k.1, { k.2 with slots := k.2.slots.map fun th =>
        { th with rx := th.rx.map fun r => if r.circ = some key then { r with overflow := true } else r } }) }
  else if kind ≤ 4 then notifyCtx s (getCircuit s key).ctx
  else s

/-- A beat crosses an edge lane of a tower (R462 counter 0). -/
def countEdge (s : State) (r : Nat) : State :=
  if isDomeRouter r then s else (dieCtxs s (r / 64)).foldl (fun s c => countRaw s c 0 1) s

/-! ## Forwarding (R342, R343, R355) -/

/-- Directions of an output set. -/
def outDirs (n : Nat) : List Nat := (List.range 5).filter fun d => n.testBit d

/-- A copy of a word leaves a router: to the next router unless the edge loses it (R341), to the core, off the panel through a port, or
nowhere. -/
def forwardOut (s : State) (f : Flight) (d : Nat) : State :=
  let r := f.port / 8
  let leave := f.at_ + routerDelay r
  if d = 4 then
    if isDomeRouter r then s else { s with words := s.words ++ [{ f with at_ := leave + 1, eject := true, port := r }] }
  else if edgeLoses r d leave then
    lostBeat (discardAt s (((nextRouter r d).map (·.1)).getD r)) f.circ (beatKind f.beat)
  else match nextRouter r d with
    | some (r', dir, t) =>
      let s := if t = 0 then s else countEdge (countEdge s r) r'
      { s with words := s.words ++ [{ f with at_ := leave + t, port := 8 * r' + dir }] }
    | none => s

/-- The entry that a word meets at its port (R342). -/
def entryAt (s : State) (port at_ : Nat) : Option Entry := mapFind s.slotTab (1024 * port + at_ % s.W)

/-- The union of every phase's outputs. -/
def allOuts (e : Entry) : Nat := (List.range (e.nph + 1)).foldl (fun m p => m ||| vget e.outs p 0) 0

/-- A marker steps the phase of every entry of the port that belongs to its circuit (R355). -/
def stepPhase (s : State) (port num : Nat) : State :=
  { s with slotTab := s.slotTab.map fun x =>
      if x.1 / 1024 = port ∧ x.2.circ = num then (x.1, { x.2 with cur := (x.2.cur + 1) % (x.2.nph + 1) }) else x }

/-- Remove the i-th word on its way. -/
def takeWord (s : State) (i : Nat) : State := { s with words := s.words.eraseIdx i }

/-- WORD_FORWARD: a word that is no marker passes a router, or is discarded there. -/
def wordForward (s : State) (i : Nat) : State :=
  match s.words[i]? with
  | none => s
  | some f =>
    if s.wheel < f.at_ then s
    else if f.eject then (if 7 ≤ beatKind f.beat && coreSees s f.at_ then discardAt (takeWord s i) f.port else s)
    else if beatKind f.beat = 1 then s
    else
      let s := takeWord s i
      match entryAt s f.port f.at_ with
      | none => discardAt s (f.port / 8)
      | some e =>
        match outDirs (vget e.outs e.cur 0) with
        | [] => discardAt s (f.port / 8)
        | l => l.foldl (fun s d => forwardOut s f d) s

/-- MARKER_PHASE_STEP: a marker passes a router on the union of the phases' outputs and steps them; it reaches L only in the
phase before the step (R355). -/
def markerStep (s : State) (i : Nat) : State :=
  match s.words[i]? with
  | none => s
  | some f =>
    if s.wheel < f.at_ || f.eject || beatKind f.beat != 1 then s
    else
      let s := takeWord s i
      match entryAt s f.port f.at_ with
      | none => discardAt s (f.port / 8)
      | some e =>
        let cur := vget e.outs e.cur 0
        let dirs := (outDirs (allOuts e)).filter fun d => d != 4 || cur.testBit 4
        let s := stepPhase (dirs.foldl (fun s d => forwardOut s f d) s) f.port e.circ
        if dirs.isEmpty then discardAt s (f.port / 8) else s

/-! ## Delivery (R211, R213 to R219, R351, R354) -/

/-- The slots and receive ports of a core that are bound to a circuit. -/
def boundRx (c : Core) (circ : Nat) : List (Nat × Nat) :=
  (List.range 8).flatMap fun i => ((List.range 4).filter fun n => (getRx (slotOf c i) n).circ == some circ).map fun n => (i, n)

/-- A beat reaches a receive port: queue, ring, or the overflow flag (R213, R215). -/
def rxPush (c : Core) (slot n : Nat) (v : Vec) : Core :=
  let r := getRx (slotOf c slot) n
  let put (c : Core) (r : Rx) : Core := setSlot c slot (setRx (slotOf c slot) n r)
  if r.overflow then c
  else if r.q.length < Config.rxDepth ∧ r.rcount = 0 then put c { r with q := r.q ++ [v] }
  else if r.rcount < r.rlen then
    put (tcmPut c (r.rbase + 64 * ((r.rhead + r.rcount) % r.rlen)) 64 v.toNat) { r with rcount := r.rcount + 1 }
  else put c { r with overflow := true }

/-- The word under index i, when its core sees it as a beat of a kind (R353). -/
def arrival (s : State) (i : Nat) (kind : Nat → Bool) : Option Flight :=
  match s.words[i]? with
  | some f => if f.eject && coreSees s f.at_ && kind (beatKind f.beat) then some f else none
  | none => none

/-- What delivery to a core comes to: a quarantined core's router discards (R137). -/
def deliver (s : State) (i : Nat) (f : Flight) (act : Core → Option Core) : State :=
  let s := takeWord s i
  let c := getCore s f.port
  if c.quarantined then discardAt s f.port
  else match act c with
    | some c => sink (setCore s f.port c) (getCircuit s f.circ).ctx
    | none => discardAt s f.port

/-- QUEUE_BEAT: a queue beat or a marker reaches the port bound to its circuit. -/
def queueBeatArrive (s : State) (i : Nat) : State :=
  match arrival s i fun k => k ≤ 1 with
  | none => s
  | some f => deliver s i f fun c =>
      match boundRx c f.circ with
      | [] => none
      | l => some (l.foldl (fun c p => rxPush c p.1 p.2 f.beat.data) c)

/-- FILL: a fill acts on the thread whose receive port is bound to the circuit; without one it is dropped (R128, R211, R351). -/
def fillArrive (s : State) (i : Nat) : State :=
  match arrival s i (· == 2) with
  | none => s
  | some f =>
    let core := getCore s f.port
    if (boundRx core f.circ).isEmpty && !core.quarantined then takeWord s i
    else deliver s i f fun c =>
      match boundRx c f.circ with
      | [] => none
      | (slot, _) :: _ =>
        let r := bitsAt f.beat.env 24 6
        some (setSlot c slot (if bitAt f.beat.env 30 then fillV (slotOf c slot) r f.beat.data
          else fillS (slotOf c slot) r (f.beat.data.setWidth 64)))

/-- The enabled elements of a beat written over the 64 bytes at an address; the words that hold one become Full (R34, R219). -/
def windowWrite (c : Core) (a : Nat) (env : BitVec 88) (v : Vec) : Core :=
  let w := wcWidth (bitsAt env 4 3)
  let on := (List.range (512 / w)).filter (beatEnabled env w)
  let old := mNat c.tcm a 64
  let new := on.foldl (fun m i => m - m / 2 ^ (w * i) % 2 ^ w * 2 ^ (w * i) + vElem w v i * 2 ^ (w * i)) old
  let c := if on.isEmpty then c else tcmPut c a 64 new
  ((on.map fun i => w * i / 64).dedup).foldl (fun c j => setFull c (a + 8 * j) true) c

/-- WINDOW_BEAT (R219). -/
def windowArrive (s : State) (i : Nat) : State :=
  match arrival s i (· == 3) with
  | none => s
  | some f => deliver s i f fun c => some (windowWrite c (64 * bitsAt f.beat.env 8 13) f.beat.env f.beat.data)

/-- TAG_WRITE (R219). -/
def tagArrive (s : State) (i : Nat) : State :=
  match arrival s i (· == 4) with
  | none => s
  | some f => deliver s i f fun c =>
      let a := 8 * bitsAt f.beat.env 8 16
      some (setFull (tcmPut c a 8 (bitsAt f.beat.data 0 16)) a true)

/-! ## Remote matrix commands (11 R243 to R246) -/

/-- The index of the valid grant entry that holds a capability (R243). -/
def grantOf (c : Core) (cap : Word) : Option Nat :=
  (List.range 16).find? fun i => isFull c (32 * i) && mWord c.tcm (32 * i) != 0 && mWord c.tcm (32 * i) == cap

/-- A selector's number as a tile selector. -/
def tileSel (n : Nat) : TileSel := if n = 0 then .a0 else if n = 1 then .a1 else .pair

/-- What a command beat comes to at its target. -/
inductive Remote where
  | accept (m : MCmd) (slot : Nat)
  | refuse (cause : Nat) (tval : Word)
  | hold
deriving DecidableEq, Repr

/-- What the grant table holds for a command beat now: the second word of the valid entry with its capability, and the reply handle
(R243). -/
def readGrant (c : Core) (v : Vec) : Option (Word × Word) :=
  (grantOf c (word (bitsAt v 256 64))).map fun i => (mWord c.tcm (32 * i + 8), mWord c.tcm (32 * i + 16))

/-- The decision on a command beat: the grant read at its arrival, then the checks of the OWNER slot (R243, R246). An `mldb` names no
tile, so TILES is not asked (R246; DESIGN CHOICE, log 113). -/
def decideRemote (c : Core) (grant : Option (Word × Word)) (v : Vec) : Remote × Word :=
  let w0 := word (bitsAt v 0 64)
  let rec_ := word (bitsAt v 64 64)
  let cap := word (bitsAt v 256 64)
  match grant with
  | none => (.refuse 13 cap, 0)
  | some (g, rh) =>
    let kind := bitsAt w0 0 2
    let t := bitsAt w0 4 2
    let bm : BitVec 4 := BitVec.ofNat 4 (bitsAt w0 8 4)
    let owner := bitsAt g 16 3
    let tilesOk := kind == 0 || (tilesOf (tileSel t)).all fun j => bitAt g (4 + j)
    if !bitAt g kind || !tilesOk || bitsAt w0 8 4 &&& bitsAt g 8 4 != bitsAt w0 8 4 || decide (8 ≤ c.remote.length) then
      (.refuse 13 cap, rh)
    else
      let rank := (slotOf c owner).rank
      let mk (k : MKind) (r : Rec) : MCmd := mkCmd c rank k (tileSel t) bm r (bitsAt w0 16 5) (word (bitsAt v 128 64)) rh
      let check (m : MCheck) (k : MKind) : Remote := match m with
        | .ok r => .accept (mk k r) owner
        | .trap cause tval => .refuse cause tval
        | .tag _ => .hold
      if kind ≠ 0 ∧ ownedByOther c owner (tileSel t) = true then (.refuse 6 (word t), rh)
      else match kind with
        | 0 => (check (mldbCheck c rank bm rec_) .mldb, rh)
        | 1 => (check (mmaCheck c rank (tileSel t) bm rec_) .mma, rh)
        | _ => (.accept (mk .vacczr Rec.zero) owner, rh)

/-- A reply beat: KIND 6 with slot and sequence number; bit 0 of the data tells a refusal, then cause, tval and wheel count (R351;
the data's layout is the model's, log 14). -/
def replyBeat (seq slot : Nat) (bad : Bool) (cause : Nat) (tval : Word) (wheel : Nat) : Beat :=
  ⟨BitVec.ofNat 512 ((if bad then 1 else 0) + cause * 2 ^ 8 + tval.toNat * 2 ^ 64 + wheel * 2 ^ 128),
    BitVec.ofNat 88 (6 + seq % 2 ^ 16 * 2 ^ 24 + slot * 2 ^ 40)⟩

/-- The reply circuit that a core's grant names: one of the core's own that is open (R243). -/
def replyCirc (s : State) (core : Nat) (ctx : Nat) (rh : Word) : Option Nat :=
  match openHandle s ctx rh with
  | some k => if endpointCore (getCircuit s k).src = some core then some k else none
  | none => none

/-- Whether a command that reached the core of word i before it waits for its decision. -/
def earlierCommand (s : State) (i : Nat) (f : Flight) : Bool :=
  s.words.zipIdx.any fun w => w.2 != i && w.1.eject && w.1.port == f.port && beatKind w.1.beat == 5 &&
    (decide (w.1.at_ < f.at_) || (w.1.at_ == f.at_ && decide (w.2 < i)))

/-- MATRIX_COMMAND: the target reads the grant of a command beat when it arrives, and decides in arrival order; a tag word that is Empty
holds the decision (R243, R246). An `mma` without rows is admitted and retires as a no-operation at once. -/
def matrixArrive (s : State) (i : Nat) : State :=
  match arrival s i (· == 5) with
  | none => s
  | some f =>
    let c := getCore s f.port
    let grant := f.grant.getD (readGrant c f.beat.data)
    let s := { s with words := s.words.set i { f with grant := some grant } }
    let ctx := (getCircuit s f.circ).ctx
    let seq := bitsAt f.beat.env 24 16
    let slot := bitsAt f.beat.env 40 3
    if c.quarantined then discardAt (takeWord s i) f.port
    else if earlierCommand s i f then s
    else
      let send (s : State) (rh : Word) (b : Beat) : State := match replyCirc s f.port ctx rh with
        | some k => injectBeat s k b .unit
        | none => s
      match decideRemote c grant f.beat.data with
      | (.hold, _) => s
      | (.refuse cause tval, rh) => send (takeWord s i) rh (replyBeat seq slot true cause tval 0)
      | (.accept m _, rh) =>
        let s := takeWord s i
        let s := { s with nextId := s.nextId + 1 }
        let kind : GateKind := if m.kind = .mma then .mma else .plain
        let m := { m with id := s.nextId, sent := f.beat.data, sender := 8 * (getCircuit s f.circ).src + slot, seq := seq, at_ := s.wheel }
        let s := setCore s f.port { c with remote := c.remote ++ [m], gate := c.gate ++ [⟨none, m.id, kind, false, false⟩] }
        send s rh (replyBeat seq slot false 0 0 s.wheel)

/-- COMMAND_REPLY: a reply reaches the waiting `mcmd` of its slot, or is discarded (R245). -/
def replyArrive (s : State) (i : Nat) : State :=
  match arrival s i (· == 6) with
  | none => s
  | some f =>
    let s := takeWord s i
    let t : Tid := ⟨f.port / 64, f.port % 64, bitsAt f.beat.env 40 3⟩
    match (getThread s t).mwait with
    | some m =>
      if m.seq % 2 ^ 16 = bitsAt f.beat.env 24 16 then
        if bitAt f.beat.data 0 then failWait s t (bitsAt f.beat.data 8 8) (word (bitsAt f.beat.data 64 64)) false
        else giveKey (modThread s t fun th => { th with mwait := none }) t m.key (some (natBytes 8 (bitsAt f.beat.data 128 64)))
      else s
    | none => s

/-- MCMD_TIMEOUT: no reply within 16 revolution boundaries after the beat left (R245). -/
def mcmdTimeout (s : State) (t : Tid) : State :=
  match (getThread s t).mwait with
  | some m =>
    (match m.leftAt with
    | some w => if w / s.W + 16 ≤ revNow s then failWait s t 13 m.cap false else s
    | none => s)
  | none => s

/-- The port of an `mcmd` that waits at step 5 and whose circuit has been closed, before its beat has a place or after (R245). -/
def closedPort (s : State) (t : Tid) : Option Nat :=
  let th := getThread s t
  match th.mwait, th.inflight.bind fun f => f.waits.head? with
  | some m, _ => if circOpen (getCircuit s m.circ) s.wheel then none else some m.port
  | none, some (.room n) => if (liveCirc s (getTx th n)).isNone then some n else none
  | none, _ => none

/-- An `mcmd` whose circuit has been closed traps access-fault (R245). -/
def mcmdClosed (s : State) (t : Tid) : State :=
  match closedPort s t with
  | some n => failWait s t 6 (word (32 + n)) false
  | none => s

/-! ## Table writes and configuration beats (R339, R355, R362) -/

/-- A table write at its router: it clears its own circuit's entry alone (R371); a new entry takes the phase of its circuit's other entries on the port (R362). -/
def applyTab (s : State) (w : TabWrite) : State :=
  match w.entry with
  | none => { s with slotTab := s.slotTab.filter fun x => x.1 != w.key || x.2.circ != w.circ }
  | some e =>
    let cur := ((s.slotTab.find? fun x => x.1 / 1024 == w.key / 1024 && x.2.circ == e.circ).map fun x => x.2.cur).getD 0
    { s with slotTab := mapSet s.slotTab w.key { e with cur := cur } }

/-- CONFIG_BEAT: a configuration beat moves one die, and its hub takes the writes it carries (R339). -/
def configBeat (s : State) (i : Nat) : State :=
  match s.cfgBeats[i]? with
  | none => s
  | some b =>
    if s.wheel < b.at_ then s
    else if b.left = 0 then { s with cfgBeats := s.cfgBeats.eraseIdx i, tabWrites := s.tabWrites ++ b.writes }
    else { s with cfgBeats := s.cfgBeats.set i { b with left := b.left - 1, at_ := b.at_ + s.W } }

/-- RECEIVE_PORT_CLOSE_UNBIND: after a close, an empty port whose circuit has nothing left on its way becomes unbound (R362). -/
def receiveUnbind (s : State) (t : Tid) (p : Nat) : State :=
  let r := getRx (getThread s t) p
  match r.circ with
  | none => s
  | some k =>
    let c := getCircuit s k
    if !circOpen c s.wheel && r.q.isEmpty && r.rcount == 0 && (s.words.all fun f => f.circ != k) then
      modThread s t fun th => setRx th p Rx.reset
    else s

end Sys2Proof.Machine
end

