-- ==== Sys2Proof/Machine/Launches.lean ====
section
/-! DEFINITION. Landing segments, ending threads and tasks, launches, scheduling and completion records (spec/07 R130 to R133, spec/06
R104, spec/15 R317 to R332, spec/21 R412, R414). -/

namespace Sys2Proof.Machine

set_option Elab.async false

/-! ## Landing a segment (R132, R133) -/

/-- n bytes of a segment image at an offset, or the cause of R109 that the read meets. -/
def readImage (s : State) (die : Nat) (x : SegSrc) (off n : Nat) : State × Except Nat (List Byte) :=
  if x.space = .d then
    match sramAddr s x.ctx (x.addr + off) n with
    | none => (s, .error 6)
    | some a =>
      (findErrors s die x.ctx (.sram a) n,
        if homePoison s die (.sram a) n then .error 14 else .ok (natBytes n (homeNat s die (.sram a) n)))
  else
    match readVa s die x.ctx x.region x.mode (x.addr + off) n .rx with
    | (s, .error e) => (s, .error e.1)
    | (s, .ok none) => (s, .error 14)
    | (s, .ok (some v)) => (s, .ok (natBytes n v))

/-- n bundles of an image from bundle i on (R131). -/
def readBundles (s : State) (die : Nat) (x : SegSrc) : Nat → Nat → State × Except Nat (List Bundle)
  | _, 0 => (s, .ok [])
  | i, n + 1 =>
    match readImage s die x (64 + 16 * i) 16 with
    | (s, .error e) => (s, .error e)
    | (s, .ok b) =>
      match readBundles s die x (i + 1) n with
      | (s, .error e) => (s, .error e)
      | (s, .ok l) => (s, .ok (BitVec.ofNat 128 (bytesNat b) :: l))

/-- The result of a landing, and the segment where it succeeds (R132). -/
def landResult (s : State) (die : Nat) (c : Core) (l : Landing) : State × Word × Option Segment :=
  let n := hdrLen l.hdr
  if !hdrValid l.hdr then (s, 0x8000000000000040, none)
  else if Config.storeFrames < framesUsed c + ceilDiv n 64 then (s, 0x8000000000000041, none)
  else
    match readBundles s die l.src 0 n with
    | (s, .error e) => (s, word (2 ^ 63 + e), none)
    | (s, .ok b) => (s, word n, some ⟨l.seg, n, l.src, b⟩)

/-- A landing ends: the segment is landed all at once, and the flag word reports (R132, R133). -/
def landNow (s : State) (die core : Nat) (l : Landing) : State × Bool :=
  if l.poisoned then (s, false)
  else
    let k := coreKey die core
    let (s, w, g) := landResult s die (getCore s k) l
    let s := modCore s k fun c =>
      let c := match g with
        | some g => { dropSeg c l.seg with segs := (dropSeg c l.seg).segs ++ [g] }
        | none => c
      if hdrFen l.hdr then
        let f := hdrFlag l.hdr / 8 * 8
        setFull (tcmPut c f 8 w.toNat) f true
      else c
    (s, g.isSome)

/-- SEGMENT_LANDED: the oldest landing of a segment number on a core ends (R133). -/
def segmentLanded (s : State) (die core seg : Nat) : State :=
  let k := coreKey die core
  let c := getCore s k
  match c.landings.findIdx? fun l => l.seg == seg, c.landings.find? fun l => l.seg == seg with
  | some i, some l =>
    let s := setCore s k { c with landings := c.landings.eraseIdx i }
    if c.quarantined then s else (landNow s die core l).1
  | _, _ => s

def execSegmentLanded (s : State) : Out := .next (segmentLanded s s.arg.die s.arg.unit s.arg.i)

/-! ## Host queues (21 R414 to R416) -/

/-- Whether a completion queue holds 2^CQLOG2 − 1 unread records (R416). -/
def cqFull (f : Func) : Bool := (f.cqtail + 1) % 2 ^ f.cqlog2 == f.cqhead

/-- Write one record of 32 bytes at the queue's tail and raise its vector, 0 or that of a hang report, where MSIE is 1 (R414, R415; log 64). -/
def cqWrite (s : State) (k : Nat) (vector v : Nat) : State :=
  let f := getFunc s k
  if f.cqen then
    let s := { s with hostMem := mPut s.hostMem (k / 512 * 2 ^ 64 + f.cqbase.toNat + 32 * f.cqtail) 32 v }
    setFunc s k { f with
      cqtail := (f.cqtail + 1) % 2 ^ f.cqlog2
      raised := if f.msie then vset f.raised vector (vget f.raised vector 0 + 1) else f.raised }
  else s

/-- The bytes of a record (R328). -/
def recordNat (status handle ordsig wheel : Nat) : Nat :=
  status % 256 + handle % 2 ^ 64 * 2 ^ 64 + ordsig % 2 ^ 64 * 2 ^ 128 + wheel % 2 ^ 64 * 2 ^ 192

/-- A record for a context's host queue, with the wheel count that it reports, joins those that wait to be written. -/
def addRecord (s : State) (ctx status handle vector wheel : Nat) : State :=
  modCtx s ctx fun c => { c with records := c.records ++ [⟨status, handle, 0, wheel, vector⟩] }

/-! ## Threads that end (R104, R328) -/

/-- A thread that retires is gone from every group that it joined (R377). -/
def leaveSpire (s : State) (t : Tid) : State :=
  (List.range 32).foldl (fun s ch =>
    let c := getSpire s ch
    if c.members.any fun m => m.t == t && m.gone.isNone then spireGone s (leafPos t) ch else s) s

/-- The joins of a thread that is no more are dropped. -/
def dropJoins (s : State) (t : Tid) : State :=
  { s with spire := s.spire.map fun c =>
      if c.2.joins.any fun j => j.t == t then (c.1, { c.2 with joins := c.2.joins.filter fun j => j.t != t }) else c }

/-- A slot of a tower has become Vacant: its scheduler has a selection to make for every context that has a task queued (R329). -/
def slotVacant (s : State) (die : Nat) : State := modDie s die fun d => { d with pick := (d.queue.map (·.ctx)).dedup }

/-- The slot becomes Vacant: requests at the gate, tiles and gang membership go; the sequence counter stays (R104, R241, R245, R272). -/
def vacate (s : State) (t : Tid) : State :=
  let s := dropJoins (withdrawGate s t) t
  let s := slotVacant s t.die
  let s := match (getThread s t).gang with
    | some g => if gangLeader t g.k = t then
        (gangMembers t g.k).foldl (fun s m => modThread s m fun th => match th.gang with
          | some h => if h.k = g.k ∧ h.forming = false then { th with gang := none } else th
          | none => th) s
      else s
    | none => s
  let s := modCore s (tidKey t) fun c => { c with owner := c.owner.map fun o => if o = some t.slot then none else o }
  modThread s t fun th => keepH th { Thread.reset with mcmdSeq := th.mcmdSeq }

/-- A thread is ended from outside: its unaccepted requests go, those accepted reply to nobody, and its send queues are discarded
(R328). -/
def endThread (s : State) (t : Tid) : State :=
  let s := modDie s t.die fun d => { d with reqs := (d.reqs.filter fun r => r.tid != t || isAccepted r || ofEngine r).map fun r =>
    if r.tid = t then { r with dest := .none } else r }
  let s := { s with circuits := s.circuits.map fun c => (c.1, { c.2 with inj := c.2.inj.filter fun b => match b.src with
    | .tx u _ => u != t
    | _ => true }) }
  vacate s t

/-- The threads that run a context's task, or any task of a region. -/
def threadsWhere (s : State) (p : Thread → Bool) : List Tid :=
  s.cores.flatMap fun c => ((List.range 8).filter fun i => hasThread (slotOf c.2 i) && p (slotOf c.2 i)).map fun i => ⟨c.1 / 64, c.1 % 64, i⟩

/-- A lower non-zero status stands (R328). -/
def minStatus (old new : Nat) : Nat := if old = 0 then new else Nat.min old new

/-- A task has ended: its launch counts one fewer. -/
def endTask (s : State) (ctx id : Nat) : State :=
  match mapFind (getCtx s ctx).tasks id with
  | none => s
  | some k =>
    modLaunch (modCtx s ctx fun c => { c with tasks := mapDel c.tasks id }) ctx k.launch fun l =>
      if k.spawned then { l with spawned := l.spawned - 1 } else { l with left := l.left - 1 }

/-- A thread of a task has retired. -/
def countRetired (s : State) (ctx id : Nat) (triggered : Bool) : State :=
  match mapFind (getCtx s ctx).tasks id with
  | none => s
  | some k =>
    let k' : Task := { k with live := k.live - 1, untrig := if triggered then k.untrig else k.untrig - 1 }
    let s := modCtx s ctx fun c => { c with tasks := mapSet c.tasks id k' }
    if k.live ≤ 1 then endTask s ctx id else s

/-- THREAD_RETIRE: a thread that waits in `halt` retires once its conditions hold; what its bundle's V syllable writes at step 6 is
written (R35, R104). -/
def threadRetire (s : State) (t : Tid) : State :=
  let th := getThread s t
  match th.inflight with
  | some f =>
    if f.waits.head? = some .drain ∧ drained s t = true then
      countRetired (vacate (leaveSpire (applyEffs t f.got (endPark s t) f.eff6) t) t) th.ctx th.task th.triggered
    else s
  | none => s

def execThreadRetire (s : State) : Out := .next (threadRetire s s.arg.t)

/-! ## Fault completions (R328, R412) -/

/-- A launch completes with a status as soon as its transfers have: nothing of it is left to run (R328, R412). -/
def cutLaunch (s : State) (ctx h status : Nat) : State :=
  let s := { s with belfry := s.belfry.map fun b => (b.1, b.2.filter fun r => !(r.ctx == ctx && r.launch == some h)) }
  modLaunch s ctx h fun l =>
    { l with stage := .running, left := 0, unbound := 0, spawned := 0, status := minStatus l.status status }

/-- The threads of a region that the keep holds of a context, or of a region, that is switched out are no more. -/
def endSaved (s : State) (ctx region : Nat) : State :=
  let slot (th : Thread) : Thread := if hasThread th && th.region == region then { Thread.reset with mcmdSeq := th.mcmdSeq } else th
  modCtx s ctx fun c => { c with savedCores := c.savedCores.map fun k => (k.1, { k.2 with slots := k.2.slots.map slot }) }

/-- Every launch of a region completes with status 1; its threads retire, its queued tasks are discarded (R412). -/
def endRegion (s : State) (ctx region : Nat) : State :=
  let s := (threadsWhere s fun th => th.ctx == ctx && th.region == region).foldl (fun s t => endThread (leaveSpire s t) t) (endSaved s ctx region)
  let s := { s with dies := s.dies.map fun d => (d.1, { d.2 with
    queue := d.2.queue.filter fun k => !(k.ctx == ctx && k.region == region)
    selected := d.2.selected.filter fun k => !(k.1.ctx == ctx && k.1.region == region) }) }
  let s := modCtx s ctx fun c => { c with tasks := c.tasks.filter fun k => k.2.region != region }
  ((getCtx s ctx).launches.filter fun l => l.2.stage != .done && lBits l.2.blk 0x08 16 6 == region).foldl
    (fun s l => cutLaunch s ctx l.1 1) s

/-- The effect of a region's fault domain (R412). -/
def faultDomain (s : State) (ctx region : Nat) : State :=
  match effBits s ctx region 1 0x00 28 2 with
  | 1 => endRegion s ctx region
  | 2 => notifyCtx (addRecord ((List.range 64).foldl (fun s r => endRegion s ctx r) s) ctx 16 0 0 s.wheel) ctx
  | _ => s

/-- A task ends with a fault completion of a status (R328, R412): its threads that had neither triggered nor retired never do (R326). -/
def taskFault (s : State) (ctx id status : Nat) : State :=
  match mapFind (getCtx s ctx).tasks id with
  | none => s
  | some k =>
    let s := (threadsWhere s fun th => th.ctx == ctx && th.task == id).foldl endThread s
    let s := modLaunch s ctx k.launch fun l =>
      { l with status := minStatus l.status status, lost := if k.spawned then l.lost else l.lost + k.untrig }
    faultDomain (endTask s ctx id) ctx k.region

def execTaskFaultEnd (s : State) : Out := .next (taskFault s s.arg.ctx s.arg.i 1)

/-! ## Dependences and the start of a launch (R322, R326 to R328, R374) -/

/-- Whether a dependence word is met (R326). -/
def depMet (s : State) (ctx : Nat) (w : Word) : Bool :=
  let h := bitsAt w 0 62
  if h = 0 then true
  else match getLaunch s ctx h with
    | none => true
    | some l => l.stage == .done || (bitAt w 63 && l.unbound == 0 && l.lost == 0 &&
        (getCtx s ctx).tasks.all fun k => k.2.launch != h || k.2.spawned || k.2.untrig == 0)

/-- Whether a dependence with ABORT names a launch that ended without success (R327). -/
def depAborts (s : State) (ctx : Nat) (w : Word) : Bool :=
  bitAt w 62 && match getLaunch s ctx (bitsAt w 0 62) with
    | some l => l.stage == .done && l.status != 0
    | none => false

def deps (b : Vector Word 16) : List Word := (List.range 4).map fun j => vget b (8 + j) 0

/-- The tower whose agent the keep reads a context's memory through. -/
def homeTower (s : State) (ctx : Nat) : Nat := ((ctxTowers s ctx).head?).getD 0

/-- The entry of the placement map, as tower and affinity; none where it is not valid (R322). -/
def placeEntry (s : State) (ctx i e : Nat) : Option (Nat × Bool) :=
  let l := ctxTowers s ctx
  if e / 512 ≠ 0 then none
  else if e % 256 = 255 then (if e / 256 = 1 then none else some ((l[i % l.length]?).getD 0, false))
  else if ctxTower s ctx (e % 256) then some (e % 256, e / 256 == 1) else none

/-- n placements from task i on. -/
def readPlace (s : State) (ctx region mode pmap : Nat) : Nat → Nat → State × Option (List (Nat × Bool))
  | _, 0 => (s, some [])
  | i, n + 1 =>
    let (s, e) : State × Option Nat := if pmap = 0 then (s, some 255) else
      match readVa s (homeTower s ctx) ctx region mode (pmap + 2 * i) 2 .r with
      | (s, .ok (some v)) => (s, some v)
      | (s, _) => (s, none)
    match e.bind (placeEntry s ctx i), readPlace s ctx region mode pmap (i + 1) n with
    | some p, (s, some l) => (s, some (p :: l))
    | _, (s, _) => (s, none)

/-- The task of a launch with linear index i (R318, R319). -/
def launchTask (ctx h id i : Nat) (b : Vector Word 16) (hard : Bool) : Task :=
  { id := id, ctx := ctx, launch := h, index := i, spawned := false,
    entry := word (lBits b 0x08 32 12 * 2 ^ 16 + lBits b 0x08 48 12 * 16), segaddr := vget b 2 0, arg := vget b 13 0,
    thr := lBits b 0x08 0 3 + 1, gang := lBits b 0x08 4 2, pri := lBits b 0x08 8 3, region := lBits b 0x08 16 6,
    mode := lBits b 0x08 24 1, hard := hard, live := 0, untrig := 0 }

/-- Step 2 of R328: the tasks join the queues of their towers. -/
def queueTasks (s : State) (ctx h : Nat) : State :=
  match getLaunch s ctx h with
  | none => s
  | some l =>
    let s := (List.range l.place.length).foldl (fun s i =>
      let p := (l.place[i]?).getD (0, false)
      let c := getCtx s ctx
      enqueueTask (setCtx s ctx { c with nextTask := c.nextTask + 1 }) p.1 (launchTask ctx h c.nextTask i l.blk p.2)) s
    modLaunch s ctx h fun l => { l with stage := .running, place := [] }

/-- The bytes of an OPEN request for a descriptor (R359). -/
def openBlock (desc : Nat) : List Byte := natBytes 16 0 ++ natBytes 8 desc ++ natBytes 40 0

/-- The belfry is asked for the circuits of a launch (R328). -/
def askCircuits (s : State) (ctx h n : Nat) (b : Vector Word 16) : State :=
  let at_ := s.wheel + (dieX (homeTower s ctx) + 1) * s.W
  let l := (List.range n).map fun j => (⟨⟨homeTower s ctx, 0, 0⟩, j, ctx, lBits b 0x08 16 6, lBits b 0x08 24 1,
    (vget b 7 0).toNat + 8 * j, openBlock ((vget b 6 0).toNat + 64 * j), at_, some h⟩ : BelReq)
  let s := { s with belfry := mapSet s.belfry ctx (mapGet [] s.belfry ctx ++ l) }
  modLaunch s ctx h fun l => { l with stage := .opening n }

/-- The broadcast records of a launch. -/
def readShapes (s : State) (ctx region mode a : Nat) : Nat → State × Option (List Rec)
  | 0 => (s, some [])
  | n + 1 =>
    match readVa s (homeTower s ctx) ctx region mode a 64 .r with
    | (s, .ok (some v)) =>
      let w (i : Nat) : Word := word (v / 2 ^ (64 * i))
      (match readShapes s ctx region mode (a + 64) n with
      | (s, some l) => (s, some (⟨w 0, w 1, w 2, w 3, w 4, w 5, w 6, w 7⟩ :: l))
      | (s, none) => (s, none))
    | (s, _) => (s, none)

/-- The launch's spire channel, once its dependences are met: held, still held by another, or outside the context's set (R374). -/
def takeSpire (s : State) (ctx h : Nat) (b : Vector Word 16) : Option (Option State) :=
  if lBits b 0x20 37 1 = 0 then some (some s)
  else
    let ch := lBits b 0x20 32 5
    if cBits s ctx 0x28 ch 1 = 0 then none
    else match (getSpire s ch).holder with
      | none => some (some (modSpire s ch fun c => { c with holder := some (ctx, h) }))
      | some x => if x = (ctx, h) then some (some s) else some none

/-- LAUNCH_READY: a launch whose dependences are met starts, is aborted, or completes (R326 to R328). -/
def launchReady (s : State) (ctx h : Nat) : State :=
  match getLaunch s ctx h with
  | none => s
  | some l =>
    let b := l.blk
    if l.stage ≠ .waiting then s
    else if (deps b).any (depAborts s ctx) then cutLaunch s ctx h 5
    else if !(deps b).all (depMet s ctx) then s
    else
      let region := lBits b 0x08 16 6
      let md := lBits b 0x08 24 1
      match takeSpire s ctx h b with
      | none => cutLaunch s ctx h 3
      | some none => s
      | some (some s) =>
        if lTasks b = 0 then modLaunch s ctx h fun l => { l with stage := .running }
        else match readPlace s ctx region md (vget b 5 0).toNat 0 (lTasks b) with
        | (s, none) => cutLaunch s ctx h 2
        | (s, some place) =>
          match readShapes s ctx region md (vget b 3 0).toNat (lBits b 0x20 20 4) with
          | (s, none) => cutLaunch s ctx h 2
          | (s, some shapes) =>
            let s := modLaunch s ctx h fun l => { l with shapes := shapes, place := place }
            let n := lBits b 0x20 24 5
            if n = 0 then queueTasks s ctx h else askCircuits s ctx h n b

def execLaunchReady (s : State) : Out := .next (launchReady s s.arg.ctx s.arg.i)

/-! ## Selection (R318, R320, R329, R330) -/

/-- The physical x that the map of a row leaves out, 8 for the spare (R138). -/
def holeOf (s : State) (die row : Nat) : Nat := (mapFind s.shifted (8 * die + row)).getD 8

/-- Physical core (x, y) of a tower as the keep numbers it. -/
def physNum (x y : Nat) : Nat := 16 * y + x

/-- Whether the physical core that the map of a row leaves out is sound. -/
def spareFree (s : State) (die row : Nat) : Bool := !(getDie s die).bad.contains (physNum (holeOf s die row) row)

/-- The architectural x of a row whose core is quarantined and awaits the spare (R138). -/
def shiftAt (s : State) (die row : Nat) : Option Nat :=
  if spareFree s die row then
    (List.range 8).find? fun x => (getCore s (coreKey die (8 * row + x))).quarantined && !(getDie s die).absent.contains (8 * row + x)
  else none

/-- The architectural x that change when the core at x q gives way to the physical core that the map leaves out. -/
def shiftRange (hole q : Nat) : List Nat := if q < hole then (List.range hole).drop q else (List.range (q + 1)).drop hole

/-- Whether the map of a core's row is about to shift under it (R138). -/
def rowShifts (s : State) (die core : Nat) : Bool :=
  match shiftAt s die (coreY core) with
  | some q => (shiftRange (holeOf s die (coreY core)) q).contains (coreX core)
  | none => false

/-- Whether a task may be placed on a core: it is in service, and its cluster holds no thread of another context or region (R138,
R249, R411). -/
def coreFree (s : State) (die core : Nat) (ctx region : Nat) : Bool :=
  !(getDie s die).absent.contains core && !(getCore s (coreKey die core)).quarantined && !rowShifts s die core &&
  !(getCluster s (clusterKey die (clusterOf core))).failed &&
  (List.range 8).all fun i => (getCore s (coreKey die (coreAt (clusterOf core) i))).slots.toList.all fun th =>
    !hasThread th || (th.ctx == ctx && th.region == region)

/-- The image of a task's segment (R320). -/
def taskSrc (k : Task) : SegSrc := ⟨.g, k.ctx, k.region, k.mode, k.segaddr.toNat⟩
def taskSeg (k : Task) : Nat := bitsAt k.entry 16 12

def sameImage (a b : SegSrc) : Bool := a.space == b.space && a.ctx == b.ctx && a.region == b.region && a.addr == b.addr

/-- Whether a core can hold a task's code beside what its bound threads run (R320). -/
def codeFits (c : Core) (k : Task) : Bool :=
  match findSeg c (taskSeg k) with
  | some g => sameImage g.src (taskSrc k) || c.slots.toList.all fun th => !hasThread th
  | none => true

def vacantSlots (c : Core) : List Nat := (List.range 8).filter fun i => (slotOf c i).run == .vacant

/-- The cores and slots that a task would bind to: the lowest that fit (R318; log 17). -/
def taskPlace (s : State) (die : Nat) (k : Task) : Option (List Nat × List Nat) :=
  let g := 2 ^ k.gang
  (List.range 64).findSome? fun i =>
    let cores := if g = 1 then [i] else (List.range g).map fun j => coreAt (i / 8) (i % 8 / g * g + j)
    if g ≠ 1 ∧ i % 8 % g ≠ 0 then none
    else
      let slots := (List.range 8).filter fun n => cores.all fun c => (vacantSlots (getCore s (coreKey die c))).contains n
      if k.thr ≤ slots.length ∧ (cores.all fun c => coreFree s die c k.ctx k.region && codeFits (getCore s (coreKey die c)) k) = true then
        some (cores, slots.take k.thr)
      else none

/-- The level at which a task is selected (R329). -/
def taskLevel (s : State) (k : Task) : Nat := Nat.min k.pri (effBits s k.ctx k.region 0 0x00 24 3)

/-- Regions in ascending number, starting after the one served last. -/
def regionsAfter (last : Option Nat) : List Nat := match last with
  | some r => (List.range 64).map fun i => (r + 1 + i) % 64
  | none => List.range 64

/-- The task of a context that selection takes, with its level (R329). -/
def chooseTask (s : State) (die ctx : Nat) : Option (Task × Nat) :=
  let d := getDie s die
  (List.range 8).reverse.findSome? fun lv =>
    (regionsAfter (mapFind d.served (8 * ctx + lv))).findSome? fun r =>
      match d.queue.find? fun k => k.ctx == ctx && k.region == r && taskLevel s k == lv with
      | some k => if (taskPlace s die k).isSome then some (k, lv) else none
      | none => none

/-- Whether a context runs and is not at a switch. -/
def ctxActive (s : State) (ctx region : Nat) : Bool :=
  !(getCtx s ctx).out && !(getCtx s ctx).outRegions.contains region && !ctxFrozen s ctx region

/-- TASK_SELECT: the scheduler of a die selects one task of a context (R329). -/
def taskSelect (s : State) (die ctx : Nat) : State :=
  if (getDie s die).selected.any fun k => k.1.ctx == ctx then s
  else match chooseTask s die ctx with
    | none => s
    | some (k, lv) => modDie s die fun d => { d with
        queue := d.queue.filter fun x => !(x.ctx == ctx && x.id == k.id)
        selected := d.selected ++ [(k, lv)]
        pick := setDel d.pick ctx
        served := mapSet d.served (8 * ctx + lv) k.region }

def execTaskSelect (s : State) : Out := .next (taskSelect s s.arg.die s.arg.ctx)

/-! ## Binding (R319, R320) -/

/-- A task's segment lands on a core as by a `cfetch`, whose address is a multiple of 64 (R132), unless it has landed from the same
image. -/
def landTask (s : State) (die core : Nat) (k : Task) : State × Bool :=
  let key := coreKey die core
  match findSeg (getCore s key) (taskSeg k) with
  | some g => if sameImage g.src (taskSrc k) then (s, true) else go (modCore s key fun c => dropSeg c (taskSeg k)) key
  | none => go s key
where
  go (s : State) (key : Nat) : State × Bool :=
    if k.segaddr.toNat % 64 ≠ 0 then (s, false)
    else match readImage s die (taskSrc k) 0 64 with
    | (s, .error _) => (s, false)
    | (s, .ok hdr) =>
      let l : Landing := ⟨taskSeg k, hdr, taskSrc k, ⟨die, core, 0⟩, false⟩
      let s := modCore s key fun c => { startLanding c l with landings := c.landings }
      landNow s die core l

/-- Land on every core of a list; whether all have landed. -/
def landAll (s : State) (die : Nat) (k : Task) (cores : List Nat) : State × Bool :=
  cores.foldl (fun (p : State × Bool) c => if p.2 then landTask p.1 die c k else p) (s, true)

/-- The thread that a task binds to a slot (R27, R319, R320). -/
def boundThread (old : Thread) (k : Task) (rank : Word) (idx : Nat) (shdst : Nat) : Thread :=
  let put (th : Thread) (r : Nat) (v : Word) : Thread := putS th r v .full
  let th := keepH old { Thread.reset with
    run := .running
    pc := k.entry
    status := word k.mode
    ctx := k.ctx
    region := k.region
    launch := k.launch
    task := k.id
    rank := if k.spawned then 0 else rank.toNat
    index := idx
    mcmdSeq := old.mcmdSeq
    gang := if k.gang = 0 then none else some ⟨k.gang, false, true, 0⟩ }
  put (put (put (put (put th 2 rank) 3 (word idx)) 4 (if k.spawned then Config.taskHandle k.id else word k.index)) 5 (word shdst)) 6 k.arg

def recWords (r : Rec) : List Word := [r.w0, r.w1, r.w2, r.w3, r.w4, r.w5, r.w6, r.w7]

/-- The broadcast records go to TCM, and every word of them becomes Full (R198, R320). -/
def putShapes (c : Core) (a : Nat) (l : List Rec) : Core :=
  ((l.flatMap recWords).zipIdx).foldl (fun c x => setFull (tcmPut c (a + 8 * x.2) 8 x.1.toNat) (a + 8 * x.2) true) c

/-- A selected task binds to cores and slots. -/
def bindTask (s : State) (die : Nat) (k : Task) (cores slots : List Nat) : State :=
  let l := getLaunch s k.ctx k.launch
  let b := (l.map (·.blk)).getD (Vector.replicate 16 0)
  let shdst := if k.spawned then 0 else lBits b 0x20 0 19
  let g := 2 ^ k.gang
  let n := k.thr * g
  let first := (threadsWhere s fun th => th.ctx == k.ctx).isEmpty
  let s := (cores.zipIdx).foldl (fun s c =>
    let rank : Word := if k.spawned then BitVec.allOnes 64 else word (k.index * g + c.2)
    let s := if k.spawned then s else modCore s (coreKey die c.1) fun x => putShapes x shdst ((l.map (·.shapes)).getD [])
    (slots.zipIdx).foldl (fun s i => modThread s ⟨die, c.1, i.1⟩ fun old => boundThread old k rank i.2 shdst) s) s
  let s := modCtx s k.ctx fun c => { c with
    tasks := mapSet c.tasks k.id { k with live := n, untrig := n }
    sinkAt := if first then s.wheel else c.sinkAt }
  if k.spawned then s else modLaunch s k.ctx k.launch fun l => { l with unbound := l.unbound - 1 }

/-- TASK_BIND: a selected task of a context lands its code and binds, or ends with status 4 (R320). -/
def taskBind (s : State) (die ctx : Nat) : State :=
  match (getDie s die).selected.find? fun k => k.1.ctx == ctx with
  | none => s
  | some (k, _) =>
    if !ctxActive s ctx k.region then s
    else match taskPlace s die k with
      | none => s
      | some (cores, slots) =>
        let s := modDie s die fun d => { d with selected := d.selected.filter fun x => !(x.1.ctx == ctx && x.1.id == k.id) }
        match landAll s die k cores with
        | (s, true) => bindTask s die k cores slots
        | (s, false) =>
          let s := modCtx s ctx fun c => { c with tasks := mapSet c.tasks k.id k }
          let s := if k.spawned then s else modLaunch s ctx k.launch fun l => { l with unbound := l.unbound - 1 }
          taskFault s ctx k.id 4

def execTaskBind (s : State) : Out := .next (taskBind s s.arg.die s.arg.ctx)

/-! ## Completion (R315, R328) -/

/-- Whether a transfer of a launch's threads is under way. -/
def launchTransfers (s : State) (ctx h : Nat) : Bool :=
  s.clusters.any fun c => c.2.chans.toList.any fun ch => ch.q.any fun x => x.ctx == ctx && x.launch == h

/-- Whether a write of a launch's threads has been accepted and is not yet performed: the completion releases every one (R315). -/
def launchWrites (s : State) (ctx h : Nat) : Bool :=
  s.dies.any fun d => d.2.reqs.any fun r => r.ctx == ctx && r.launch == h && isWrite r.kind && isAccepted r && !isPerformed r

/-- LAUNCH_COMPLETE: every task, spawned task and transfer of a launch has ended and its writes have been performed; its spire channel is free (R328, R374, R377). -/
def launchComplete (s : State) (ctx h : Nat) : State :=
  match getLaunch s ctx h with
  | none => s
  | some l =>
    if l.stage = .running ∧ l.left = 0 ∧ l.spawned = 0 ∧ launchTransfers s ctx h = false ∧ launchWrites s ctx h = false then
      let s := { s with spire := s.spire.map fun c => if c.2.holder = some (ctx, h) then (c.1, SpireChan.reset) else c }
      modLaunch s ctx h fun l => { l with stage := .done, wheel := s.wheel }
    else s

def execLaunchComplete (s : State) : Out := .next (launchComplete s s.arg.ctx s.arg.i)

/-- The completed launch of a context whose record comes next: by revolution, then by handle (R328). -/
def nextRecord (s : State) (ctx : Nat) : Option (Nat × Launch) :=
  ((getCtx s ctx).launches.filter fun l => l.2.stage == .done && l.2.ordsig == 0 && lBits l.2.blk 0x20 40 2 != 0 &&
    decide (l.2.wheel / s.W < revNow s)).foldl (fun m l => match m with
      | none => some l
      | some x => if l.2.wheel / s.W < x.2.wheel / s.W then some l else some x) none

/-- Write the record of a launch to its destinations. -/
def writeRecord (s : State) (ctx h : Nat) (l : Launch) : State :=
  let n := (getCtx s ctx).ordsig
  let v := recordNat l.status h n l.wheel
  let cdest := lBits l.blk 0x20 40 2
  let s := modLaunch (modCtx s ctx fun c => { c with ordsig := n + 1 }) ctx h fun l => { l with ordsig := n }
  let s := if cdest % 2 = 1 then cqWrite s (ctxFunc s ctx) 0 v else s
  if 2 ≤ cdest then
    (writeVa s (homeTower s ctx) ctx (lBits l.blk 0x08 16 6) (lBits l.blk 0x08 24 1) (vget l.blk 12 0).toNat 32 v).1
  else s

/-- Whether a record for the host of a context has room (R416). -/
def hostRoom (s : State) (ctx : Nat) : Bool :=
  let f := getFunc s (ctxFunc s ctx)
  !f.cqen || !cqFull f

/-- COMPLETION_RECORD_WRITE: one record of a context is written, the keep's own first (R328, R416). -/
def completionRecordWrite (s : State) (ctx : Nat) : State :=
  match (getCtx s ctx).records, nextRecord s ctx with
  | r :: t, _ =>
    if hostRoom s ctx then
      cqWrite (modCtx s ctx fun c => { c with records := t }) (ctxFunc s ctx) r.vector (recordNat r.status r.handle r.ordsig r.wheel)
    else s
  | [], some (h, l) => if lBits l.blk 0x20 40 1 = 0 ∨ hostRoom s ctx = true then writeRecord s ctx h l else s
  | [], none => s

def execCompletionRecordWrite (s : State) : Out := .next (completionRecordWrite s s.arg.ctx)

/-! ## Stealing (R331) -/

/-- Whether a die is idle for a context: nothing queued, and a cluster on which a task of one thread would fit (R331). -/
def dieIdle (s : State) (die ctx : Nat) : Bool :=
  ((getDie s die).queue.all fun k => k.ctx != ctx) && (List.range 8).any fun cl =>
    let cores := (List.range 8).map (coreAt cl)
    (cores.all fun c => (getCore s (coreKey die c)).slots.toList.all fun th => !hasThread th || th.ctx == ctx) &&
    cores.any fun c => !(getDie s die).absent.contains c && !rowShifts s die c && !(vacantSlots (getCore s (coreKey die c))).isEmpty

/-- The diagonal neighbours of a die that are towers of a context. -/
def diagonals (s : State) (die ctx : Nat) : List Nat :=
  let x := dieX die
  let y := dieY die
  ([(x + 1, y + 1), (x + 1, y - 1), (x - 1, y + 1), (x - 1, y - 1)].filter fun p =>
    (p.1 + x) % 2 = 1 ∧ (p.2 + y) % 2 = 1 ∧ p.1 < 16 ∧ p.2 < 20).map (fun p => siteOf p.1 p.2) |>.filter (ctxTower s ctx)

/-- STEAL_REQUEST_SEND: an idle die asks its neighbours for tasks of a context. -/
def stealSend (s : State) (die ctx : Nat) : State :=
  if dieIdle s die ctx then
    (diagonals s die ctx).foldl (fun s n => modDie s n fun d => { d with steals := d.steals ++ [(die, ctx)] }) s
  else s

def execStealRequestSend (s : State) : Out := .next (stealSend s s.arg.die s.arg.ctx)

/-- Take the last n of those that a predicate holds of: what is left, and what was taken, in order. -/
def takeLast (p : Task → Bool) (n : Nat) (l : List Task) : List Task × List Task :=
  let r := l.reverse.foldl (fun (a : List Task × List Task × Nat) k =>
    if a.2.2 < n ∧ p k = true then (a.1, k :: a.2.1, a.2.2 + 1) else (k :: a.1, a.2.1, a.2.2)) ([], [], 0)
  (r.1, r.2.1)

/-- STEAL_REQUEST: the oldest request at a die takes half of its soft tasks at the lowest level that holds any. -/
def stealServe (s : State) (die : Nat) : State :=
  match (getDie s die).steals with
  | [] => s
  | (thief, ctx) :: t =>
    let s := modDie s die fun d => { d with steals := t }
    let q := (getDie s die).queue
    let soft (lv : Nat) (k : Task) : Bool := k.ctx == ctx && !k.hard && taskLevel s k == lv
    match (List.range 8).find? fun lv => q.any (soft lv) with
    | none => s
    | some lv =>
      let n := ((q.filter (soft lv)).length + 1) / 2
      let (q, got) := (List.range 64).foldl (fun (a : List Task × List Task) r =>
        let (l, x) := takeLast (fun k => soft lv k && k.region == r) (n - a.2.length) a.1
        (l, a.2 ++ x)) (q, [])
      modDie (modDie s die fun d => { d with queue := q }) thief fun d => { d with queue := d.queue ++ got }

def execStealRequest (s : State) : Out := .next (stealServe s s.arg.die)

/-! ## The sink watchdog (R332) -/

/-- Whether the watchdog of a context has run out. -/
def watchdogDue (s : State) (ctx : Nat) : Bool :=
  let c := getCtx s ctx
  let n := cBits s ctx 0x18 32 32
  n != 0 && !c.silent && !c.out && decide (c.sinkAt + n * s.W ≤ s.wheel) && !(threadsWhere s fun th => th.ctx == ctx).isEmpty

/-- SINK_WATCHDOG: no sink of a context with bound threads has retired for its interval; the record holds the count at which it ended. -/
def sinkWatchdog (s : State) (ctx : Nat) : State :=
  if watchdogDue s ctx then
    let w := (getCtx s ctx).sinkAt + cBits s ctx 0x18 32 32 * s.W
    notifyCtx (addRecord (modCtx s ctx fun c => { c with silent := true }) ctx 6 0 2 w) ctx
  else s

def execSinkWatchdog (s : State) : Out := .next (sinkWatchdog s s.arg.ctx)

end Sys2Proof.Machine
end

