-- ==== Sys2Proof/Machine/Belfry.lean ====
section
/-! DEFINITION. The belfry: opening, resizing, closing, joining, leaving and querying circuits, and the changes that take effect at a
revolution boundary (spec/17 R344 to R347, R357 to R364, R370; spec/15 R328; spec/26 R485). -/

namespace Sys2Proof.Machine

set_option Elab.async false

/-! ## Whose turn it is (R361) -/

/-- The oldest request of a context that has arrived; from a switch on, the opens of its launches wait (R372, R421). -/
def belHead (s : State) (ctx : Nat) : Option BelReq :=
  match mapGet [] s.belfry ctx with
  | r :: _ => if r.at_ ≤ s.wheel ∧ (r.launch.isSome && ctxFrozen s ctx r.region) = false then some r else none
  | [] => none

/-- The context served next: round robin in ascending number. -/
def belNext (s : State) : Option Nat :=
  ((List.range 256).map fun i => (s.belTurn + 1 + i) % 256).find? fun c => (belHead s c).isSome

/-- The request that the belfry handles now for a context. -/
def belReady (s : State) (ctx : Nat) : Option BelReq :=
  if s.belFree ≤ s.wheel ∧ belNext s = some ctx then belHead s ctx else none

/-- The belfry has taken a context's request, which occupies it for one revolution (R361: at most 2). -/
def belTaken (s : State) (ctx : Nat) : State :=
  { s with belfry := mapSet s.belfry ctx ((mapGet [] s.belfry ctx).drop 1), belTurn := ctx, belFree := s.wheel + s.W }

/-! ## Request blocks (R359) -/

def bWord (b : List Byte) (off : Nat) : Word := word (bytesNat ((b.drop off).take 8))
def bBits (b : List Byte) (off lo n : Nat) : Nat := bitsAt (bWord b off) lo n
def bCmd (b : List Byte) : Nat := bBits b 0 0 4

/-- Whether a reserved bit of a request block is set, or its CMD is reserved (R359). -/
def blockBad (b : List Byte) : Bool :=
  bBits b 0 4 60 != 0 || bBits b 0x18 10 54 != 0 || bBits b 0x20 21 43 != 0 || bBits b 0x38 0 64 != 0 || decide (5 < bCmd b)

/-- The status words (R360). -/
def belStatus (n : Nat) : Word := if n = 0 then 0 else word (2 ^ 63 + n)

/-- The reply of a request: at E its status reaches the thread. -/
def belReply (s : State) (r : BelReq) (e circ : Nat) (k : ChangeKind) (n : Nat) : State :=
  { s with changes := s.changes ++ [⟨e, circ, k, if r.launch.isSome then none else some (r.t, r.key, belStatus n)⟩] }

/-- The boundary at which an answer without a change arrives. -/
def answerAt (s : State) : Nat := (s.wheel / s.W + 2) * s.W

/-- The boundary E of a change of B configuration beats whose farthest die stands in column Xf (R364). -/
def changeAt (s : State) (b xf : Nat) : Nat := (s.wheel / s.W + b + xf + 3) * s.W

/-! ## Descriptors (R346) -/

def descBad (d : List Byte) (w : Nat) : Bool :=
  let nph := bBits d 0x10 32 2
  let n := bBits d 0x10 0 10
  bBits d 0 21 43 != 0 || bBits d 8 21 43 != 0 || n == 0 || decide (w ≤ n) || bBits d 0x10 10 6 != 0 || bBits d 0x10 26 6 != 0 ||
  bBits d 0x10 34 2 != 0 || bBits d 0x10 37 27 != 0 || (bBits d 0x10 36 1 == 1 && nph != 0) || bBits d 0x30 0 64 != 0 ||
  bBits d 0x38 0 64 != 0 || (List.range 3).any fun k =>
    bBits d (0x18 + 8 * k) 21 43 != 0 || (nph ≤ k && bWord d (0x18 + 8 * k) != 0)

/-- The destinations of the phases. -/
def descDsts (d : List Byte) : List Nat :=
  bBits d 8 0 21 :: (List.range (bBits d 0x10 32 2)).map fun k => bBits d (0x18 + 8 * k) 0 21

/-- Where the route to an endpoint ends on this module: its core, or the bastion of the port to its module (R344, R485). -/
def routeEndOf (s : State) (e : Nat) : Option RouteEnd :=
  if endpointMod e = s.modNo then (endpointCore e).map .core
  else (portTo s (endpointMod e)).map fun p => .bastion (decide (16 ≤ p))

/-- Whether an endpoint may be a destination (R360, R485). -/
def dstOk (s : State) (ctx e : Nat) : Bool :=
  if endpointMod e = s.modNo then endpointOk s ctx e
  else (portTo s (endpointMod e)).isSome && (endpointCore e).isSome

/-- The port that the way to an endpoint crosses, as a link, with the slots after injection (R480). -/
def portLink (s : State) (e : Nat) (route : List RouteHop) : List (Nat × Nat) :=
  if endpointMod e = s.modNo then []
  else match portTo s (endpointMod e), route.getLast? with
    | some p, some h => [(2 ^ 21 + p, h.2.2.1 + routerDelay h.1)]
    | _, _ => []

/-! ## Slots (R339, R345, R370, R480) -/

/-- Injection slots free on every link; a port carries only the slots of its active lanes. -/
def usableSlots (s : State) (links : List (Nat × Nat)) : List Nat :=
  (freeSlots s links).filter fun i => links.all fun l =>
    l.1 < 2 ^ 21 || decide ((i + l.2) % s.W < ((mapFind s.ports (l.1 - 2 ^ 21)).map fun p => p.lanes * s.W / 8).getD 0)

/-- Links on which the budget counts: not the L inputs and outputs of cores (R345). -/
def laneLinks (links : List (Nat × Nat)) : List (Nat × Nat) := links.filter fun l => 2 ^ 21 ≤ l.1 || l.1 % 8 < 4

/-- n slots on the links, beside those kept, within the budgets of a context and region. -/
def pickSlots (s : State) (ctx region : Nat) (links : List (Nat × Nat)) (kept : List Nat) (n g : Nat) : Option (List Nat) :=
  if withinBudget s ctx region (n - kept.length) (laneLinks links) then chooseSlots kept (usableSlots s links) n g s.W else none

/-! ## Numbers (R347) -/

/-- Numbers that open circuits hold. -/
def usedNumbers (s : State) : List Nat :=
  (s.circuits.filter fun c => circOpen c.2 s.wheel).map fun c => circNum c.1

def lowestFree (used : List Nat) : Nat → Nat → Option Nat
  | 0, _ => none
  | n + 1, i => if used.contains i then lowestFree used n (i + 1) else some i

/-- The key of the next circuit: the lowest free number, under the generation after that of its last opening. -/
def nextCircKey (s : State) : Option Nat :=
  (lowestFree (usedNumbers s) 65535 1).map fun n => 65536 * (match mapFind s.gens n with
    | some g => (g + 1) % 2 ^ 32
    | none => 0) + n

/-- A number is opened under a key: its generation is now the key's. -/
def noteGen (s : State) (key : Nat) : State := { s with gens := mapSet s.gens (circNum key) (key / 65536) }

/-- Whether a context, and the region, hold their greatest number of circuits (R360, R410). -/
def circsFull (s : State) (ctx region : Nat) : Bool :=
  let l := s.circuits.filter fun c => c.2.ctx == ctx && c.2.mem.isNone && circOpen c.2 s.wheel
  decide (cBits s ctx 0x20 0 12 ≤ l.length) ||
    decide (effBits s ctx region 4 0x20 0 12 ≤ (l.filter fun c => c.2.region == region).length)

/-! ## Table writes and configuration beats (R339, R362, R364) -/

/-- The writes of one hop for injection slots, at the router's offset after E. -/
def hopWrites (w e num nph : Nat) (h : Hop) (slots : List Nat) (add : Bool) : List TabWrite :=
  slots.map fun i => ⟨e + h.off, num, 1024 * (8 * h.router + h.dir) + (i + h.off) % w, if add then some ⟨num, nph, 0, h.outs⟩ else none⟩

/-- Groups of at most 24 writes. -/
def by24 (l : List TabWrite) : Nat → List (List TabWrite)
  | 0 => []
  | n + 1 => if l.isEmpty then [] else l.take 24 :: by24 (l.drop 24) n

/-- The beats of a change, one group of lists of writes for each router port. -/
def beatsOf (ports : List (List TabWrite)) : List (List TabWrite) := ports.flatMap fun l => by24 l (l.length / 24 + 1)

/-- The circuit as the changes already fixed will leave it: a later request of its context sees every earlier one's effect (R361). -/
def viewCirc (s : State) (key : Nat) : Circuit :=
  (s.changes.filter fun c => c.circ == key).foldl (fun c x => match x.kind with
    | .slots l => { c with slots := l }
    | .join e => { c with dsts := c.dsts ++ [e] }
    | .leave e => { c with dsts := c.dsts.filter (· ≠ e) }
    | _ => c) (getCircuit s key)

/-- The boundary of a change of a circuit: after that of the change before it (R361). -/
def changeAfter (s : State) (key b xf : Nat) : Nat := max (changeAt s b xf) ((getCircuit s key).eff + s.W)

def routerCol (r : Nat) : Nat := routerX r

/-- The beats of a change leave the belfry, one in each revolution, and pass the dies of their row (R339). -/
def sendBeats (s : State) (beats : List (List TabWrite)) : State :=
  { s with cfgBeats := s.cfgBeats ++ (beats.zipIdx).map fun b =>
      ⟨(s.wheel / s.W + 1 + b.2) * s.W, ((b.1.head?).map fun x => routerCol (x.key / 1024 / 8) + 1).getD 0, b.1⟩ }

/-- Column of the farthest die among hops. -/
def farCol (l : List Hop) : Nat := l.foldl (fun m h => max m (routerCol h.router)) 0

/-- The links of a circuit as it stands, a port's included. -/
def circLinks (s : State) (c : Circuit) : List (Nat × Nat) :=
  hopLinks c.hops ++ ((c.dsts.flatMap fun e => match routeEndOf s e, endpointCore c.src with
    | some re, some r => portLink s e (routeCore r re)
    | _, _ => [])).dedup

/-- How long freed slots stay held after E (R362). -/
def lmaxWait (s : State) (l : List Hop) : Nat := ceilDiv (hopsLmax l) s.W * s.W

/-! ## OPEN -/

/-- The circuit that a descriptor describes, with its routes but without slots. -/
def descCircuit (s : State) (ctx region : Nat) (d : List Byte) : Option (Circuit × List (Nat × Nat)) :=
  let src := bBits d 0 0 21
  let dsts := descDsts d
  match endpointCore src with
  | none => none
  | some r =>
    let routes := dsts.map fun e => ((routeEndOf s e).map (routeCore r)).getD []
    let hops := (routes.zipIdx).foldl (fun l x => mergeRoute l x.2 x.1) []
    let links := hopLinks hops ++ ((List.zip dsts routes).flatMap fun x => portLink s x.1 x.2).dedup
    let r0 := routes.headD []
    let f := match dsts.head? with
      | some e => if endpointMod e = s.modNo then 0 else
          ((portTo s (endpointMod e)).bind fun p => (mapFind s.ports p).map (·.f)).getD 0
      | none => 0
    some ({ Circuit.none with
      ctx := ctx, region := region, src := src, dsts := dsts, nph := bBits d 0x10 32 2, mc := bBits d 0x10 36 1 == 1,
      maxgap := bBits d 0x10 16 10, closed := none, hops := hops, hd := routeHd r0, hx := routeHx r0, hm := routeHm r0, fsum := f },
      links)

/-- Open a circuit from a descriptor: its key, or the status of the failure (R346, R347, R360). -/
def openCirc (s : State) (ctx region : Nat) (d : List Byte) : State × Except Nat Nat :=
  let dsts := descDsts d
  let n := bBits d 0x10 0 10
  if descBad d s.W then (s, .error 1)
  else if !endpointOk s ctx (bBits d 0 0 21) || !dsts.all (dstOk s ctx) then (s, .error 4)
  else if (dsts.any fun e => endpointMod e != s.modNo) && !Config.farOpen s.nextId then ({ s with nextId := s.nextId + 1 }, .error 3)
  else if circsFull s ctx region then (s, .error 5)
  else match nextCircKey s, descCircuit s ctx region d with
    | none, _ => (s, .error 5)
    | _, none => (s, .error 4)
    | some key, some (c, links) =>
      match pickSlots s ctx region links [] n c.maxgap with
      | none => (s, .error 3)
      | some slots =>
        let ports (e : Nat) := c.hops.map fun h => hopWrites s.W e (circNum key) c.nph h slots true
        let e := changeAt s (beatsOf (ports 0)).length (farCol c.hops)
        let c := { c with gen := key / 65536, slots := slots, opened := e, eff := e, held := linkSlots s.W links slots }
        (sendBeats (setCircuit (noteGen { s with nextId := s.nextId + 1 } key) key c) (beatsOf (ports e)), .ok key)

/-- Write a doubleword of a request block. -/
def putBlock (s : State) (r : BelReq) (off : Nat) (v : Word) : State × Bool :=
  match writeVa s r.t.die r.ctx r.region r.mode (r.addr + off) 8 v.toNat with
  | (s, .ok _) => (s, true)
  | (s, .error _) => (s, false)

/-- The answer to a request that changes nothing. -/
def belFail (s : State) (r : BelReq) (n : Nat) : State := belReply s r (answerAt s) 0 .none n

/-- Write EFF, and HANDLE of an OPEN, and leave the change to its E. -/
def belDone (s : State) (r : BelReq) (e circ : Nat) (k : ChangeKind) (handle : Option Word) : State :=
  let s := match handle with
    | some h => (putBlock s r 8 h).1
    | none => s
  belReply (putBlock s r 0x30 (word e)).1 r e circ k 0

/-! ## CLOSE (R361, R362) -/

/-- Close a circuit at a boundary E: one beat clears a router port's entries (R364), and its slots stay held until its last beat has
left. -/
def closeAt (s : State) (key e : Nat) : State :=
  let c := getCircuit s key
  let ports := c.hops.map fun h => hopWrites s.W e (circNum key) c.nph h (viewCirc s key).slots false
  let s := setCircuit s key { c with
    closed := some e, eff := e, held := [], freed := c.freed ++ c.held.map fun h => (h, e + lmaxWait s c.hops) }
  sendBeats s ports

/-- The boundary at which a CLOSE of a circuit takes effect. -/
def closeTime (s : State) (key : Nat) : Nat := changeAfter s key (getCircuit s key).hops.length (farCol (getCircuit s key).hops)

/-- The belfry itself closes a circuit. -/
def closeCircuitNow (s : State) (key : Nat) : State :=
  let e := closeTime s key
  let s := closeAt s key e
  { s with changes := s.changes ++ [⟨e, key, .close, none⟩] }

/-- The circuit that a block's HANDLE names, unless an earlier request closes it (R361). -/
def belHandle (s : State) (r : BelReq) : Option Nat :=
  (openHandle s r.ctx (bWord r.blk 8)).filter fun k => (getCircuit s k).closed.isNone

/-! ## The launch's circuits (R328) -/

/-- An open of a launch has failed: what is open is closed, and the launch completes with status 3. -/
def launchOpenFails (s : State) (ctx h : Nat) : State :=
  match getLaunch s ctx h with
  | none => s
  | some l => cutLaunch (l.circs.foldl closeCircuitNow s) ctx h 3

/-- The open of a circuit of a launch, whose handle goes to its slot. -/
def launchOpen (s : State) (r : BelReq) (h : Nat) (d : Option (List Byte)) : State :=
  match d with
  | none => launchOpenFails s r.ctx h
  | some d =>
    match translateNow s r.t.die r.ctx r.region r.mode r.addr .w with
    | (s, .error _) => launchOpenFails s r.ctx h
    | (s, .ok _) =>
      match openCirc s r.ctx r.region d with
      | (s, .error _) => launchOpenFails s r.ctx h
      | (s, .ok key) =>
        match writeVa s r.t.die r.ctx r.region r.mode r.addr 8 (handleOf (getCircuit s key) key).toNat with
        | (s, .error _) => launchOpenFails (closeCircuitNow s key) r.ctx h
        | (s, .ok _) =>
          let s := modLaunch s r.ctx h fun l => { l with circs := l.circs ++ [key] }
          { s with changes := s.changes ++ [⟨(getCircuit s key).opened, key, .open_, none⟩] }

/-- OPEN (R359 to R361). -/
def belOpen (s : State) (ctx : Nat) : State :=
  match belReady s ctx with
  | none => s
  | some r =>
    if bCmd r.blk ≠ 0 then s
    else
      let s := belTaken s ctx
      let desc := (bWord r.blk 0x10).toNat
      if blockBad r.blk || desc % 64 != 0 then (match r.launch with
        | some h => launchOpenFails s ctx h
        | none => belFail s r 1)
      else match readVa s r.t.die r.ctx r.region r.mode desc 64 .r, r.launch with
        | (s, .ok (some v)), some h => launchOpen s r h (some (natBytes 64 v))
        | (s, _), some h => launchOpen s r h none
        | (s, .ok (some v)), none =>
          (match openCirc s r.ctx r.region (natBytes 64 v) with
          | (s, .error n) => belFail s r n
          | (s, .ok key) => belDone s r (getCircuit s key).opened key .open_ (some (handleOf (getCircuit s key) key)))
        | (s, _), none => belFail s r 6

def execOpenCircuit (s : State) : Out := .next (belOpen s s.arg.ctx)

/-- A request on an open circuit: its key, or what it answers. -/
def belOn (s : State) (ctx cmd : Nat) (f : State → BelReq → Nat → Circuit → State) : State :=
  match belReady s ctx with
  | none => s
  | some r =>
    if bCmd r.blk ≠ cmd then s
    else
      let s := belTaken s ctx
      if blockBad r.blk then belFail s r 1
      else match belHandle s r with
        | none => belFail s r 2
        | some key => f s r key (viewCirc s key)

/-- CLOSE (R361, R362). -/
def belClose (s : State) (ctx : Nat) : State :=
  belOn s ctx 2 fun s r key _ =>
    let e := closeTime s key
    belDone (closeAt s key e) r e key .close none

def execCloseCircuit (s : State) : Out := .next (belClose s s.arg.ctx)

/-! ## RESIZE (R361, R362) -/

/-- Fewer slots: the owned slots of highest index go, one beat for each router port (R364). -/
def shrinkTo (s : State) (key : Nat) (l : List Nat) : State × Nat :=
  let c := getCircuit s key
  let gone := (viewCirc s key).slots.filter fun i => !l.contains i
  let ports (e : Nat) := c.hops.map fun h => hopWrites s.W e (circNum key) c.nph h gone false
  let e := changeAfter s key (ports 0).length (farCol c.hops)
  let free := linkSlots s.W (circLinks s c) gone
  let s := setCircuit s key { c with
    eff := e, held := c.held.filter fun h => !free.contains h, freed := c.freed ++ free.map fun h => (h, e + lmaxWait s c.hops) }
  (sendBeats s (ports e), e)

/-- More slots beside those owned. -/
def growTo (s : State) (key : Nat) (l : List Nat) : State × Nat :=
  let c := getCircuit s key
  let new := l.filter fun i => !(viewCirc s key).slots.contains i
  let ports (e : Nat) := c.hops.map fun h => hopWrites s.W e (circNum key) c.nph h new true
  let e := changeAfter s key (beatsOf (ports 0)).length (farCol c.hops)
  let s := setCircuit s key { c with eff := e, held := c.held ++ linkSlots s.W (circLinks s c) new }
  (sendBeats s (beatsOf (ports e)), e)

/-- RESIZE. -/
def belResize (s : State) (ctx : Nat) : State :=
  belOn s ctx 1 fun s r key c =>
    let n := bBits r.blk 0x18 0 10
    if n = 0 ∨ s.W ≤ n then belFail s r 1
    else if n ≤ c.slots.length then
      let l := c.slots.take n
      if c.maxgap ≠ 0 ∧ c.maxgap < maxGapOf l s.W then belFail s r 3
      else
        let (s, e) := shrinkTo s key l
        belDone s r e key (.slots l) none
    else match pickSlots s r.ctx c.region (circLinks s c) c.slots n 0 with
      | none => belFail s r 3
      | some l =>
        let (s, e) := growTo s key l
        belDone s r e key (.slots l) none

def execResizeCircuit (s : State) : Out := .next (belResize s s.arg.ctx)

/-! ## JOIN and LEAVE (R357) -/

/-- A branch to an end from each router of the tree, with its length in slots; the nearest, the first of equals. -/
def bestBranch (l : List Hop) (e : RouteEnd) : Option (List RouteHop) :=
  (l.foldl (fun (m : Option (Nat × List RouteHop)) h =>
    let b := routeGo (laneFor h.router e) e routeFuel h.router h.dir h.off
    let len := ((b.getLast?).map fun x => x.2.2.1).getD h.off - h.off
    match m with
    | some (n, _) => if len < n then some (len, b) else m
    | none => some (len, b)) none).map (·.2)

/-- JOIN. -/
def belJoin (s : State) (ctx : Nat) : State :=
  belOn s ctx 3 fun s r key c =>
    let e := bBits r.blk 0x20 0 21
    if !c.mc then belFail s r 2
    else if !dstOk s r.ctx e then belFail s r 4
    else if c.dsts.contains e then belDone s r (answerAt s) key .none none
    else match (routeEndOf s e).bind (bestBranch c.hops) with
      | none => belFail s r 4
      | some b =>
        let hops := mergeRoute c.hops 0 b
        let old := circLinks s c
        let new := (hopLinks hops ++ portLink s e b).filter fun l => !old.contains l
        if !c.slots.all (usableSlots s new).contains || !withinBudget s r.ctx c.region c.slots.length (laneLinks new) then belFail s r 3
        else
          let changed := hops.filter fun h => !c.hops.contains h
          let ports (t : Nat) := changed.map fun h => hopWrites s.W t (circNum key) c.nph h c.slots true
          let t := changeAfter s key (beatsOf (ports 0)).length (farCol changed)
          let s := modCircuit s key fun x => { x with hops := hops, eff := t, held := c.held ++ linkSlots s.W new c.slots }
          belDone (sendBeats s (beatsOf (ports t))) r t key (.join e) none

def execJoinMember (s : State) : Out := .next (belJoin s s.arg.ctx)

/-- Clear an output of a hop. -/
def clearOut (h : Hop) (d : Nat) : Hop :=
  { h with outs := h.outs.map fun o => if o.testBit d then o - 2 ^ d else o }

/-- Remove hops without outputs, and the outputs that led to them, up to the source's. -/
def pruneTree (src : Nat) : Nat → List Hop → List Hop
  | 0, l => l
  | n + 1, l =>
    match l.find? fun h => (hopOuts h).isEmpty && !(h.router == src && h.dir == 4) with
    | none => l
    | some g => pruneTree src n ((l.filter fun h => h != g).map fun h =>
        (hopOuts h).foldl (fun h d => match nextRouter h.router d with
          | some (r, dir, _) => if r = g.router ∧ dir = g.dir then clearOut h d else h
          | none => h) h)

/-- The tree without a member. -/
def withoutMember (s : State) (c : Circuit) (e : Nat) : List Hop :=
  let src := (endpointCore c.src).getD 0
  let l := match routeEndOf s e with
    | some (.core r) => c.hops.map fun h => if h.router = r then clearOut h 4 else h
    | some (.bastion east) => c.hops.map fun h =>
        if !isDomeRouter h.router && (if east then routerX h.router == 15 && routerCx h.router == 7 else
          routerX h.router == 0 && routerCx h.router == 0) then clearOut h (if east then 1 else 3) else h
    | _ => c.hops
  pruneTree src (l.length + 1) l

/-- LEAVE. -/
def belLeave (s : State) (ctx : Nat) : State :=
  belOn s ctx 4 fun s r key c =>
    let e := bBits r.blk 0x20 0 21
    if !c.mc then belFail s r 2
    else if !c.dsts.contains e then belDone s r (answerAt s) key .none none
    else
      let hops := withoutMember s c e
      let gone := c.hops.filter fun h => !(hops.any fun g => g.router == h.router && g.dir == h.dir)
      let changed := hops.filter fun h => !c.hops.contains h
      let ports (t : Nat) := (changed.map fun h => hopWrites s.W t (circNum key) c.nph h c.slots true) ++
        (gone.map fun h => hopWrites s.W t (circNum key) c.nph h c.slots false)
      let t := changeAfter s key (gone.length + changed.length) (farCol (gone ++ changed))
      let keep := linkSlots s.W (hopLinks hops) c.slots
      let s := modCircuit s key fun x => { x with
        hops := hops, eff := t, held := c.held.filter keep.contains
        freed := c.freed ++ (c.held.filter fun h => !keep.contains h).map fun h => (h, t + lmaxWait s c.hops) }
      belDone (sendBeats s (ports t)) r t key (.leave e) none

def execLeaveMember (s : State) : Out := .next (belLeave s s.arg.ctx)

/-! ## QUERY (R363) -/

/-- The 192 bytes of a QUERY. -/
def queryBytes (s : State) (ctx : Nat) (c : Option Circuit) : List Byte :=
  let budget := cBits s ctx 0x10 0 10 + cBits s ctx 0x10 16 15 * 2 ^ 16
  match c with
  | none => natBytes 32 0 ++ natBytes 8 s.W ++ natBytes 8 budget ++ natBytes 144 0
  | some c =>
    natBytes 8 (c.slots.length + c.nph * 2 ^ 16 + (if c.mc then 2 ^ 20 else 0)) ++
    natBytes 8 (c.hd + c.hx * 2 ^ 16 + c.hm * 2 ^ 32) ++ natBytes 8 c.fsum ++ natBytes 8 c.eff ++ natBytes 8 0 ++
    natBytes 8 budget ++ natBytes 16 0 ++ natBytes 128 (c.slots.foldl (fun v i => v + 2 ^ i) 0)

/-- Write bytes of global memory in pieces of 64; whether every piece was written. -/
def writeBytes (s : State) (r : BelReq) (va : Nat) : Nat → List Byte → State × Bool
  | 0, _ => (s, true)
  | n + 1, l =>
    match writeVa s r.t.die r.ctx r.region r.mode va 64 (bytesNat (l.take 64)) with
    | (s, .ok _) => writeBytes s r (va + 64) n (l.drop 64)
    | (s, .error _) => (s, false)

/-- QUERY; a request with a reserved CMD is answered here too. -/
def belQuery (s : State) (ctx : Nat) : State :=
  match belReady s ctx with
  | none => s
  | some r =>
    if bCmd r.blk < 5 then s
    else
      let s := belTaken s ctx
      let out := (bWord r.blk 0x28).toNat
      if blockBad r.blk || out % 64 != 0 then belFail s r 1
      else
        let h := bWord r.blk 8
        let c := (belHandle s r).map (getCircuit s)
        if h ≠ 0 ∧ c.isNone = true then belFail s r 2
        else
          let ok := (List.range 3).all fun i => match (writeVa s r.t.die r.ctx r.region r.mode (out + 64 * i) 64 0).2 with
            | .ok _ => true
            | .error _ => false
          if !ok then belFail s r 6
          else match writeBytes s r out 3 (queryBytes s ctx (if h = 0 then none else c)) with
            | (s, true) => belReply s r (answerAt s) 0 .none 0
            | (s, false) => belFail s r 6

def execQueryCircuit (s : State) : Out := .next (belQuery s s.arg.ctx)

/-! ## Changes taking effect (R362) -/

/-- Table writes due by a wheel count take effect at their routers. -/
def applyTabs (s : State) (t : Nat) : State :=
  let due := s.tabWrites.filter fun w => w.at_ ≤ t
  due.foldl applyTab { s with tabWrites := s.tabWrites.filter fun w => !decide (w.at_ ≤ t) }

/-- From E of a CLOSE every send port of the circuit is unbound and its beats are discarded; receive ports close as they drain. -/
def closeEffect (s : State) (key : Nat) : State :=
  let s := modCircuit s key fun c => { c with inj := [] }
  { s with cores := s.cores.map fun k => (k.1, { k.2 with slots := k.2.slots.map fun th =>
      { th with
        tx := th.tx.map fun o => if o = some key then none else o
        rx := th.rx.map fun r => if r.circ = some key then { r with closing := true } else r } }) }

/-- A circuit of a launch is open; with the last, the tasks are queued (R328). -/
def launchOpened (s : State) (key : Nat) : State :=
  let ctx := (getCircuit s key).ctx
  match (getCtx s ctx).launches.find? fun l => l.2.circs.contains key with
  | none => s
  | some (h, l) =>
    match l.stage with
    | .opening n =>
      let s := modLaunch s ctx h fun l => { l with stage := .opening (n - 1) }
      if n ≤ 1 then queueTasks s ctx h else s
    | _ => s

/-- What a change does at its E. -/
def changeEffect (s : State) (c : Change) : State :=
  let s := match c.kind with
    | .open_ => launchOpened s c.circ
    | .close => closeEffect s c.circ
    | .slots l => modCircuit s c.circ fun x => { x with slots := l }
    | .join e => modCircuit s c.circ fun x => { x with dsts := x.dsts ++ [e] }
    | .leave e => modCircuit s c.circ fun x => { x with dsts := x.dsts.filter (· ≠ e) }
    | .none => s
  match c.reply with
  | some (t, key, v) => giveKey s t key (some (natBytes 8 v.toNat))
  | none => s

/-- CIRCUIT_CHANGE_EFFECT: the table writes due by wheel count n, and change i where its E has come. -/
def circuitChange (s : State) (i n : Nat) : State :=
  let s := applyTabs s (Nat.min n s.wheel)
  match s.changes[i]? with
  | some c => if c.e ≤ s.wheel then changeEffect { s with changes := s.changes.eraseIdx i } c else s
  | none => s

def execCircuitChangeEffect (s : State) : Out := .next (circuitChange s s.arg.i s.arg.n)

end Sys2Proof.Machine
end

