-- ==== Sys2Proof/Machine/Formats.lean ====
section
/-! DEFINITION. The body formats of a syllable as records of raw fields, each with its reading from bits and its writing
to bits (spec/03_bundle_formats_and_opcode_map.md R44, R46, R47; spec/24_debug_trace_and_counters.md R457). -/

namespace Sys2Proof.Machine

set_option Elab.async false

/-- The header of every syllable above its body (R44). -/
structure FmtHead where
  tt : BitVec 8
  pa : BitVec 3
  pb : BitVec 3
  pc : BitVec 3
  op : BitVec 7
  body : BitVec 40
deriving DecidableEq, Repr

/-- Format SA; `low` is rb, rc and eleven zeros, or the immediate (R46). -/
structure FmtSA where
  rd : BitVec 6
  ra : BitVec 6
  fn : BitVec 4
  i : BitVec 1
  low : BitVec 23
deriving DecidableEq, Repr

/-- Format SL, which is also the layout of `loop` in format SB (R46). -/
structure FmtSL where
  rd : BitVec 6
  imm : BitVec 34
deriving DecidableEq, Repr

/-- Format SC; `low` is rb and sixteen zeros, or the immediate (R46). -/
structure FmtSC where
  pd : BitVec 3
  pe : BitVec 3
  m : BitVec 2
  cond : BitVec 4
  ra : BitVec 6
  low : BitVec 22
deriving DecidableEq, Repr

/-- Format SP (R46). -/
structure FmtSP where
  pd : BitVec 3
  pe : BitVec 3
  m : BitVec 2
  tt : BitVec 8
  qa : BitVec 3
  qb : BitVec 3
  qc : BitVec 3
  rd : BitVec 6
  ra : BitVec 6
  lw : BitVec 3
deriving DecidableEq, Repr

/-- Format SF (R46). -/
structure FmtSF where
  seg : BitVec 12
  entry : BitVec 12
  z : BitVec 16
deriving DecidableEq, Repr

/-- Format SM; `low` is rb, sc, aux and four zeros, or the byte offset (R46). -/
structure FmtSM where
  d : BitVec 6
  ra : BitVec 6
  sp : BitVec 2
  wd : BitVec 2
  sx : BitVec 1
  ord : BitVec 2
  sco : BitVec 4
  i : BitVec 1
  low : BitVec 16
deriving DecidableEq, Repr

/-- Format SG (R46). -/
structure FmtSG where
  x : BitVec 6
  ra : BitVec 6
  rb : BitVec 6
  k : BitVec 1
  fn : BitVec 4
  imm : BitVec 17
deriving DecidableEq, Repr

/-- Format VA; `vc` is tys in vcvt, vscl and vdot (R47, R48). -/
structure FmtVA where
  vd : BitVec 5
  va : BitVec 5
  vb : BitVec 5
  vc : BitVec 5
  ty : BitVec 5
  rm : BitVec 3
  sat : BitVec 1
  i : BitVec 1
  z : BitVec 2
  imm : BitVec 8
deriving DecidableEq, Repr

/-- Format VC (R47). -/
structure FmtVC where
  pd : BitVec 3
  pe : BitVec 3
  m : BitVec 2
  cond : BitVec 4
  va : BitVec 5
  vb : BitVec 5
  ty : BitVec 5
  i : BitVec 1
  imm : BitVec 8
  z : BitVec 4
deriving DecidableEq, Repr

/-- Format VS (R47). -/
structure FmtVS where
  vd : BitVec 5
  va : BitVec 5
  s : BitVec 6
  ty : BitVec 5
  imm : BitVec 8
  z : BitVec 11
deriving DecidableEq, Repr

/-- Format VM (R47). -/
structure FmtVM where
  t : BitVec 2
  bm : BitVec 4
  sa : BitVec 6
  sb : BitVec 6
  vd : BitVec 5
  imm : BitVec 8
  z : BitVec 9
deriving DecidableEq, Repr

/-- Format VP (R47). -/
structure FmtVP where
  vd : BitVec 5
  va : BitVec 5
  s : BitVec 6
  ch : BitVec 5
  ord : BitVec 2
  z : BitVec 17
deriving DecidableEq, Repr

/-- A filter word of the lantern (R457). -/
structure FmtLan where
  op : BitVec 6
  d : BitVec 4
  a : BitVec 4
  imm : BitVec 18
deriving DecidableEq, Repr

def packHead (f : FmtHead) : BitVec 64 := f.tt ++ f.pa ++ f.pb ++ f.pc ++ f.op ++ f.body
def unpackHead (w : BitVec 64) : FmtHead where
  tt := w.extractLsb' 56 8
  pa := w.extractLsb' 53 3
  pb := w.extractLsb' 50 3
  pc := w.extractLsb' 47 3
  op := w.extractLsb' 40 7
  body := w.extractLsb' 0 40

def packSA (f : FmtSA) : BitVec 40 := f.rd ++ f.ra ++ f.fn ++ f.i ++ f.low
def unpackSA (b : BitVec 40) : FmtSA where
  rd := b.extractLsb' 34 6
  ra := b.extractLsb' 28 6
  fn := b.extractLsb' 24 4
  i := b.extractLsb' 23 1
  low := b.extractLsb' 0 23

def packSL (f : FmtSL) : BitVec 40 := f.rd ++ f.imm
def unpackSL (b : BitVec 40) : FmtSL where
  rd := b.extractLsb' 34 6
  imm := b.extractLsb' 0 34

def packSC (f : FmtSC) : BitVec 40 := f.pd ++ f.pe ++ f.m ++ f.cond ++ f.ra ++ f.low
def unpackSC (b : BitVec 40) : FmtSC where
  pd := b.extractLsb' 37 3
  pe := b.extractLsb' 34 3
  m := b.extractLsb' 32 2
  cond := b.extractLsb' 28 4
  ra := b.extractLsb' 22 6
  low := b.extractLsb' 0 22

def packSP (f : FmtSP) : BitVec 40 :=
  f.pd ++ f.pe ++ f.m ++ f.tt ++ f.qa ++ f.qb ++ f.qc ++ f.rd ++ f.ra ++ f.lw
def unpackSP (b : BitVec 40) : FmtSP where
  pd := b.extractLsb' 37 3
  pe := b.extractLsb' 34 3
  m := b.extractLsb' 32 2
  tt := b.extractLsb' 24 8
  qa := b.extractLsb' 21 3
  qb := b.extractLsb' 18 3
  qc := b.extractLsb' 15 3
  rd := b.extractLsb' 9 6
  ra := b.extractLsb' 3 6
  lw := b.extractLsb' 0 3

def packSF (f : FmtSF) : BitVec 40 := f.seg ++ f.entry ++ f.z
def unpackSF (b : BitVec 40) : FmtSF where
  seg := b.extractLsb' 28 12
  entry := b.extractLsb' 16 12
  z := b.extractLsb' 0 16

def packSM (f : FmtSM) : BitVec 40 := f.d ++ f.ra ++ f.sp ++ f.wd ++ f.sx ++ f.ord ++ f.sco ++ f.i ++ f.low
def unpackSM (b : BitVec 40) : FmtSM where
  d := b.extractLsb' 34 6
  ra := b.extractLsb' 28 6
  sp := b.extractLsb' 26 2
  wd := b.extractLsb' 24 2
  sx := b.extractLsb' 23 1
  ord := b.extractLsb' 21 2
  sco := b.extractLsb' 17 4
  i := b.extractLsb' 16 1
  low := b.extractLsb' 0 16

def packSG (f : FmtSG) : BitVec 40 := f.x ++ f.ra ++ f.rb ++ f.k ++ f.fn ++ f.imm
def unpackSG (b : BitVec 40) : FmtSG where
  x := b.extractLsb' 34 6
  ra := b.extractLsb' 28 6
  rb := b.extractLsb' 22 6
  k := b.extractLsb' 21 1
  fn := b.extractLsb' 17 4
  imm := b.extractLsb' 0 17

def packVA (f : FmtVA) : BitVec 40 :=
  f.vd ++ f.va ++ f.vb ++ f.vc ++ f.ty ++ f.rm ++ f.sat ++ f.i ++ f.z ++ f.imm
def unpackVA (b : BitVec 40) : FmtVA where
  vd := b.extractLsb' 35 5
  va := b.extractLsb' 30 5
  vb := b.extractLsb' 25 5
  vc := b.extractLsb' 20 5
  ty := b.extractLsb' 15 5
  rm := b.extractLsb' 12 3
  sat := b.extractLsb' 11 1
  i := b.extractLsb' 10 1
  z := b.extractLsb' 8 2
  imm := b.extractLsb' 0 8

def packVC (f : FmtVC) : BitVec 40 :=
  f.pd ++ f.pe ++ f.m ++ f.cond ++ f.va ++ f.vb ++ f.ty ++ f.i ++ f.imm ++ f.z
def unpackVC (b : BitVec 40) : FmtVC where
  pd := b.extractLsb' 37 3
  pe := b.extractLsb' 34 3
  m := b.extractLsb' 32 2
  cond := b.extractLsb' 28 4
  va := b.extractLsb' 23 5
  vb := b.extractLsb' 18 5
  ty := b.extractLsb' 13 5
  i := b.extractLsb' 12 1
  imm := b.extractLsb' 4 8
  z := b.extractLsb' 0 4

def packVS (f : FmtVS) : BitVec 40 := f.vd ++ f.va ++ f.s ++ f.ty ++ f.imm ++ f.z
def unpackVS (b : BitVec 40) : FmtVS where
  vd := b.extractLsb' 35 5
  va := b.extractLsb' 30 5
  s := b.extractLsb' 24 6
  ty := b.extractLsb' 19 5
  imm := b.extractLsb' 11 8
  z := b.extractLsb' 0 11

def packVM (f : FmtVM) : BitVec 40 := f.t ++ f.bm ++ f.sa ++ f.sb ++ f.vd ++ f.imm ++ f.z
def unpackVM (b : BitVec 40) : FmtVM where
  t := b.extractLsb' 38 2
  bm := b.extractLsb' 34 4
  sa := b.extractLsb' 28 6
  sb := b.extractLsb' 22 6
  vd := b.extractLsb' 17 5
  imm := b.extractLsb' 9 8
  z := b.extractLsb' 0 9

def packVP (f : FmtVP) : BitVec 40 := f.vd ++ f.va ++ f.s ++ f.ch ++ f.ord ++ f.z
def unpackVP (b : BitVec 40) : FmtVP where
  vd := b.extractLsb' 35 5
  va := b.extractLsb' 30 5
  s := b.extractLsb' 24 6
  ch := b.extractLsb' 19 5
  ord := b.extractLsb' 17 2
  z := b.extractLsb' 0 17

def packLan (f : FmtLan) : BitVec 32 := f.op ++ f.d ++ f.a ++ f.imm
def unpackLan (w : BitVec 32) : FmtLan where
  op := w.extractLsb' 26 6
  d := w.extractLsb' 22 4
  a := w.extractLsb' 18 4
  imm := w.extractLsb' 0 18

/-- Why a word is not a legal syllable or filter word (R56, R457). -/
inductive DecodeErr where
  /-- The opcode is unassigned or reserved (R56 item 1; R457: invalid). -/
  | unassigned (op : Nat)
  /-- A selector field holds a reserved code (R56 items 2 to 4). -/
  | reservedCode (code : Nat)
  /-- A field that must be zero is not (R56 item 6). -/
  | nonzeroField
  /-- An operand number is outside its space (R56 item 7). -/
  | operandSpace (n : Nat)
  /-- A limit of the instruction's entry is not met (R56 items 3 to 8). -/
  | limit
deriving DecidableEq, Repr

end Sys2Proof.Machine
end

