-- ==== Sys2Proof/Machine/Limits.lean ====
section
/-! DEFINITION. The decode limits: which terms of Instr an encoding may stand for (spec/03_bundle_formats_and_opcode_map.md
R56 and the entries it names). A syllable outside them traps illegal-instruction at decode, whatever its guard. -/

namespace Sys2Proof.Machine

set_option Elab.async false

/-- The CSR numbers that some map assigns (06 R118, 24 R447, R454, R460, R461, R463, 21 R419, 25 R467). -/
def csrAssigned (n : Nat) : Bool :=
  (1 ≤ n && n ≤ 5) || (0x10 ≤ n && n ≤ 0x12) || (0x100 ≤ n && n ≤ 0x101) || (0x110 ≤ n && n ≤ 0x113) ||
  (0x120 ≤ n && n ≤ 0x12F) || (0x140 ≤ n && n ≤ 0x147) || (0x400 ≤ n && n ≤ 0x405) || n == 0x480 ||
  (0x800 ≤ n && n ≤ 0x805) || (0x880 ≤ n && n ≤ 0x881) || (0x8C0 ≤ n && n ≤ 0x8C6) || (0x8C8 ≤ n && n ≤ 0x8CB)

/-- A predicate pair names two predicates, or p0 twice (R93). -/
def pairOk (pd pe : BitVec 3) : Bool := pd != pe || pd == 0

/-- A scalar operand that is a register (R83, R90: 32 to 35 are reserved there). -/
def isSReg : SOp → Bool
  | .s _ => true
  | .port _ => false

/-- A vector operand that may be a source: no window (R26). -/
def vSrc : VOp → Bool
  | .win _ => false
  | _ => true

/-- A vector operand that is a register. -/
def isVReg : VOp → Bool
  | .v _ => true
  | _ => false

/-- A vector destination that is a register or a send port. -/
def vDstNoWin (o : VOp) : Bool := vSrc o

/-- The second source of a VA or VC syllable. -/
def vbSrc : VSrcB → Bool
  | .reg o => vSrc o
  | .imm _ => true

/-- Space with an agent: destinations that are ports are illegal there (R196). -/
def agentSpace : Space → Bool
  | .d | .g => true
  | _ => false

/-- Order of a load-like syllable: 0 or 1, and a scope only with an order (R49, R54). -/
def loadOrd (o : MOrd) (c : Scope) : Bool := (o == .plain && c == .th) || o == .acq

/-- Order of a store-like syllable: 0 or 2 (R54). -/
def storeOrd (o : MOrd) (c : Scope) : Bool := (o == .plain && c == .th) || o == .rel

/-- Order of amo and cas: any, and a scope only with an order (R54). -/
def amoOrd (o : MOrd) (c : Scope) : Bool := o != .plain || c == .th

/-- Shift counts in immediate form are 0 to 63 (R78). -/
def shiftImm : SrcB → Bool
  | .reg _ => true
  | .imm i => i.toNat < 64

/-- Bit-field controls in immediate form: imm [7:6] and [22:14] are zero (R82). -/
def fieldImm : SrcB → Bool
  | .reg _ => true
  | .imm i => bitsAt i 6 2 == 0 && bitsAt i 14 9 == 0

/-- Rounding is named only for a type of F (R165). -/
def rmFor (t : Ty) (rm : Rm) : Bool := tyF t || rm == .rne

/-- The immediate of a type narrower than 8 bits is the sign extension of its low bits (R166). -/
def vImm (t : Ty) : VSrcB → Bool
  | .reg _ => true
  | .imm i => 8 ≤ tyWidth t || i == (i.setWidth (tyWidth t)).signExtend 8

/-- The immediate of a vector shift is 0 to w−1 (R173). -/
def vShiftImm (t : Ty) : VSrcB → Bool
  | .reg _ => true
  | .imm i => i.toNat < tyWidth t

/-- The immediate of vrot is 0 to n−1 (R182). -/
def vRotImm (t : Ty) : VSrcB → Bool
  | .reg _ => true
  | .imm i => i.toNat < tyElems t

/-- Parts of a conversion between two widths (R184). -/
def cvtParts (t ts : Ty) : Nat := max (tyWidth t) (tyWidth ts) / min (tyWidth t) (tyWidth ts)

/-- s28–s31 or v12–v15 (R221). -/
def streamReg : XOp → Bool
  | .sc (.s r) => 28 ≤ r.toNat
  | .vec (.v r) => 12 ≤ r.toNat
  | _ => false

/-- Column groups of vaccrd and vaccwr (R235). -/
def groupOk (t : TileSel) (g : BitVec 8) : Bool := if t == .pair then g.toNat < 16 else g.toNat < 8

/-- Sources and immediate of a two-source vector arithmetic syllable, rounding and type in F or W (R165). -/
def vArith (t : Ty) (rm : Rm) (va : VOp) (b : VSrcB) : Bool := (tyF t || tyW t) && rmFor t rm && vSrc va && vbSrc b

/-- The limits of R56, constructor by constructor. Events have no encoding and no limit. -/
def limits : Instr → Bool
  | .nop g => g.tt.toNat < 256
  | .sll _ _ _ b | .srl _ _ _ b | .sra _ _ _ b | .rol _ _ _ b | .ror _ _ _ b => shiftImm b
  | .bext _ _ _ _ b => fieldImm b
  | .bins _ rd _ b => isSReg rd && fieldImm b
  | .sext _ _ _ n | .zext _ _ _ n => 1 ≤ n.toNat && n.toNat ≤ 64
  | .lih _ rd _ => isSReg rd
  | .cmp _ pd pe _ c _ _ => pairOk pd pe && c != .un
  | .cmpi _ pd pe _ c _ _ => pairOk pd pe && c != .un
  | .ptt _ pd pe _ _ _ _ _ => pairOk pd pe
  | .pany _ pd pe _ _ _ | .pall _ pd pe _ _ _ => pairOk pd pe
  | .loop _ ra _ => isSReg ra && ra != .s 0
  | .wfe _ m => m != 0
  | .csrr _ _ n | .csrw _ _ _ n | .csrs _ _ _ n | .csrc _ _ _ n => csrAssigned n.toNat
  | .cfetch _ sp _ _ => agentSpace sp
  | .ld _ sp _ _ o c d _ _ => loadOrd o c && (isSReg d || !agentSpace sp)
  | .st _ _ _ o c _ _ _ => storeOrd o c
  | .vld _ sp o c d _ _ => loadOrd o c && vSrc d && (isVReg d || !agentSpace sp)
  | .vst _ _ o c d _ _ => storeOrd o c && vSrc d
  | .vlds _ sp _ o c d _ _ => loadOrd o c && vSrc d && (isVReg d || !agentSpace sp)
  | .vsts _ _ _ o c d _ _ => storeOrd o c && vSrc d
  | .vldx _ o c d _ _ => loadOrd o c && vSrc d
  | .vstx _ o c d _ _ => storeOrd o c && vSrc d
  | .ldfe _ o c _ _ _ | .ldff _ o c _ _ _ => loadOrd o c
  | .stef _ o c _ _ _ | .stff _ o c _ _ _ => storeOrd o c
  | .amo _ _ _ _ o c d _ _ => amoOrd o c && isSReg d
  | .cas _ _ _ o c d _ _ => amoOrd o c && isSReg d
  | .seal _ sp _ _ => agentSpace sp
  | .unseal _ sp d _ _ => agentSpace sp && isSReg d
  | .publish _ sp _ => agentSpace sp
  | .rfill _ x _ tgt => match x with
    | .sc _ => tgt.toNat < 32
    | .vec o => vSrc o && tgt.toNat < 16
  | .remp _ x => match x with
    | .sc o => isSReg o
    | .vec o => isVReg o
  | .bind _ _ rb sel => !bitAt sel 2 || rb == .s 0
  | .sbind _ x _ | .sunbind _ x => streamReg x
  | .gang _ k => k != 0
  | .vadd _ t rm _ _ va b | .vsub _ t rm _ _ va b | .vmul _ t rm _ _ va b => vArith t rm va b
  | .vmulh _ t _ va b => tyW t && vSrc va && vbSrc b
  | .vfma _ t rm _ _ va b vc | .vfms _ t rm _ _ va b vc | .vfnma _ t rm _ _ va b vc => vArith t rm va b && vSrc vc
  | .vmin _ t _ va b | .vmax _ t _ va b => (tyF t || tyW t) && vSrc va && vbSrc b
  | .vabs _ t sat _ va | .vneg _ t sat _ va => ((tyF t && !sat) || tyW t) && vSrc va
  | .vdiv _ t _ _ _ va b => tyF t && vSrc va && vbSrc b
  | .vsqrt _ t _ _ _ va | .vrcp _ t _ _ _ va | .vrsq _ t _ _ _ va | .vexp2 _ t _ _ _ va | .vlog2 _ t _ _ _ va
  | .vsigm _ t _ _ _ va | .vsilu _ t _ _ _ va => tyF t && vSrc va
  | .vand _ t _ va b | .vor _ t _ va b | .vxor _ t _ va b | .vandn _ t _ va b => vSrc va && vbSrc b && vImm t b
  | .vsll _ t _ va b | .vsrl _ t _ va b | .vsra _ t _ va b => tyW t && vSrc va && vbSrc b && vShiftImm t b
  | .vclz _ t _ va | .vpopc _ t _ va => tyW t && vSrc va
  | .vcmp _ pd pe _ c t va b =>
    pairOk pd pe && vSrc va && vbSrc b && ((tyF t && (condCode c ≤ 5 || c == .un)) || (tyW t && condCode c ≤ 10))
  | .vclass _ t _ va => tyF t && vSrc va
  | .vmov _ _ va => vSrc va
  | .vext _ t _ va i => vSrc va && i.toNat < tyElems t
  | .vins _ t vd _ i => vDstNoWin vd && i.toNat < tyElems t
  | .vperm _ t _ va vb => 8 ≤ tyWidth t && vSrc va && vSrc vb
  | .vrot _ t _ va b => vSrc va && vbSrc b && vRotImm t b
  | .vzip _ _ _ _ va vb | .vuzp _ _ _ _ va vb => vSrc va && vSrc vb
  | .vcvt _ t ts rm _ _ va q =>
    !tyM t && !tyM ts && (rm == .rne || !(tyInt t && tyInt ts)) && vSrc va && q.toNat < cvtParts t ts
  | .vscl _ t ts _ sat _ va vb q =>
    ((tyM t && tyF ts && !sat) || (tyF t && tyM ts)) && vSrc va && vSrc vb && q.toNat < cvtParts t ts
  | .vdot _ t ts rm vd va vb =>
    ((t == .f32 && 1 ≤ tyCode ts && tyCode ts ≤ 4) || (t == .i32 && 14 ≤ tyCode ts && tyCode ts ≤ 18 && rm == .rne)) &&
    isVReg vd && vSrc va && vSrc vb
  | .vredadd _ t rm sat vd va => ((tyF t && !sat) || (tyW t && rm == .rne)) && vDstNoWin vd && vSrc va
  | .vredmax _ t vd va | .vredmin _ t vd va => (tyF t || tyW t) && vDstNoWin vd && vSrc va
  | .vscan _ t _ va _ => (t == .f32 || (20 ≤ tyCode t && tyCode t ≤ 23)) && vSrc va
  | .vrng _ t _ _ _ => tyF t || tyW t
  | .vaccrd _ t _ _ g => groupOk t g
  | .vaccwr _ t _ vs g => groupOk t g && vSrc vs
  | .mldb _ bm _ => bm != 0
  | .mma _ _ bm _ => bm != 0
  | .spscan _ _ _ vd va _ | .spred _ _ _ vd va _ | .spbc _ _ _ vd va _ => isVReg vd && vSrc va
  | .lanternLdr _ _ i => i.toNat < 4
  | .lanternShr _ _ i | .lanternShl _ _ i => i.toNat < 64
  | .lanternCnt _ _ i => i.toNat < 16
  | .lanternTrig _ _ i => i.toNat < 2
  | .plive _ _ | .add _ _ _ _ | .sub _ _ _ _ | .mul _ _ _ _ | .mulh _ _ _ _ _ | .div _ _ _ _ _ | .rem _ _ _ _ _
  | .madd _ _ _ _ _ | .and _ _ _ _ | .or _ _ _ _ | .xor _ _ _ _ | .andn _ _ _ _ | .orn _ _ _ _ | .xnor _ _ _ _
  | .clz _ _ _ | .ctz _ _ _ | .popc _ _ _ | .brev _ _ _ | .bswap _ _ _ | .abs _ _ _ | .min _ _ _ _ _ | .max _ _ _ _ _
  | .shadd _ _ _ _ _ | .li _ _ _ | .mov _ _ _ | .sel _ _ _ _ _ | .pmov _ _ _ | .pget _ _ _ | .pcnt _ _ _ _
  | .pfirst _ _ _ _ | .br _ _ | .call _ _ | .jmp _ _ | .callr _ _ | .ret _ | .jf _ _ _ | .callf _ _ _ | .trap _ _
  | .brk _ _ | .eret _ | .halt _ | .threadRetire | .tmark _ _ | .ipi _ _ _ | .ipiDelivery | .sfence _ _ _
  | .interrupt | .parkWake | .feTimeout | .dutyTakesEffect | .leaveGrant | .segmentLanded
  | .coreQuarantine | .spareShift | .fest _ _ _ _ _ | .fence _ _ _ | .sealEffect | .unsealEffect
  | .publishSerialise | .publishEffect | .unbind _ _ | .winb _ _ _ | .mark _ _ _ | .cpy _ _ _ _ _
  | .cpyr _ _ _ _ _ _ | .twait _ _ _ | .tstat _ _ _ | .mcmd _ _ _ _ _ | .mcmdTimeout | .spawn _ _ _ _ _
  | .lnch _ _ _ | .trig _ | .setph _ _ | .waitph _ _ _ | .gangForm | .split _ | .join _ | .cmreq _ _ _
  | .vbc _ _ _ _ | .vacczr _ _ | .mclaim _ _ | .mrel _ _ | .mfence _ | .matrixCommandAdmit
  | .matrixCommandBegin | .matrixCommandRetire | .matrixScrub | .spjoin _ _ _ | .spbar _ _ _
  | .spireGroupForm | .spireResultDelivery | .spireFaultDelivery | .requestAccept | .translationWalk
  | .walkEntryReply | .dieSramService | .loadTableCompare | .domeService | .domeRequestComplete
  | .memoryReply | .agentStateError | .phasePublish | .transferBegin | .engineSlotService
  | .transferComplete | .streamRefillArrival | .clusterFailure | .inject | .wordForward
  | .markerPhaseStep | .queueBeat | .fill | .windowBeat | .tagWrite | .matrixCommand | .commandReply
  | .openCircuit | .resizeCircuit | .closeCircuit | .joinMember | .leaveMember | .queryCircuit
  | .circuitChangeEffect | .receivePortCloseUnbind | .configBeat | .launchReady | .taskSelect
  | .taskBind | .taskFaultEnd | .launchComplete | .completionRecordWrite | .stealRequestSend
  | .stealRequest | .sinkWatchdog | .doorbell | .cqheadWrite | .registerWrite
  | .vfAbsentRequest | .launchCmd | .regset | .regdrop | .ctxset | .ctxdrop | .switchCmd
  | .sched | .hostSplit | .power | .telem | .patch | .attest | .serviceQuarantine
  | .serviceRetest | .serviceRetrain | .retrainComplete | .serviceRetireDome | .fabric
  | .blockChangeEffect | .switchSchedule | .switchCancel | .hswitchSchedule | .hswitchCancel
  | .switchWarning | .scheduledSwitch | .switchSave | .switchRestore | .coreResume | .schedQuantum
  | .fcmdWrite | .frequencyChange | .powerEpoch | .telemetryRead | .powerOn | .stop | .resume
  | .stepThread | .claim | .release | .dbgdataAccess | .lanternEnable | .lanternFilter
  | .lanternWriteback | .lanternLdi _ _ _ | .lanternAdd _ _ _ | .lanternAnd _ _ _ | .lanternOr _ _ _
  | .lanternXor _ _ _ | .lanternAndi _ _ _ | .lanternBeq _ _ _ | .lanternBne _ _ _ | .lanternBltu _ _ _
  | .lanternBgeu _ _ _ | .lanternKeep _ _ _ | .lanternDrop _ _ _ | .bellArm | .bellPulse | .cntpolWrite
  | .viewLoRead | .viewHiRead | .ptpMessage | .portOffsetSuspend | .portOffsetResume
  | .fabricCellReceive | .tgtShed | .tgtRetrain | .laneFailure | .portDown | .rotationSlot
  | .replicaFill | .laneRepair => true

end Sys2Proof.Machine
end

