-- ==== Sys2Proof/Decode.lean ====
section
/-! DEFINITION. The decoder of the three word forms (S syllable, V syllable, lantern filter word) and, after it, the
encoder of well-formed instructions (spec/03_bundle_formats_and_opcode_map.md R43 to R58,
spec/24_debug_trace_and_counters.md R457). -/

namespace Sys2Proof

set_option Elab.async false

open Machine

/-- A check that a word must pass to be legal (R56). -/
def need (b : Bool) (e : DecodeErr) : Except DecodeErr Unit := if b then .ok () else .error e

/-- A code that must be assigned (R56 item 2). -/
def code {α : Type} (n : Nat) (o : Option α) : Except DecodeErr α :=
  match o with
  | some a => .ok a
  | none => .error (.reservedCode n)

/-- A scalar operand field (R48, R26). -/
def dSop (f : BitVec 6) : Except DecodeErr SOp :=
  match sopOf f.toNat with
  | some o => .ok o
  | none => .error (.operandSpace f.toNat)

/-- A vector operand field of either width (R48, R26). -/
def dVop {w : Nat} (f : BitVec w) : Except DecodeErr VOp :=
  match vopOf f.toNat with
  | some o => .ok o
  | none => .error (.operandSpace f.toNat)

/-- A field that must be zero (R56 item 6). -/
def zero {w : Nat} (f : BitVec w) : Except DecodeErr Unit := need (f == 0) .nonzeroField

def one1 (f : BitVec 1) : Bool := f == 1

/-- The guard of a header (R44). -/
def headGuard (h : FmtHead) : Guard := ⟨h.tt, h.pa, h.pb, h.pc⟩

/-- rb and rc of format SA with I = 0. -/
def saRb (f : FmtSA) : BitVec 6 := f.low.extractLsb' 17 6
def saRc (f : FmtSA) : BitVec 6 := f.low.extractLsb' 11 6
def saZ (f : FmtSA) : BitVec 11 := f.low.extractLsb' 0 11

/-- The second source of format SA (R46). -/
def dSrcB (f : FmtSA) : Except DecodeErr SrcB :=
  if one1 f.i then .ok (.imm f.low)
  else do
    zero (saRc f)
    zero (saZ f)
    let b ← dSop (saRb f)
    .ok (.reg b)

/-- rd, ra, then rb or imm, with fn zero. -/
def dSA3 (f : FmtSA) (k : SOp → SOp → SrcB → Instr) : Except DecodeErr Instr := do
  need (f.fn == 0) (.reservedCode f.fn.toNat)
  let rd ← dSop f.rd
  let ra ← dSop f.ra
  let b ← dSrcB f
  .ok (k rd ra b)

/-- rd, ra, then rb or imm, with fn 0 or 1. -/
def dSA3fn (f : FmtSA) (k : Bool → SOp → SOp → SrcB → Instr) : Except DecodeErr Instr := do
  need (f.fn == 0 || f.fn == 1) (.reservedCode f.fn.toNat)
  let rd ← dSop f.rd
  let ra ← dSop f.ra
  let b ← dSrcB f
  .ok (k (f.fn == 1) rd ra b)

/-- rd and ra with I = 0 and no second source. -/
def dSA2 (f : FmtSA) (k : SOp → SOp → Instr) : Except DecodeErr Instr := do
  zero f.i
  zero f.low
  let rd ← dSop f.rd
  let ra ← dSop f.ra
  .ok (k rd ra)

/-- OP 0x01 to 0x1A and 0x1D, 0x1E of the S map, format SA (R54). -/
def decSA (op : Nat) (g : Guard) (f : FmtSA) : Except DecodeErr Instr :=
  match op with
  | 0x01 => dSA3 f (.add g)
  | 0x02 => dSA3 f (.sub g)
  | 0x03 => dSA3 f (.mul g)
  | 0x04 => dSA3fn f (.mulh g)
  | 0x05 => dSA3fn f (.div g)
  | 0x06 => dSA3fn f (.rem g)
  | 0x07 => do
    need (f.fn == 0) (.reservedCode f.fn.toNat)
    zero f.i
    zero (saZ f)
    let rd ← dSop f.rd
    let ra ← dSop f.ra
    let rb ← dSop (saRb f)
    let rc ← dSop (saRc f)
    .ok (.madd g rd ra rb rc)
  | 0x08 => dSA3 f (.and g)
  | 0x09 => dSA3 f (.or g)
  | 0x0A => dSA3 f (.xor g)
  | 0x0B => dSA3 f (.andn g)
  | 0x0C => dSA3 f (.orn g)
  | 0x0D => dSA3 f (.xnor g)
  | 0x0E => dSA3 f (.sll g)
  | 0x0F => dSA3 f (.srl g)
  | 0x10 => dSA3 f (.sra g)
  | 0x11 => dSA3 f (.rol g)
  | 0x12 => dSA3 f (.ror g)
  | 0x13 =>
    match f.fn.toNat with
    | 0 => dSA2 f (.clz g)
    | 1 => dSA2 f (.ctz g)
    | 2 => dSA2 f (.popc g)
    | 3 => dSA2 f (.brev g)
    | 4 => dSA2 f (.bswap g)
    | 5 => dSA2 f (.abs g)
    | n => .error (.reservedCode n)
  | 0x14 => dSA3fn f (.bext g)
  | 0x15 => dSA3 f (.bins g)
  | 0x16 => do
    need (f.fn == 0) (.reservedCode f.fn.toNat)
    need (one1 f.i) (.reservedCode 0)
    let rd ← dSop f.rd
    let ra ← dSop f.ra
    .ok (.sext g rd ra f.low)
  | 0x17 => do
    need (f.fn == 0) (.reservedCode f.fn.toNat)
    need (one1 f.i) (.reservedCode 0)
    let rd ← dSop f.rd
    let ra ← dSop f.ra
    .ok (.zext g rd ra f.low)
  | 0x18 => dSA3fn f (.min g)
  | 0x19 => dSA3fn f (.max g)
  | 0x1A => do
    need (f.fn.toNat < 4) (.reservedCode f.fn.toNat)
    let rd ← dSop f.rd
    let ra ← dSop f.ra
    let b ← dSrcB f
    .ok (.shadd g (f.fn.extractLsb' 0 2) rd ra b)
  | 0x1D => do
    need (f.fn == 0) (.reservedCode f.fn.toNat)
    dSA2 f (.mov g)
  | 0x1E => do
    need (f.fn.toNat < 8) (.reservedCode f.fn.toNat)
    zero f.i
    zero (saRc f)
    zero (saZ f)
    let rd ← dSop f.rd
    let ra ← dSop f.ra
    let rb ← dSop (saRb f)
    .ok (.sel g (f.fn.extractLsb' 0 3) rd ra rb)
  | n => .error (.unassigned n)

/-- OP 0x20 and 0x21, format SC (R54, R50). -/
def decSC (op : Nat) (g : Guard) (f : FmtSC) : Except DecodeErr Instr := do
  let c ← code f.cond.toNat (condOf f.cond.toNat)
  let ra ← dSop f.ra
  match op with
  | 0x20 => do
    zero (f.low.extractLsb' 0 16)
    let rb ← dSop (f.low.extractLsb' 16 6)
    .ok (.cmp g f.pd f.pe (pmodeOf f.m.toNat) c ra rb)
  | _ => .ok (.cmpi g f.pd f.pe (pmodeOf f.m.toNat) c ra f.low)

/-- OP 0x22 to 0x27, format SP (R54). -/
def decSP (op : Nat) (g : Guard) (f : FmtSP) : Except DecodeErr Instr :=
  match op with
  | 0x22 => do
    zero f.rd
    zero f.ra
    zero f.lw
    .ok (.ptt g f.pd f.pe (pmodeOf f.m.toNat) f.tt f.qa f.qb f.qc)
  | 0x23 => do
    zero f.pe
    zero f.m
    zero f.tt
    zero f.qa
    zero f.qb
    zero f.qc
    zero f.rd
    zero f.lw
    let ra ← dSop f.ra
    .ok (.pmov g f.pd ra)
  | 0x24 => do
    zero f.pd
    zero f.pe
    zero f.m
    zero f.tt
    zero f.qb
    zero f.qc
    zero f.ra
    zero f.lw
    let rd ← dSop f.rd
    .ok (.pget g rd f.qa)
  | 0x25 => do
    zero f.tt
    zero f.qb
    zero f.qc
    zero f.rd
    zero f.ra
    need (f.lw.toNat < 4) (.reservedCode f.lw.toNat)
    .ok (.pany g f.pd f.pe (pmodeOf f.m.toNat) f.qa (f.lw.extractLsb' 0 2))
  | 0x26 => do
    zero f.tt
    zero f.qb
    zero f.qc
    zero f.rd
    zero f.ra
    need (f.lw.toNat < 4) (.reservedCode f.lw.toNat)
    .ok (.pall g f.pd f.pe (pmodeOf f.m.toNat) f.qa (f.lw.extractLsb' 0 2))
  | _ => do
    need (f.m.toNat < 2) (.reservedCode f.m.toNat)
    zero f.pd
    zero f.pe
    zero f.tt
    zero f.qb
    zero f.qc
    zero f.ra
    need (f.lw.toNat < 4) (.reservedCode f.lw.toNat)
    let rd ← dSop f.rd
    if f.m == 0 then .ok (.pcnt g rd f.qa (f.lw.extractLsb' 0 2)) else .ok (.pfirst g rd f.qa (f.lw.extractLsb' 0 2))

/-- rb, sc and aux of format SM with I = 0. -/
def smRb (f : FmtSM) : BitVec 6 := f.low.extractLsb' 10 6
def smSc (f : FmtSM) : BitVec 2 := f.low.extractLsb' 8 2
def smAux (f : FmtSM) : BitVec 4 := f.low.extractLsb' 4 4
def smZ (f : FmtSM) : BitVec 4 := f.low.extractLsb' 0 4

/-- The second part of an address: offset, or scaled index with aux zero (R49). -/
def dMemOff (f : FmtSM) : Except DecodeErr MemOff :=
  if one1 f.i then .ok (.off f.low)
  else do
    zero (smAux f)
    zero (smZ f)
    let sc ← code (smSc f).toNat (scaleOf (smSc f).toNat)
    let rb ← dSop (smRb f)
    .ok (.idx rb sc)

/-- rb alone: I = 0 with sc and aux zero. -/
def dSmRb (f : FmtSM) : Except DecodeErr SOp := do
  zero f.i
  zero (smSc f)
  zero (smAux f)
  zero (smZ f)
  dSop (smRb f)

def dScope (f : FmtSM) : Except DecodeErr Scope := code f.sco.toNat (scopeOf f.sco.toNat)

/-- OP 0x34 to 0x47, format SM (R54). -/
def decSM (op : Nat) (g : Guard) (f : FmtSM) : Except DecodeErr Instr :=
  match op with
  | 0x34 => do
    let sco ← dScope f
    let d ← dSop f.d
    let ra ← dSop f.ra
    let m ← dMemOff f
    .ok (.ld g (spaceOf f.sp.toNat) f.wd (one1 f.sx) (ordOf f.ord.toNat) sco d ra m)
  | 0x35 => do
    zero f.sx
    let sco ← dScope f
    let d ← dSop f.d
    let ra ← dSop f.ra
    let m ← dMemOff f
    .ok (.st g (spaceOf f.sp.toNat) f.wd (ordOf f.ord.toNat) sco d ra m)
  | 0x36 => do
    zero f.wd
    zero f.sx
    let sco ← dScope f
    let d ← dVop f.d
    let ra ← dSop f.ra
    let m ← dMemOff f
    .ok (.vld g (spaceOf f.sp.toNat) (ordOf f.ord.toNat) sco d ra m)
  | 0x37 => do
    zero f.wd
    zero f.sx
    let sco ← dScope f
    let d ← dVop f.d
    let ra ← dSop f.ra
    let m ← dMemOff f
    .ok (.vst g (spaceOf f.sp.toNat) (ordOf f.ord.toNat) sco d ra m)
  | 0x38 => do
    zero f.sx
    let sco ← dScope f
    let d ← dVop f.d
    let ra ← dSop f.ra
    let rb ← dSmRb f
    .ok (.vlds g (spaceOf f.sp.toNat) f.wd (ordOf f.ord.toNat) sco d ra rb)
  | 0x39 => do
    zero f.sx
    let sco ← dScope f
    let d ← dVop f.d
    let ra ← dSop f.ra
    let rb ← dSmRb f
    .ok (.vsts g (spaceOf f.sp.toNat) f.wd (ordOf f.ord.toNat) sco d ra rb)
  | 0x3A => do
    zero f.sp
    zero f.wd
    zero f.sx
    let sco ← dScope f
    let d ← dVop f.d
    let ra ← dSop f.ra
    let rb ← dSmRb f
    .ok (.vldx g (ordOf f.ord.toNat) sco d ra rb)
  | 0x3B => do
    zero f.sp
    zero f.wd
    zero f.sx
    let sco ← dScope f
    let d ← dVop f.d
    let ra ← dSop f.ra
    let rb ← dSmRb f
    .ok (.vstx g (ordOf f.ord.toNat) sco d ra rb)
  | 0x3C => dFe f (.ldfe g)
  | 0x3D => dFe f (.ldff g)
  | 0x3E => dFe f (.stef g)
  | 0x3F => dFe f (.stff g)
  | 0x40 => do
    zero f.d
    zero f.sp
    need (f.wd == 3) (.reservedCode f.wd.toNat)
    zero f.sx
    zero f.ord
    zero f.sco
    need (f.i == 0) (.reservedCode 1)
    need ((smAux f).toNat < 2) (.reservedCode (smAux f).toNat)
    zero (smZ f)
    let sc ← code (smSc f).toNat (scaleOf (smSc f).toNat)
    let ra ← dSop f.ra
    let rb ← dSop (smRb f)
    .ok (.fest g (smAux f == 1) ra rb sc)
  | 0x41 => do
    need (f.wd.toNat = 2 || f.wd.toNat = 3) (.reservedCode f.wd.toNat)
    zero f.sx
    zero f.i
    zero (smSc f)
    zero (smZ f)
    let sco ← dScope f
    let a ← code (smAux f).toNat (amoOf (smAux f).toNat)
    let d ← dSop f.d
    let ra ← dSop f.ra
    let rb ← dSop (smRb f)
    .ok (.amo g a (spaceOf f.sp.toNat) (f.wd == 3) (ordOf f.ord.toNat) sco d ra rb)
  | 0x42 => do
    need (f.wd.toNat = 2 || f.wd.toNat = 3) (.reservedCode f.wd.toNat)
    zero f.sx
    let sco ← dScope f
    let d ← dSop f.d
    let ra ← dSop f.ra
    let rb ← dSmRb f
    .ok (.cas g (spaceOf f.sp.toNat) (f.wd == 3) (ordOf f.ord.toNat) sco d ra rb)
  | 0x43 => do
    zero f.d
    zero f.ra
    zero f.sp
    zero f.sx
    zero f.ord
    zero f.i
    zero f.low
    let sco ← dScope f
    .ok (.fence g (fenceOf f.wd.toNat) sco)
  | 0x44 => do
    zero f.d
    dSealFields f
    let ra ← dSop f.ra
    let rb ← dSmRb f
    .ok (.seal g (spaceOf f.sp.toNat) ra rb)
  | 0x45 => do
    dSealFields f
    let d ← dSop f.d
    let ra ← dSop f.ra
    let rb ← dSmRb f
    .ok (.unseal g (spaceOf f.sp.toNat) d ra rb)
  | 0x46 => do
    zero f.d
    dSealFields f
    zero f.i
    zero f.low
    let ra ← dSop f.ra
    .ok (.publish g (spaceOf f.sp.toNat) ra)
  | 0x47 => do
    zero f.d
    dSealFields f
    need (one1 f.i) (.reservedCode 0)
    zero (f.low.extractLsb' 12 4)
    let ra ← dSop f.ra
    .ok (.cfetch g (spaceOf f.sp.toNat) ra (f.low.extractLsb' 0 12))
  | n => .error (.unassigned n)
where
  dFe (f : FmtSM) (k : MOrd → Scope → SOp → SOp → MemOff → Instr) : Except DecodeErr Instr := do
    zero f.sp
    need (f.wd == 3) (.reservedCode f.wd.toNat)
    zero f.sx
    let sco ← dScope f
    let d ← dSop f.d
    let ra ← dSop f.ra
    let m ← dMemOff f
    .ok (k (ordOf f.ord.toNat) sco d ra m)
  dSealFields (f : FmtSM) : Except DecodeErr Unit := do
    zero f.wd
    zero f.sx
    zero f.ord
    zero f.sco

/-- Which fields of format SG an instruction uses; the others are zero (R54, R56 item 6). -/
def sgOnly (f : FmtSG) (x ra rb k fn imm : Bool) : Except DecodeErr Unit := do
  need (x || f.x == 0) .nonzeroField
  need (ra || f.ra == 0) .nonzeroField
  need (rb || f.rb == 0) .nonzeroField
  need (k || f.k == 0) .nonzeroField
  need (fn || f.fn == 0) (.reservedCode f.fn.toNat)
  need (imm || f.imm == 0) .nonzeroField

/-- Field x with K (R48). -/
def dXop (f : FmtSG) : Except DecodeErr XOp :=
  if one1 f.k then do
    let o ← dVop f.x
    .ok (.vec o)
  else do
    let o ← dSop f.x
    .ok (.sc o)

/-- OP 0x00, 0x2B to 0x2D, 0x30 to 0x33 and 0x50 to 0x6F, format SG (R54). -/
def decSG (op : Nat) (g : Guard) (f : FmtSG) : Except DecodeErr Instr :=
  match op with
  | 0x00 =>
    match f.fn.toNat with
    | 0 => do
      sgOnly f false false false false false false
      .ok (.nop g)
    | 1 => do
      sgOnly f false false false false true true
      zero (f.imm.extractLsb' 8 9)
      .ok (.plive g (f.imm.extractLsb' 0 8))
    | n => .error (.reservedCode n)
  | 0x2B => do
    sgOnly f false true false false false false
    let ra ← dSop f.ra
    .ok (.jmp g ra)
  | 0x2C => do
    sgOnly f false true false false false false
    let ra ← dSop f.ra
    .ok (.callr g ra)
  | 0x2D => do
    sgOnly f false false false false false false
    .ok (.ret g)
  | 0x30 => do
    sgOnly f false false false false false true
    zero (f.imm.extractLsb' 16 1)
    .ok (.trap g (f.imm.extractLsb' 0 16))
  | 0x31 => do
    sgOnly f false false false false false true
    zero (f.imm.extractLsb' 16 1)
    .ok (.brk g (f.imm.extractLsb' 0 16))
  | 0x32 => do
    sgOnly f false false false false false false
    .ok (.eret g)
  | 0x33 =>
    match f.fn.toNat with
    | 0 => do
      sgOnly f false false false false false false
      .ok (.halt g)
    | 1 => do
      sgOnly f false false false false true true
      zero (f.imm.extractLsb' 8 9)
      .ok (.wfe g (f.imm.extractLsb' 0 8))
    | n => .error (.reservedCode n)
  | 0x50 => do
    sgOnly f true false false true false true
    zero (f.imm.extractLsb' 2 6)
    zero (f.imm.extractLsb' 14 3)
    let x ← dXop f
    .ok (.rfill g x (f.imm.extractLsb' 0 2) (f.imm.extractLsb' 8 6))
  | 0x51 => do
    sgOnly f true false false true false false
    let x ← dXop f
    .ok (.remp g x)
  | 0x52 => do
    sgOnly f false true true false false true
    zero (f.imm.extractLsb' 3 14)
    let ra ← dSop f.ra
    let rb ← dSop f.rb
    .ok (.bind g ra rb (f.imm.extractLsb' 0 3))
  | 0x53 => do
    sgOnly f false false false false false true
    zero (f.imm.extractLsb' 3 14)
    .ok (.unbind g (f.imm.extractLsb' 0 3))
  | 0x54 => do
    sgOnly f false true false false false true
    zero (f.imm.extractLsb' 2 15)
    let ra ← dSop f.ra
    .ok (.winb g ra (f.imm.extractLsb' 0 2))
  | 0x55 => do
    sgOnly f true true false true false false
    let x ← dXop f
    let ra ← dSop f.ra
    .ok (.sbind g x ra)
  | 0x56 => do
    sgOnly f true false false true false false
    let x ← dXop f
    .ok (.sunbind g x)
  | 0x57 => do
    sgOnly f false true false false false true
    zero (f.imm.extractLsb' 2 15)
    let ra ← dSop f.ra
    .ok (.mark g ra (f.imm.extractLsb' 0 2))
  | 0x58 => do
    sgOnly f true true true false false true
    zero (f.imm.extractLsb' 3 14)
    let x ← dSop f.x
    let ra ← dSop f.ra
    let rb ← dSop f.rb
    .ok (.cpy g x ra rb (f.imm.extractLsb' 0 3))
  | 0x59 => do
    sgOnly f true true true false true true
    need (f.fn.toNat < 2) (.reservedCode f.fn.toNat)
    zero (f.imm.extractLsb' 3 14)
    let x ← dSop f.x
    let ra ← dSop f.ra
    let rb ← dSop f.rb
    .ok (.cpyr g (f.fn == 1) x ra rb (f.imm.extractLsb' 0 3))
  | 0x5A => do
    sgOnly f false true false false false true
    zero (f.imm.extractLsb' 3 14)
    let ra ← dSop f.ra
    .ok (.twait g ra (f.imm.extractLsb' 0 3))
  | 0x5B => do
    sgOnly f true false false false false true
    zero (f.imm.extractLsb' 3 14)
    let x ← dSop f.x
    .ok (.tstat g x (f.imm.extractLsb' 0 3))
  | 0x5C => do
    sgOnly f true true true false false true
    zero (f.imm.extractLsb' 2 15)
    let x ← dSop f.x
    let ra ← dSop f.ra
    let rb ← dSop f.rb
    .ok (.mcmd g x ra rb (f.imm.extractLsb' 0 2))
  | 0x60 => do
    sgOnly f true true true false true false
    need (f.fn.toNat < 2) (.reservedCode f.fn.toNat)
    let x ← dSop f.x
    let ra ← dSop f.ra
    let rb ← dSop f.rb
    .ok (.spawn g (f.fn == 1) x ra rb)
  | 0x61 => do
    sgOnly f true true false false false false
    let x ← dSop f.x
    let ra ← dSop f.ra
    .ok (.lnch g x ra)
  | 0x62 => do
    sgOnly f false false false false false false
    .ok (.trig g)
  | 0x63 => do
    sgOnly f false true false false false false
    let ra ← dSop f.ra
    .ok (.setph g ra)
  | 0x64 => do
    sgOnly f false true true false false false
    let ra ← dSop f.ra
    let rb ← dSop f.rb
    .ok (.waitph g ra rb)
  | 0x65 => do
    sgOnly f false false false false false true
    zero (f.imm.extractLsb' 2 15)
    .ok (.gang g (f.imm.extractLsb' 0 2))
  | 0x66 => do
    sgOnly f false false false false false false
    .ok (.split g)
  | 0x67 => do
    sgOnly f false false false false false false
    .ok (.join g)
  | 0x68 => do
    sgOnly f true false false false false true
    zero (f.imm.extractLsb' 12 5)
    let x ← dSop f.x
    .ok (.csrr g x (f.imm.extractLsb' 0 12))
  | 0x69 => dCsr f (.csrw g)
  | 0x6A => dCsr f (.csrs g)
  | 0x6B => dCsr f (.csrc g)
  | 0x6C => do
    sgOnly f false true true false false false
    let ra ← dSop f.ra
    let rb ← dSop f.rb
    .ok (.sfence g ra rb)
  | 0x6D => do
    sgOnly f true true false false false false
    let x ← dSop f.x
    let ra ← dSop f.ra
    .ok (.cmreq g x ra)
  | 0x6E => do
    sgOnly f false false false false false true
    zero (f.imm.extractLsb' 16 1)
    .ok (.tmark g (f.imm.extractLsb' 0 16))
  | 0x6F => do
    sgOnly f false true false false false true
    zero (f.imm.extractLsb' 8 9)
    let ra ← dSop f.ra
    .ok (.ipi g ra (f.imm.extractLsb' 0 8))
  | n => .error (.unassigned n)
where
  dCsr (f : FmtSG) (k : SOp → SOp → BitVec 12 → Instr) : Except DecodeErr Instr := do
    sgOnly f true true false false false true
    zero (f.imm.extractLsb' 12 5)
    let x ← dSop f.x
    let ra ← dSop f.ra
    .ok (k x ra (f.imm.extractLsb' 0 12))

/-- The reading of an S syllable by format, before the limits (R54). -/
def decSBody (op : Nat) (g : Guard) (b : BitVec 40) : Except DecodeErr Instr :=
  if op = 0 then decSG op g (unpackSG b)
  else if op ≤ 0x1A then decSA op g (unpackSA b)
  else if op = 0x1B then do
    let rd ← dSop (unpackSL b).rd
    .ok (.li g rd (unpackSL b).imm)
  else if op = 0x1C then do
    let rd ← dSop (unpackSL b).rd
    zero ((unpackSL b).imm.extractLsb' 30 4)
    .ok (.lih g rd ((unpackSL b).imm.extractLsb' 0 30))
  else if op = 0x1D ∨ op = 0x1E then decSA op g (unpackSA b)
  else if op = 0x1F then .error (.unassigned op)
  else if op ≤ 0x21 then decSC op g (unpackSC b)
  else if op ≤ 0x27 then decSP op g (unpackSP b)
  else if op = 0x28 then .ok (.br g b)
  else if op = 0x29 then .ok (.call g b)
  else if op = 0x2A then do
    let ra ← dSop (unpackSL b).rd
    .ok (.loop g ra (unpackSL b).imm)
  else if op ≤ 0x2D then decSG op g (unpackSG b)
  else if op = 0x2E then do
    zero (unpackSF b).z
    .ok (.jf g (unpackSF b).seg (unpackSF b).entry)
  else if op = 0x2F then do
    zero (unpackSF b).z
    .ok (.callf g (unpackSF b).seg (unpackSF b).entry)
  else if op ≤ 0x33 then decSG op g (unpackSG b)
  else if op ≤ 0x47 then decSM op g (unpackSM b)
  else decSG op g (unpackSG b)

/-- The limits of R56 that concern more than one field. -/
def checked (i : Instr) : Except DecodeErr Instr := if limits i then .ok i else .error .limit

/-- The instruction of an S syllable (R54, R56). -/
def decodeS (w : BitVec 64) : Except DecodeErr Instr := do
  let i ← decSBody (unpackHead w).op.toNat (headGuard (unpackHead w)) (unpackHead w).body
  checked i

/-- A type field (R52). -/
def dTy (f : BitVec 5) : Except DecodeErr Ty := code f.toNat (tyOf f.toNat)

/-- The second source of format VA: vb, or the immediate with vb zero (R48). -/
def dVSrcB (f : FmtVA) : Except DecodeErr VSrcB :=
  if one1 f.i then do
    zero f.vb
    .ok (.imm f.imm)
  else do
    zero f.imm
    let b ← dVop f.vb
    .ok (.reg b)

/-- Which fields of format VA an instruction uses beside vd, va and ty; the others are zero (R55, R56 item 6). -/
def vaOnly (f : FmtVA) (vc rm sat : Bool) : Except DecodeErr Unit := do
  need (vc || f.vc == 0) .nonzeroField
  need (rm || f.rm == 0) .nonzeroField
  need (sat || f.sat == 0) .nonzeroField
  zero f.z

def dRm (f : FmtVA) : Except DecodeErr Rm := code f.rm.toNat (rmOf f.rm.toNat)

/-- vb, I and imm zero. -/
def vaNoB (f : FmtVA) : Except DecodeErr Unit := do
  zero f.vb
  zero f.i
  zero f.imm

/-- vd, va, vb or imm, ty, rm, sat. -/
def dVA3rs (f : FmtVA) (k : Ty → Rm → Bool → VOp → VOp → VSrcB → Instr) : Except DecodeErr Instr := do
  vaOnly f false true true
  let t ← dTy f.ty
  let rm ← dRm f
  let vd ← dVop f.vd
  let va ← dVop f.va
  let b ← dVSrcB f
  .ok (k t rm (one1 f.sat) vd va b)

/-- As dVA3rs with vc. -/
def dVA4rs (f : FmtVA) (k : Ty → Rm → Bool → VOp → VOp → VSrcB → VOp → Instr) : Except DecodeErr Instr := do
  vaOnly f true true true
  let t ← dTy f.ty
  let rm ← dRm f
  let vd ← dVop f.vd
  let va ← dVop f.va
  let b ← dVSrcB f
  let vc ← dVop f.vc
  .ok (k t rm (one1 f.sat) vd va b vc)

/-- vd, va, vb or imm, ty. -/
def dVA3 (f : FmtVA) (k : Ty → VOp → VOp → VSrcB → Instr) : Except DecodeErr Instr := do
  vaOnly f false false false
  let t ← dTy f.ty
  let vd ← dVop f.vd
  let va ← dVop f.va
  let b ← dVSrcB f
  .ok (k t vd va b)

/-- vd, va, ty, rm, sat. -/
def dVA2rs (f : FmtVA) (k : Ty → Rm → Bool → VOp → VOp → Instr) : Except DecodeErr Instr := do
  vaOnly f false true true
  vaNoB f
  let t ← dTy f.ty
  let rm ← dRm f
  let vd ← dVop f.vd
  let va ← dVop f.va
  .ok (k t rm (one1 f.sat) vd va)

/-- vd, va, ty, sat. -/
def dVA2s (f : FmtVA) (k : Ty → Bool → VOp → VOp → Instr) : Except DecodeErr Instr := do
  vaOnly f false false true
  vaNoB f
  let t ← dTy f.ty
  let vd ← dVop f.vd
  let va ← dVop f.va
  .ok (k t (one1 f.sat) vd va)

/-- vd, va, ty. -/
def dVA2 (f : FmtVA) (k : Ty → VOp → VOp → Instr) : Except DecodeErr Instr := do
  vaOnly f false false false
  vaNoB f
  let t ← dTy f.ty
  let vd ← dVop f.vd
  let va ← dVop f.va
  .ok (k t vd va)

/-- vd, va, vb, ty with imm [0] selecting a half. -/
def dVAhalf (f : FmtVA) (k : Ty → Bool → VOp → VOp → VOp → Instr) : Except DecodeErr Instr := do
  vaOnly f false false false
  zero f.i
  need (f.imm.toNat < 2) (.reservedCode f.imm.toNat)
  let t ← dTy f.ty
  let vd ← dVop f.vd
  let va ← dVop f.va
  let vb ← dVop f.vb
  .ok (k t (f.imm == 1) vd va vb)

/-- Format VA of the V map (R55). -/
def decVA (op : Nat) (g : Guard) (f : FmtVA) : Except DecodeErr Instr :=
  match op with
  | 0x01 => dVA3rs f (.vadd g)
  | 0x02 => dVA3rs f (.vsub g)
  | 0x03 => dVA3rs f (.vmul g)
  | 0x04 => dVA3 f (.vmulh g)
  | 0x05 => dVA4rs f (.vfma g)
  | 0x06 => dVA4rs f (.vfms g)
  | 0x07 => dVA4rs f (.vfnma g)
  | 0x08 => dVA3 f (.vmin g)
  | 0x09 => dVA3 f (.vmax g)
  | 0x0A => dVA2s f (.vabs g)
  | 0x0B => dVA2s f (.vneg g)
  | 0x0C => dVA3rs f (.vdiv g)
  | 0x0D => dVA2rs f (.vsqrt g)
  | 0x0E => dVA2rs f (.vrcp g)
  | 0x0F => dVA2rs f (.vrsq g)
  | 0x10 => dVA2rs f (.vexp2 g)
  | 0x11 => dVA2rs f (.vlog2 g)
  | 0x12 => dVA2rs f (.vsigm g)
  | 0x13 => dVA2rs f (.vsilu g)
  | 0x14 => dVA3 f (.vand g)
  | 0x15 => dVA3 f (.vor g)
  | 0x16 => dVA3 f (.vxor g)
  | 0x17 => dVA3 f (.vandn g)
  | 0x18 => dVA3 f (.vsll g)
  | 0x19 => dVA3 f (.vsrl g)
  | 0x1A => dVA3 f (.vsra g)
  | 0x1B => dVA2 f (.vclz g)
  | 0x1C => dVA2 f (.vpopc g)
  | 0x1E => dVA2 f (.vclass g)
  | 0x1F => do
    vaOnly f false false false
    vaNoB f
    zero f.ty
    let vd ← dVop f.vd
    let va ← dVop f.va
    .ok (.vmov g vd va)
  | 0x43 => do
    vaOnly f false false false
    zero f.i
    zero f.imm
    let t ← dTy f.ty
    let vd ← dVop f.vd
    let va ← dVop f.va
    let vb ← dVop f.vb
    .ok (.vperm g t vd va vb)
  | 0x44 => dVA3 f (.vrot g)
  | 0x45 => dVAhalf f (.vzip g)
  | 0x46 => dVAhalf f (.vuzp g)
  | 0x47 => do
    vaOnly f true true true
    zero f.vb
    zero f.i
    let t ← dTy f.ty
    let ts ← dTy f.vc
    let rm ← dRm f
    let vd ← dVop f.vd
    let va ← dVop f.va
    .ok (.vcvt g t ts rm (one1 f.sat) vd va f.imm)
  | 0x48 => do
    vaOnly f true true true
    zero f.i
    let t ← dTy f.ty
    let ts ← dTy f.vc
    let rm ← dRm f
    let vd ← dVop f.vd
    let va ← dVop f.va
    let vb ← dVop f.vb
    .ok (.vscl g t ts rm (one1 f.sat) vd va vb f.imm)
  | 0x49 => do
    vaOnly f true true false
    zero f.i
    zero f.imm
    let t ← dTy f.ty
    let ts ← dTy f.vc
    let rm ← dRm f
    let vd ← dVop f.vd
    let va ← dVop f.va
    let vb ← dVop f.vb
    .ok (.vdot g t ts rm vd va vb)
  | 0x50 => dVA2rs f (.vredadd g)
  | 0x51 => dVA2 f (.vredmax g)
  | 0x52 => dVA2 f (.vredmin g)
  | n => .error (.unassigned n)

/-- OP 0x1D, format VC (R55). -/
def decVC (g : Guard) (f : FmtVC) : Except DecodeErr Instr := do
  zero f.z
  let c ← code f.cond.toNat (condOf f.cond.toNat)
  let t ← dTy f.ty
  let va ← dVop f.va
  if one1 f.i then do
    zero f.vb
    .ok (.vcmp g f.pd f.pe (pmodeOf f.m.toNat) c t va (.imm f.imm))
  else do
    zero f.imm
    let b ← dVop f.vb
    .ok (.vcmp g f.pd f.pe (pmodeOf f.m.toNat) c t va (.reg b))

/-- Format VS of the V map (R55). -/
def decVS (op : Nat) (g : Guard) (f : FmtVS) : Except DecodeErr Instr := do
  zero f.z
  let t ← dTy f.ty
  let s ← dSop f.s
  match op with
  | 0x40 => do
    zero f.va
    zero f.imm
    let vd ← dVop f.vd
    .ok (.vbc g t vd s)
  | 0x41 => do
    zero f.vd
    let va ← dVop f.va
    .ok (.vext g t s va f.imm)
  | 0x42 => do
    zero f.va
    let vd ← dVop f.vd
    .ok (.vins g t vd s f.imm)
  | 0x53 => do
    zero f.imm
    let vd ← dVop f.vd
    let va ← dVop f.va
    .ok (.vscan g t vd va s)
  | _ => do
    zero f.va
    let vd ← dVop f.vd
    .ok (.vrng g t vd s f.imm)

/-- Format VM of the V map (R55). -/
def decVM (op : Nat) (g : Guard) (f : FmtVM) : Except DecodeErr Instr := do
  zero f.z
  zero f.sb
  match op with
  | 0x58 => do
    zero f.bm
    let t ← dT f
    let sa ← dSop f.sa
    let vd ← dVop f.vd
    .ok (.vaccrd g t sa vd f.imm)
  | 0x59 => do
    zero f.bm
    let t ← dT f
    let sa ← dSop f.sa
    let vd ← dVop f.vd
    .ok (.vaccwr g t sa vd f.imm)
  | 0x5A => do
    vmOnly f true false false
    let t ← dT f
    .ok (.vacczr g t)
  | 0x5B => do
    vmOnly f false true true
    let sa ← dSop f.sa
    .ok (.mldb g f.bm sa)
  | 0x5C => do
    vmOnly f true true true
    let t ← dT f
    let sa ← dSop f.sa
    .ok (.mma g t f.bm sa)
  | 0x5D => do
    vmOnly f true false false
    let t ← dT f
    .ok (.mclaim g t)
  | 0x5E => do
    vmOnly f true false false
    let t ← dT f
    .ok (.mrel g t)
  | _ => do
    vmOnly f false false false
    .ok (.mfence g)
where
  dT (f : FmtVM) : Except DecodeErr TileSel := code f.t.toNat (tileOf f.t.toNat)
  vmOnly (f : FmtVM) (t bm sa : Bool) : Except DecodeErr Unit := do
    need (t || f.t == 0) .nonzeroField
    need (bm || f.bm == 0) .nonzeroField
    need (sa || f.sa == 0) .nonzeroField
    zero f.vd
    zero f.imm

/-- Format VP of the V map (R55). -/
def decVP (op : Nat) (g : Guard) (f : FmtVP) : Except DecodeErr Instr := do
  zero f.z
  match op with
  | 0x60 => do
    zero f.vd
    zero f.va
    zero f.ord
    let s ← dSop f.s
    .ok (.spjoin g f.ch s)
  | 0x61 => full f (.spscan g)
  | 0x62 => full f (.spred g)
  | 0x63 => do
    zero f.vd
    zero f.va
    zero f.s
    let o ← code f.ord.toNat (spOrdOf f.ord.toNat)
    .ok (.spbar g o f.ch)
  | _ => full f (.spbc g)
where
  full (f : FmtVP) (k : SpOrd → BitVec 5 → VOp → VOp → SOp → Instr) : Except DecodeErr Instr := do
    let o ← code f.ord.toNat (spOrdOf f.ord.toNat)
    let vd ← dVop f.vd
    let va ← dVop f.va
    let s ← dSop f.s
    .ok (k o f.ch vd va s)

/-- The reading of a V syllable by format, before the limits (R55). -/
def decVBody (op : Nat) (g : Guard) (b : BitVec 40) : Except DecodeErr Instr :=
  if op = 0 then do
    zero b
    .ok (.nop g)
  else if op = 0x1D then decVC g (unpackVC b)
  else if op ≤ 0x1F then decVA op g (unpackVA b)
  else if op ≤ 0x3F then .error (.unassigned op)
  else if op ≤ 0x42 then decVS op g (unpackVS b)
  else if op ≤ 0x52 then decVA op g (unpackVA b)
  else if op ≤ 0x54 then decVS op g (unpackVS b)
  else if op ≤ 0x57 then .error (.unassigned op)
  else if op ≤ 0x5F then decVM op g (unpackVM b)
  else if op ≤ 0x64 then decVP op g (unpackVP b)
  else .error (.unassigned op)

/-- The instruction of a V syllable (R55, R56). -/
def decodeV (w : BitVec 64) : Except DecodeErr Instr := do
  let i ← decVBody (unpackHead w).op.toNat (headGuard (unpackHead w)) (unpackHead w).body
  checked i

/-- Three-register filter words: IMM [3:0] names the second source and IMM [17:4] is zero (R457). -/
def dLan3 (f : FmtLan) (k : BitVec 4 → BitVec 4 → BitVec 4 → Instr) : Except DecodeErr Instr := do
  zero (f.imm.extractLsb' 4 14)
  .ok (k f.d f.a (f.imm.extractLsb' 0 4))

/-- A filter word before the limits (R457). -/
def decLan (f : FmtLan) : Except DecodeErr Instr :=
  match f.op.toNat with
  | 0x01 => .ok (.lanternLdr f.d f.a f.imm)
  | 0x02 => .ok (.lanternLdi f.d f.a f.imm)
  | 0x03 => dLan3 f .lanternAdd
  | 0x04 => dLan3 f .lanternAnd
  | 0x05 => dLan3 f .lanternOr
  | 0x06 => dLan3 f .lanternXor
  | 0x07 => .ok (.lanternShr f.d f.a f.imm)
  | 0x08 => .ok (.lanternShl f.d f.a f.imm)
  | 0x09 => .ok (.lanternAndi f.d f.a f.imm)
  | 0x0A => .ok (.lanternBeq f.d f.a f.imm)
  | 0x0B => .ok (.lanternBne f.d f.a f.imm)
  | 0x0C => .ok (.lanternBltu f.d f.a f.imm)
  | 0x0D => .ok (.lanternBgeu f.d f.a f.imm)
  | 0x10 => .ok (.lanternKeep f.d f.a f.imm)
  | 0x11 => .ok (.lanternDrop f.d f.a f.imm)
  | 0x12 => .ok (.lanternCnt f.d f.a f.imm)
  | 0x13 => .ok (.lanternTrig f.d f.a f.imm)
  | n => .error (.unassigned n)

/-- The instruction of a filter word (R457). -/
def decodeLantern (w : BitVec 32) : Except DecodeErr Instr := do
  let i ← decLan (unpackLan w)
  checked i

/-- The two instructions of a bundle (R43). -/
def bundleS (b : Bundle) : BitVec 64 := b.extractLsb' 0 64
def bundleV (b : Bundle) : BitVec 64 := b.extractLsb' 64 64

/-- The instruction of an opcode-table row's bits: a filter word where the row has at most 32 bits, an S syllable where it
has at most 64, else a bundle, of which the S syllable is answered, or the V syllable where the S syllable is a NOP. -/
def decodeTableWord (nbits w : Nat) : Option Instr :=
  if nbits ≤ 32 then (decodeLantern (BitVec.ofNat 32 w)).toOption
  else if nbits ≤ 64 then (decodeS (BitVec.ofNat 64 w)).toOption
  else
    match decodeS (BitVec.ofNat 64 w) with
    | .ok (.nop _) => (decodeV (BitVec.ofNat 64 (w / 2 ^ 64))).toOption
    | .ok i => some i
    | .error _ => none

/-! The encoder, written from the same tables. -/

/-- A syllable from its guard, opcode and body (R44). -/
def syl (g : Guard) (op : BitVec 7) (body : BitVec 40) : BitVec 64 := packHead ⟨g.tt, g.pa, g.pb, g.pc, op, body⟩

def eSop (o : SOp) : BitVec 6 := BitVec.ofNat 6 (sopCode o)
def eVop5 (o : VOp) : BitVec 5 := BitVec.ofNat 5 (vopCode o)
def eVop6 (o : VOp) : BitVec 6 := BitVec.ofNat 6 (vopCode o)
def eBit (b : Bool) : BitVec 1 := if b then 1 else 0
def eTy (t : Ty) : BitVec 5 := BitVec.ofNat 5 (tyCode t)
def eRm (r : Rm) : BitVec 3 := BitVec.ofNat 3 (rmCode r)

/-- rb, rc and eleven zeros of format SA. -/
def saLow (rb rc : BitVec 6) : BitVec 23 := rb ++ rc ++ (0 : BitVec 11)

def eSA3 (rd ra : SOp) (fn : BitVec 4) (b : SrcB) : BitVec 40 :=
  match b with
  | .reg rb => packSA ⟨eSop rd, eSop ra, fn, 0, saLow (eSop rb) 0⟩
  | .imm i => packSA ⟨eSop rd, eSop ra, fn, 1, i⟩

def eFn (b : Bool) : BitVec 4 := if b then 1 else 0

def eSA2 (rd ra : SOp) (fn : BitVec 4) : BitVec 40 := packSA ⟨eSop rd, eSop ra, fn, 0, 0⟩

/-- rb, sc, aux and four zeros of format SM. -/
def smLow (rb : BitVec 6) (sc : BitVec 2) (aux : BitVec 4) : BitVec 16 := rb ++ sc ++ aux ++ (0 : BitVec 4)

def eSM (d : BitVec 6) (ra : SOp) (sp wd : BitVec 2) (sx : Bool) (o : MOrd) (c : Scope) (m : MemOff) : BitVec 40 :=
  match m with
  | .off x => packSM ⟨d, eSop ra, sp, wd, eBit sx, BitVec.ofNat 2 (ordCode o), BitVec.ofNat 4 (scopeCode c), 1, x⟩
  | .idx rb sc => packSM ⟨d, eSop ra, sp, wd, eBit sx, BitVec.ofNat 2 (ordCode o), BitVec.ofNat 4 (scopeCode c), 0,
      smLow (eSop rb) (BitVec.ofNat 2 (scaleCode sc)) 0⟩

/-- The forms that take rb alone, with an aux code. -/
def eSMrb (d : BitVec 6) (ra : SOp) (sp wd : BitVec 2) (o : MOrd) (c : Scope) (rb : SOp) (aux : BitVec 4) : BitVec 40 :=
  packSM ⟨d, eSop ra, sp, wd, 0, BitVec.ofNat 2 (ordCode o), BitVec.ofNat 4 (scopeCode c), 0, smLow (eSop rb) 0 aux⟩

def eSp (s : Space) : BitVec 2 := BitVec.ofNat 2 (spaceCode s)

def eSG (x ra rb : BitVec 6) (k : BitVec 1) (fn : BitVec 4) (imm : BitVec 17) : BitVec 40 := packSG ⟨x, ra, rb, k, fn, imm⟩

def eX (x : XOp) : BitVec 6 :=
  match x with
  | .sc o => eSop o
  | .vec o => eVop6 o

def eK (x : XOp) : BitVec 1 :=
  match x with
  | .sc _ => 0
  | .vec _ => 1

/-- The S syllable of an instruction of the S map (R54); none for the others. -/
def encodeS : Instr → Option (BitVec 64)
  | .nop g => some (syl g 0x00 (eSG 0 0 0 0 0 0))
  | .plive g m => some (syl g 0x00 (eSG 0 0 0 0 1 (m.setWidth 17)))
  | .add g rd ra b => some (syl g 0x01 (eSA3 rd ra 0 b))
  | .sub g rd ra b => some (syl g 0x02 (eSA3 rd ra 0 b))
  | .mul g rd ra b => some (syl g 0x03 (eSA3 rd ra 0 b))
  | .mulh g u rd ra b => some (syl g 0x04 (eSA3 rd ra (eFn u) b))
  | .div g u rd ra b => some (syl g 0x05 (eSA3 rd ra (eFn u) b))
  | .rem g u rd ra b => some (syl g 0x06 (eSA3 rd ra (eFn u) b))
  | .madd g rd ra rb rc => some (syl g 0x07 (packSA ⟨eSop rd, eSop ra, 0, 0, saLow (eSop rb) (eSop rc)⟩))
  | .and g rd ra b => some (syl g 0x08 (eSA3 rd ra 0 b))
  | .or g rd ra b => some (syl g 0x09 (eSA3 rd ra 0 b))
  | .xor g rd ra b => some (syl g 0x0A (eSA3 rd ra 0 b))
  | .andn g rd ra b => some (syl g 0x0B (eSA3 rd ra 0 b))
  | .orn g rd ra b => some (syl g 0x0C (eSA3 rd ra 0 b))
  | .xnor g rd ra b => some (syl g 0x0D (eSA3 rd ra 0 b))
  | .sll g rd ra b => some (syl g 0x0E (eSA3 rd ra 0 b))
  | .srl g rd ra b => some (syl g 0x0F (eSA3 rd ra 0 b))
  | .sra g rd ra b => some (syl g 0x10 (eSA3 rd ra 0 b))
  | .rol g rd ra b => some (syl g 0x11 (eSA3 rd ra 0 b))
  | .ror g rd ra b => some (syl g 0x12 (eSA3 rd ra 0 b))
  | .clz g rd ra => some (syl g 0x13 (eSA2 rd ra 0))
  | .ctz g rd ra => some (syl g 0x13 (eSA2 rd ra 1))
  | .popc g rd ra => some (syl g 0x13 (eSA2 rd ra 2))
  | .brev g rd ra => some (syl g 0x13 (eSA2 rd ra 3))
  | .bswap g rd ra => some (syl g 0x13 (eSA2 rd ra 4))
  | .abs g rd ra => some (syl g 0x13 (eSA2 rd ra 5))
  | .bext g sx rd ra b => some (syl g 0x14 (eSA3 rd ra (eFn sx) b))
  | .bins g rd ra b => some (syl g 0x15 (eSA3 rd ra 0 b))
  | .sext g rd ra n => some (syl g 0x16 (packSA ⟨eSop rd, eSop ra, 0, 1, n⟩))
  | .zext g rd ra n => some (syl g 0x17 (packSA ⟨eSop rd, eSop ra, 0, 1, n⟩))
  | .min g u rd ra b => some (syl g 0x18 (eSA3 rd ra (eFn u) b))
  | .max g u rd ra b => some (syl g 0x19 (eSA3 rd ra (eFn u) b))
  | .shadd g k rd ra b => some (syl g 0x1A (eSA3 rd ra (k.setWidth 4) b))
  | .li g rd i => some (syl g 0x1B (packSL ⟨eSop rd, i⟩))
  | .lih g rd i => some (syl g 0x1C (packSL ⟨eSop rd, i.setWidth 34⟩))
  | .mov g rd ra => some (syl g 0x1D (eSA2 rd ra 0))
  | .sel g q rd ra rb => some (syl g 0x1E (packSA ⟨eSop rd, eSop ra, q.setWidth 4, 0, saLow (eSop rb) 0⟩))
  | .cmp g pd pe m c ra rb => some (syl g 0x20 (packSC ⟨pd, pe, BitVec.ofNat 2 (pmodeCode m), BitVec.ofNat 4 (condCode c),
      eSop ra, eSop rb ++ (0 : BitVec 16)⟩))
  | .cmpi g pd pe m c ra i => some (syl g 0x21 (packSC ⟨pd, pe, BitVec.ofNat 2 (pmodeCode m), BitVec.ofNat 4 (condCode c),
      eSop ra, i⟩))
  | .ptt g pd pe m tt qa qb qc => some (syl g 0x22 (packSP ⟨pd, pe, BitVec.ofNat 2 (pmodeCode m), tt, qa, qb, qc, 0, 0, 0⟩))
  | .pmov g pd ra => some (syl g 0x23 (packSP ⟨pd, 0, 0, 0, 0, 0, 0, 0, eSop ra, 0⟩))
  | .pget g rd qa => some (syl g 0x24 (packSP ⟨0, 0, 0, 0, qa, 0, 0, eSop rd, 0, 0⟩))
  | .pany g pd pe m qa lw => some (syl g 0x25 (packSP ⟨pd, pe, BitVec.ofNat 2 (pmodeCode m), 0, qa, 0, 0, 0, 0, lw.setWidth 3⟩))
  | .pall g pd pe m qa lw => some (syl g 0x26 (packSP ⟨pd, pe, BitVec.ofNat 2 (pmodeCode m), 0, qa, 0, 0, 0, 0, lw.setWidth 3⟩))
  | .pcnt g rd qa lw => some (syl g 0x27 (packSP ⟨0, 0, 0, 0, qa, 0, 0, eSop rd, 0, lw.setWidth 3⟩))
  | .pfirst g rd qa lw => some (syl g 0x27 (packSP ⟨0, 0, 1, 0, qa, 0, 0, eSop rd, 0, lw.setWidth 3⟩))
  | .br g off => some (syl g 0x28 off)
  | .call g off => some (syl g 0x29 off)
  | .loop g ra off => some (syl g 0x2A (packSL ⟨eSop ra, off⟩))
  | .jmp g ra => some (syl g 0x2B (eSG 0 (eSop ra) 0 0 0 0))
  | .callr g ra => some (syl g 0x2C (eSG 0 (eSop ra) 0 0 0 0))
  | .ret g => some (syl g 0x2D (eSG 0 0 0 0 0 0))
  | .jf g s e => some (syl g 0x2E (packSF ⟨s, e, 0⟩))
  | .callf g s e => some (syl g 0x2F (packSF ⟨s, e, 0⟩))
  | .trap g c => some (syl g 0x30 (eSG 0 0 0 0 0 (c.setWidth 17)))
  | .brk g c => some (syl g 0x31 (eSG 0 0 0 0 0 (c.setWidth 17)))
  | .eret g => some (syl g 0x32 (eSG 0 0 0 0 0 0))
  | .halt g => some (syl g 0x33 (eSG 0 0 0 0 0 0))
  | .wfe g m => some (syl g 0x33 (eSG 0 0 0 0 1 (m.setWidth 17)))
  | .ld g sp wd sx o c d ra m => some (syl g 0x34 (eSM (eSop d) ra (eSp sp) wd sx o c m))
  | .st g sp wd o c d ra m => some (syl g 0x35 (eSM (eSop d) ra (eSp sp) wd false o c m))
  | .vld g sp o c d ra m => some (syl g 0x36 (eSM (eVop6 d) ra (eSp sp) 0 false o c m))
  | .vst g sp o c d ra m => some (syl g 0x37 (eSM (eVop6 d) ra (eSp sp) 0 false o c m))
  | .vlds g sp wd o c d ra rb => some (syl g 0x38 (eSMrb (eVop6 d) ra (eSp sp) wd o c rb 0))
  | .vsts g sp wd o c d ra rb => some (syl g 0x39 (eSMrb (eVop6 d) ra (eSp sp) wd o c rb 0))
  | .vldx g o c d ra rb => some (syl g 0x3A (eSMrb (eVop6 d) ra 0 0 o c rb 0))
  | .vstx g o c d ra rb => some (syl g 0x3B (eSMrb (eVop6 d) ra 0 0 o c rb 0))
  | .ldfe g o c d ra m => some (syl g 0x3C (eSM (eSop d) ra 0 3 false o c m))
  | .ldff g o c d ra m => some (syl g 0x3D (eSM (eSop d) ra 0 3 false o c m))
  | .stef g o c d ra m => some (syl g 0x3E (eSM (eSop d) ra 0 3 false o c m))
  | .stff g o c d ra m => some (syl g 0x3F (eSM (eSop d) ra 0 3 false o c m))
  | .fest g f ra rb sc => some (syl g 0x40 (packSM ⟨0, eSop ra, 0, 3, 0, 0, 0, 0,
      smLow (eSop rb) (BitVec.ofNat 2 (scaleCode sc)) (eFn f)⟩))
  | .amo g op sp w o c d ra rb => some (syl g 0x41 (eSMrb (eSop d) ra (eSp sp) (if w then 3 else 2) o c rb (BitVec.ofNat 4 (amoCode op))))
  | .cas g sp w o c d ra rb => some (syl g 0x42 (eSMrb (eSop d) ra (eSp sp) (if w then 3 else 2) o c rb 0))
  | .fence g k c => some (syl g 0x43 (packSM ⟨0, 0, 0, BitVec.ofNat 2 (fenceCode k), 0, 0, BitVec.ofNat 4 (scopeCode c), 0, 0⟩))
  | .seal g sp ra rb => some (syl g 0x44 (eSMrb 0 ra (eSp sp) 0 .plain .th rb 0))
  | .unseal g sp d ra rb => some (syl g 0x45 (eSMrb (eSop d) ra (eSp sp) 0 .plain .th rb 0))
  | .publish g sp ra => some (syl g 0x46 (packSM ⟨0, eSop ra, eSp sp, 0, 0, 0, 0, 0, 0⟩))
  | .cfetch g sp ra seg => some (syl g 0x47 (packSM ⟨0, eSop ra, eSp sp, 0, 0, 0, 0, 1, seg.setWidth 16⟩))
  | .rfill g x p t => some (syl g 0x50 (eSG (eX x) 0 0 (eK x) 0 ((0 : BitVec 3) ++ t ++ (0 : BitVec 6) ++ p)))
  | .remp g x => some (syl g 0x51 (eSG (eX x) 0 0 (eK x) 0 0))
  | .bind g ra rb sel => some (syl g 0x52 (eSG 0 (eSop ra) (eSop rb) 0 0 (sel.setWidth 17)))
  | .unbind g sel => some (syl g 0x53 (eSG 0 0 0 0 0 (sel.setWidth 17)))
  | .winb g ra n => some (syl g 0x54 (eSG 0 (eSop ra) 0 0 0 (n.setWidth 17)))
  | .sbind g x ra => some (syl g 0x55 (eSG (eX x) (eSop ra) 0 (eK x) 0 0))
  | .sunbind g x => some (syl g 0x56 (eSG (eX x) 0 0 (eK x) 0 0))
  | .mark g ra n => some (syl g 0x57 (eSG 0 (eSop ra) 0 0 0 (n.setWidth 17)))
  | .cpy g x ra rb ch => some (syl g 0x58 (eSG (eSop x) (eSop ra) (eSop rb) 0 0 (ch.setWidth 17)))
  | .cpyr g i x ra rb ch => some (syl g 0x59 (eSG (eSop x) (eSop ra) (eSop rb) 0 (eFn i) (ch.setWidth 17)))
  | .twait g ra ch => some (syl g 0x5A (eSG 0 (eSop ra) 0 0 0 (ch.setWidth 17)))
  | .tstat g x ch => some (syl g 0x5B (eSG (eSop x) 0 0 0 0 (ch.setWidth 17)))
  | .mcmd g x ra rb n => some (syl g 0x5C (eSG (eSop x) (eSop ra) (eSop rb) 0 0 (n.setWidth 17)))
  | .spawn g h x ra rb => some (syl g 0x60 (eSG (eSop x) (eSop ra) (eSop rb) 0 (eFn h) 0))
  | .lnch g x ra => some (syl g 0x61 (eSG (eSop x) (eSop ra) 0 0 0 0))
  | .trig g => some (syl g 0x62 (eSG 0 0 0 0 0 0))
  | .setph g ra => some (syl g 0x63 (eSG 0 (eSop ra) 0 0 0 0))
  | .waitph g ra rb => some (syl g 0x64 (eSG 0 (eSop ra) (eSop rb) 0 0 0))
  | .gang g k => some (syl g 0x65 (eSG 0 0 0 0 0 (k.setWidth 17)))
  | .split g => some (syl g 0x66 (eSG 0 0 0 0 0 0))
  | .join g => some (syl g 0x67 (eSG 0 0 0 0 0 0))
  | .csrr g x n => some (syl g 0x68 (eSG (eSop x) 0 0 0 0 (n.setWidth 17)))
  | .csrw g x ra n => some (syl g 0x69 (eSG (eSop x) (eSop ra) 0 0 0 (n.setWidth 17)))
  | .csrs g x ra n => some (syl g 0x6A (eSG (eSop x) (eSop ra) 0 0 0 (n.setWidth 17)))
  | .csrc g x ra n => some (syl g 0x6B (eSG (eSop x) (eSop ra) 0 0 0 (n.setWidth 17)))
  | .sfence g ra rb => some (syl g 0x6C (eSG 0 (eSop ra) (eSop rb) 0 0 0))
  | .cmreq g x ra => some (syl g 0x6D (eSG (eSop x) (eSop ra) 0 0 0 0))
  | .tmark g m => some (syl g 0x6E (eSG 0 0 0 0 0 (m.setWidth 17)))
  | .ipi g ra c => some (syl g 0x6F (eSG 0 (eSop ra) 0 0 0 (c.setWidth 17)))
  | _ => none

def eVA (vd va vc : BitVec 5) (t : Ty) (rm : Rm) (sat : Bool) (b : VSrcB) : BitVec 40 :=
  match b with
  | .reg o => packVA ⟨vd, va, eVop5 o, vc, eTy t, eRm rm, eBit sat, 0, 0, 0⟩
  | .imm i => packVA ⟨vd, va, 0, vc, eTy t, eRm rm, eBit sat, 1, 0, i⟩

def eVA3 (t : Ty) (rm : Rm) (sat : Bool) (vd va : VOp) (b : VSrcB) : BitVec 40 := eVA (eVop5 vd) (eVop5 va) 0 t rm sat b
def eVA2 (t : Ty) (rm : Rm) (sat : Bool) (vd va : VOp) : BitVec 40 :=
  packVA ⟨eVop5 vd, eVop5 va, 0, 0, eTy t, eRm rm, eBit sat, 0, 0, 0⟩
/-- The forms with three registers, I = 0 and an immediate that is a part number or a half selector. -/
def eVAq (vd va vb vc : BitVec 5) (t : Ty) (rm : Rm) (sat : Bool) (q : BitVec 8) : BitVec 40 :=
  packVA ⟨vd, va, vb, vc, eTy t, eRm rm, eBit sat, 0, 0, q⟩
def eVS (vd va : BitVec 5) (s : SOp) (t : Ty) (i : BitVec 8) : BitVec 40 := packVS ⟨vd, va, eSop s, eTy t, i, 0⟩
def eT (t : TileSel) : BitVec 2 := BitVec.ofNat 2 (tileCode t)
def eHalf (b : Bool) : BitVec 8 := if b then 1 else 0
def eVP (vd va : BitVec 5) (s : BitVec 6) (ch : BitVec 5) (o : SpOrd) : BitVec 40 :=
  packVP ⟨vd, va, s, ch, BitVec.ofNat 2 (spOrdCode o), 0⟩

/-- The V syllable of an instruction of the V map (R55); none for the others. -/
def encodeV : Instr → Option (BitVec 64)
  | .nop g => some (syl g 0x00 0)
  | .vadd g t rm sat vd va b => some (syl g 0x01 (eVA3 t rm sat vd va b))
  | .vsub g t rm sat vd va b => some (syl g 0x02 (eVA3 t rm sat vd va b))
  | .vmul g t rm sat vd va b => some (syl g 0x03 (eVA3 t rm sat vd va b))
  | .vmulh g t vd va b => some (syl g 0x04 (eVA3 t .rne false vd va b))
  | .vfma g t rm sat vd va b vc => some (syl g 0x05 (eVA (eVop5 vd) (eVop5 va) (eVop5 vc) t rm sat b))
  | .vfms g t rm sat vd va b vc => some (syl g 0x06 (eVA (eVop5 vd) (eVop5 va) (eVop5 vc) t rm sat b))
  | .vfnma g t rm sat vd va b vc => some (syl g 0x07 (eVA (eVop5 vd) (eVop5 va) (eVop5 vc) t rm sat b))
  | .vmin g t vd va b => some (syl g 0x08 (eVA3 t .rne false vd va b))
  | .vmax g t vd va b => some (syl g 0x09 (eVA3 t .rne false vd va b))
  | .vabs g t sat vd va => some (syl g 0x0A (eVA2 t .rne sat vd va))
  | .vneg g t sat vd va => some (syl g 0x0B (eVA2 t .rne sat vd va))
  | .vdiv g t rm sat vd va b => some (syl g 0x0C (eVA3 t rm sat vd va b))
  | .vsqrt g t rm sat vd va => some (syl g 0x0D (eVA2 t rm sat vd va))
  | .vrcp g t rm sat vd va => some (syl g 0x0E (eVA2 t rm sat vd va))
  | .vrsq g t rm sat vd va => some (syl g 0x0F (eVA2 t rm sat vd va))
  | .vexp2 g t rm sat vd va => some (syl g 0x10 (eVA2 t rm sat vd va))
  | .vlog2 g t rm sat vd va => some (syl g 0x11 (eVA2 t rm sat vd va))
  | .vsigm g t rm sat vd va => some (syl g 0x12 (eVA2 t rm sat vd va))
  | .vsilu g t rm sat vd va => some (syl g 0x13 (eVA2 t rm sat vd va))
  | .vand g t vd va b => some (syl g 0x14 (eVA3 t .rne false vd va b))
  | .vor g t vd va b => some (syl g 0x15 (eVA3 t .rne false vd va b))
  | .vxor g t vd va b => some (syl g 0x16 (eVA3 t .rne false vd va b))
  | .vandn g t vd va b => some (syl g 0x17 (eVA3 t .rne false vd va b))
  | .vsll g t vd va b => some (syl g 0x18 (eVA3 t .rne false vd va b))
  | .vsrl g t vd va b => some (syl g 0x19 (eVA3 t .rne false vd va b))
  | .vsra g t vd va b => some (syl g 0x1A (eVA3 t .rne false vd va b))
  | .vclz g t vd va => some (syl g 0x1B (eVA2 t .rne false vd va))
  | .vpopc g t vd va => some (syl g 0x1C (eVA2 t .rne false vd va))
  | .vcmp g pd pe m c t va b => some (syl g 0x1D (match b with
      | .reg o => packVC ⟨pd, pe, BitVec.ofNat 2 (pmodeCode m), BitVec.ofNat 4 (condCode c), eVop5 va, eVop5 o, eTy t, 0, 0, 0⟩
      | .imm i => packVC ⟨pd, pe, BitVec.ofNat 2 (pmodeCode m), BitVec.ofNat 4 (condCode c), eVop5 va, 0, eTy t, 1, i, 0⟩))
  | .vclass g t vd va => some (syl g 0x1E (eVA2 t .rne false vd va))
  | .vmov g vd va => some (syl g 0x1F (packVA ⟨eVop5 vd, eVop5 va, 0, 0, 0, 0, 0, 0, 0, 0⟩))
  | .vbc g t vd s => some (syl g 0x40 (eVS (eVop5 vd) 0 s t 0))
  | .vext g t s va i => some (syl g 0x41 (eVS 0 (eVop5 va) s t i))
  | .vins g t vd s i => some (syl g 0x42 (eVS (eVop5 vd) 0 s t i))
  | .vperm g t vd va vb => some (syl g 0x43 (eVAq (eVop5 vd) (eVop5 va) (eVop5 vb) 0 t .rne false 0))
  | .vrot g t vd va b => some (syl g 0x44 (eVA3 t .rne false vd va b))
  | .vzip g t h vd va vb => some (syl g 0x45 (eVAq (eVop5 vd) (eVop5 va) (eVop5 vb) 0 t .rne false (eHalf h)))
  | .vuzp g t h vd va vb => some (syl g 0x46 (eVAq (eVop5 vd) (eVop5 va) (eVop5 vb) 0 t .rne false (eHalf h)))
  | .vcvt g t ts rm sat vd va q => some (syl g 0x47 (eVAq (eVop5 vd) (eVop5 va) 0 (eTy ts) t rm sat q))
  | .vscl g t ts rm sat vd va vb q => some (syl g 0x48 (eVAq (eVop5 vd) (eVop5 va) (eVop5 vb) (eTy ts) t rm sat q))
  | .vdot g t ts rm vd va vb => some (syl g 0x49 (eVAq (eVop5 vd) (eVop5 va) (eVop5 vb) (eTy ts) t rm false 0))
  | .vredadd g t rm sat vd va => some (syl g 0x50 (eVA2 t rm sat vd va))
  | .vredmax g t vd va => some (syl g 0x51 (eVA2 t .rne false vd va))
  | .vredmin g t vd va => some (syl g 0x52 (eVA2 t .rne false vd va))
  | .vscan g t vd va s => some (syl g 0x53 (eVS (eVop5 vd) (eVop5 va) s t 0))
  | .vrng g t vd s i => some (syl g 0x54 (eVS (eVop5 vd) 0 s t i))
  | .vaccrd g t sa vd i => some (syl g 0x58 (packVM ⟨eT t, 0, eSop sa, 0, eVop5 vd, i, 0⟩))
  | .vaccwr g t sa vs i => some (syl g 0x59 (packVM ⟨eT t, 0, eSop sa, 0, eVop5 vs, i, 0⟩))
  | .vacczr g t => some (syl g 0x5A (packVM ⟨eT t, 0, 0, 0, 0, 0, 0⟩))
  | .mldb g bm sa => some (syl g 0x5B (packVM ⟨0, bm, eSop sa, 0, 0, 0, 0⟩))
  | .mma g t bm sa => some (syl g 0x5C (packVM ⟨eT t, bm, eSop sa, 0, 0, 0, 0⟩))
  | .mclaim g t => some (syl g 0x5D (packVM ⟨eT t, 0, 0, 0, 0, 0, 0⟩))
  | .mrel g t => some (syl g 0x5E (packVM ⟨eT t, 0, 0, 0, 0, 0, 0⟩))
  | .mfence g => some (syl g 0x5F (packVM ⟨0, 0, 0, 0, 0, 0, 0⟩))
  | .spjoin g ch s => some (syl g 0x60 (eVP 0 0 (eSop s) ch .plain))
  | .spscan g o ch vd va s => some (syl g 0x61 (eVP (eVop5 vd) (eVop5 va) (eSop s) ch o))
  | .spred g o ch vd va s => some (syl g 0x62 (eVP (eVop5 vd) (eVop5 va) (eSop s) ch o))
  | .spbar g o ch => some (syl g 0x63 (eVP 0 0 0 ch o))
  | .spbc g o ch vd va s => some (syl g 0x64 (eVP (eVop5 vd) (eVop5 va) (eSop s) ch o))
  | _ => none

def eLan (op : BitVec 6) (d a : BitVec 4) (i : BitVec 18) : Option (BitVec 32) := some (packLan ⟨op, d, a, i⟩)

/-- The filter word of a lantern instruction (R457); none for the others. -/
def encodeLantern : Instr → Option (BitVec 32)
  | .lanternLdr d a i => eLan 0x01 d a i
  | .lanternLdi d a i => eLan 0x02 d a i
  | .lanternAdd d a b => eLan 0x03 d a (b.setWidth 18)
  | .lanternAnd d a b => eLan 0x04 d a (b.setWidth 18)
  | .lanternOr d a b => eLan 0x05 d a (b.setWidth 18)
  | .lanternXor d a b => eLan 0x06 d a (b.setWidth 18)
  | .lanternShr d a i => eLan 0x07 d a i
  | .lanternShl d a i => eLan 0x08 d a i
  | .lanternAndi d a i => eLan 0x09 d a i
  | .lanternBeq d a i => eLan 0x0A d a i
  | .lanternBne d a i => eLan 0x0B d a i
  | .lanternBltu d a i => eLan 0x0C d a i
  | .lanternBgeu d a i => eLan 0x0D d a i
  | .lanternKeep d a i => eLan 0x10 d a i
  | .lanternDrop d a i => eLan 0x11 d a i
  | .lanternCnt d a i => eLan 0x12 d a i
  | .lanternTrig d a i => eLan 0x13 d a i
  | _ => none

/-- A bundle of two syllables (R43). -/
def bundleOf (s v : BitVec 64) : Bundle := v ++ s

/-- The canonical NOP syllable, all zero (R58). -/
def nopGuard : Guard := ⟨0, 0, 0, 0⟩

/-- The bundle that issues one instruction beside a NOP, or none for an event or a filter word. -/
def encode (i : Instr) : Option Bundle :=
  match encodeS i with
  | some w => some (bundleOf w 0)
  | none =>
    match encodeV i with
    | some w => some (bundleOf 0 w)
    | none => none

end Sys2Proof
end

