-- ==== Sys2Proof/Machine/Control.lean ====
section
/-! DEFINITION. Branches, calls, returns, and ending, waiting and trapping on purpose
(spec/06_control_traps_and_system.md R101 to R108, R113). -/

namespace Sys2Proof.Machine

set_option Elab.async false

/-- A transfer to a checked target, taken at step 6 (R102). -/
def evJump (k : TargetKind) (x : Word) : Ev Unit := fun c =>
  match checkTarget (codeCore c.s c.t) c.th.pc x k with
  | some cause => .error (.trap 5 cause x 0, c)
  | none => evEff (.jump x) c

/-- The pc of the bundle. -/
def evPc : Ev Word := fun c => .ok (c.th.pc, c)

/-- Link: Dst(s1) := pc + 16 (R103). -/
def evLink : Ev Unit := do
  examS (.s 1)
  let p ← evPc
  dstS (.s 1) (p + 16)

/-- pc + 16·off of a relative transfer (R102). -/
def relTarget {w : Nat} (off : BitVec w) : Ev Word := do
  let p ← evPc
  pure (p + (off.signExtend 64 <<< 4))

/-- The target of a fenced transfer (R103). -/
def fencedTarget (seg entry : BitVec 12) : Word := word (seg.toNat * 2 ^ 16 + 16 * entry.toNat)

def execBr (g : Guard) (off : BitVec 40) (s : State) : Out :=
  issueS g [] (do
    let x ← relTarget off
    evJump .relative x) s

def execCall (g : Guard) (off : BitVec 40) (s : State) : Out :=
  issueS g (locS (.s 1)) (do
    evLink
    let x ← relTarget off
    evJump .relative x) s

/-- loop: the counter is written whether or not the branch is taken (R103). -/
def execLoop (g : Guard) (ra : SOp) (off : BitVec 34) (s : State) : Out :=
  issueS g (locS ra) (do
    let a ← srcS ra
    dstS ra (a - 1)
    let x ← relTarget off
    if a - 1 = 0 then pure () else evJump .relative x) s

def execJmp (g : Guard) (ra : SOp) (s : State) : Out :=
  issueS g [] (do
    let x ← srcS ra
    evJump .register x) s

/-- The link register, which assembly does not write, is examined for Pending after ra and before the target is checked (R35, R37;
DESIGN CHOICE, log 115). -/
def execCallr (g : Guard) (ra : SOp) (s : State) : Out :=
  issueS g (locS (.s 1)) (do
    let x ← srcS ra
    evLink
    evJump .register x) s

def execRet (g : Guard) (s : State) : Out :=
  issueS g [] (do
    let x ← srcS (.s 1)
    evJump .register x) s

def execJf (g : Guard) (seg entry : BitVec 12) (s : State) : Out := issueS g [] (evJump .fenced (fencedTarget seg entry)) s

def execCallf (g : Guard) (seg entry : BitVec 12) (s : State) : Out :=
  issueS g (locS (.s 1)) (do
    evLink
    evJump .fenced (fencedTarget seg entry)) s

/-- trap raises system-call, which ranks after every other cause (R106, R110). -/
def execTrap (g : Guard) (code : BitVec 16) (s : State) : Out := issueS g [] (evTrapAt 7 16 (code.setWidth 64)) s

/-- brk raises breakpoint, or stops a claimed thread at the following bundle (R106, R448, R451). -/
def execBrk (g : Guard) (code : BitVec 16) (s : State) : Out :=
  issueS g [] (fun c =>
    if c.th.dbg.agent.isSome then evEff (.stopBrk code.toNat) c else evTrapAt 7 15 (code.setWidth 64) c) s

/-- A privilege trap, found at step 3, with the syllable in tval (R109, R110). -/
def evPriv {α : Type} (w : Option (BitVec 64)) : Ev α := evTrapAt 3 3 (w.getD 0)

/-- eret traps privilege in U; its target is checked before any other effect (R113). -/
def execEret (g : Guard) (s : State) : Out :=
  issueS g [] (do
    let c ← get
    if mode c.th = 0 then evPriv (encodeS (.eret g))
    else do
      evJump .register (eretTarget c.th)
      evEff .eret) s

/-- halt waits at step 5; THREAD_RETIRE ends the wait (R104). -/
def execHalt (g : Guard) (s : State) : Out := issueS g [] (evWait .drain) s

/-- The pending bits of both views (R105). -/
def pendingBits (th : Thread) : Nat := bitsAt th.status 16 8 ||| bitsAt th.hstatus 16 8

/-- wfe completes at once when a masked source is pending, and clears nothing (R105). -/
def execWfe (g : Guard) (mask : BitVec 8) (s : State) : Out :=
  issueS g [] (do
    let c ← get
    if pendingBits c.th &&& mask.toNat ≠ 0 then pure () else evPark 8 0 (.event mask)) s

/-- tmark emits a record of KIND 0 (R107, R454). -/
def execTmark (g : Guard) (m : BitVec 16) (s : State) : Out := issueS g [] (evEff (.trace 0 0 (m.setWidth 64))) s

/-- plive sets the live mask; bit 0 stays 0 (R108). -/
def execPlive (g : Guard) (mask : BitVec 8) (s : State) : Out := issueS g [] (evEff (.plive mask)) s

end Sys2Proof.Machine
end

