-- ==== Sys2Proof/Machine/Engine.lean ====
section
/-! DEFINITION. The copy engine at work: element reads and writes, conversion, reduction, register and window targets, faults,
completion, and stream refills (spec/12 R256 to R267; spec/10 R220 to R222). -/

namespace Sys2Proof.Machine

set_option Elab.async false

/-! ## The beats of a transfer or stream (R192, R222, R256, R264) -/

/-- A fault of the engine: cause and address. -/
abbrev EngFault := Nat × Word

/-- Whether a space is the core's or the cluster's own, where the engine reads and writes at once. -/
def atHand (sp : Space) : Bool := sp == .l || sp == .c

/-- Elements of a transfer. -/
def xferCount (x : Transfer) : Nat := elemCount x.src x.rank

/-- The fault of an element's address in every space, and of its range in a local one (R192, R222). -/
def elemFault (r : Rec) (a : Nat) : Option EngFault :=
  let n := elemBytes (rWidth r)
  if a % n ≠ 0 then some (4, word a)
  else if atHand (rSpace r) = true ∧ localSize (rSpace r) < a + n then some (6, word a)
  else none

/-- Element e of a record; positions beyond the count read as the pad (R208). -/
def beatElem (r : Rec) (rank e : Nat) : Elem := if elemCount r rank ≤ e then .pad else elemAt r rank e

/-- Whether the scale of an element is read with it. -/
def withScale (r : Rec) (scale : Bool) : Bool := scale && tyM (rTy r)

/-- An access of an engine or stream to bits of some bytes; the position holds twice the element's number in the beat, and 1 more for a
scale. -/
def beatAcc (a len bit w pos data : Nat) : Acc := ⟨a, len, bit, w, pos, data, .none, 0, 0, false, false, false⟩

/-- The accesses that read element e, the k-th of a beat. -/
def elemReads (r : Rec) (rank e k : Nat) (scale : Bool) : Except EngFault (List Acc) :=
  match beatElem r rank e with
  | .at_ p i0 row =>
    match elemFault r p.addr with
    | some f => .error f
    | none => .ok (beatAcc p.addr (elemBytes (rWidth r)) p.bit (rWidth r) (2 * k) 0 ::
        if withScale r scale then [beatAcc (scaleAddr r i0 row) 1 0 8 (2 * k + 1) 0] else [])
  | _ => .ok []

/-- The accesses that read n elements from e on, the k-th of a beat and on, with the element that faults before any access. -/
def beatReads (r : Rec) (rank : Nat) (scale : Bool) : Nat → Nat → Nat → List Acc × Option (Nat × EngFault)
  | _, _, 0 => ([], none)
  | e, k, n + 1 =>
    match elemReads r rank e k scale with
    | .error f => ([], some (k, f))
    | .ok l =>
      let (m, f) := beatReads r rank scale (e + 1) (k + 1) n
      (l ++ m, f)

/-- The data of the access at a position. -/
def accAt (l : List Acc) (pos : Nat) : Nat := ((l.find? fun x => x.pos == pos).map (·.data)).getD 0

/-- The pattern and the scale of element e, the k-th of a beat whose accesses have been read. -/
def beatValue (r : Rec) (rank e k : Nat) (scale : Bool) (l : List Acc) : Nat × Nat :=
  match beatElem r rank e with
  | .pad => (padOf r, 127)
  | .null => (0, 127)
  | .at_ _ _ _ => (accAt l (2 * k), if withScale r scale then accAt l (2 * k + 1) else 127)

/-- The first element that ends a beat: one that faults, or that carries an uncorrectable error (R222, R264). -/
def beatEnd (l : List Acc) (f : Option (Nat × EngFault)) : Option (Nat × EngFault) :=
  match l.find? (·.bad) with
  | some x => (match f with
    | some (k, y) => if accElem x < k then some (accElem x, 14, word x.va) else some (k, y)
    | none => some (accElem x, 14, word x.va))
  | none => f

/-- The values of a beat of n elements from e on before the element that ends it, and its fault. -/
def beatVals (r : Rec) (rank e n : Nat) (scale : Bool) (l : List Acc) (f : Option (Nat × EngFault)) : List (Nat × Nat) × Option EngFault :=
  let f := beatEnd l f
  let m := match f with
    | some (k, _) => min k n
    | none => n
  ((List.range m).map fun k => beatValue r rank (e + k) k scale l, f.map (·.2))

/-- The bytes of a local space as the engine serves a thread. -/
def handNat (s : State) (t : Tid) (sp : Space) (a n : Nat) : Nat :=
  if sp = .l then mNat (getCore s (tidKey t)).tcm a n else mNat (getCluster s (tidCluster t)).scratch a n

/-- Write bytes of a local space; TCM words become Full (R197). -/
def handPut (s : State) (t : Tid) (ctx : Nat) (sp : Space) (a n v : Nat) : State :=
  if sp = .l then sink (modCore s (tidKey t) fun c => setFullRange (tcmPut c a n v) a n) ctx
  else sink (modCluster s (tidCluster t) fun c => scratchPut c a n v) ctx

/-- An access that reads a local space. -/
def handRead (s : State) (t : Tid) (sp : Space) (x : Acc) : Acc :=
  { x with data := handNat s t sp x.va x.len / 2 ^ x.bit % 2 ^ x.w, done := true }

/-- An access that writes a local space, or adds to it (R257). -/
def handWrite (s : State) (x : Transfer) (sp : Space) (kind : ReqKind) (y : Acc) : State :=
  handPut s x.tid x.ctx sp y.va y.len (writtenNat kind y (handNat s x.tid sp y.va y.len))

/-! ## What a transfer writes to a record (R148, R256, R257) -/

/-- Whether a transfer encodes blocks of an MX destination. -/
def encodes (x : Transfer) (d : Rec) : Bool := tyM (rTy d) && rType x.src != rType d

/-- The pattern of a source element in a destination type that is not MX, or in its own type (R256). -/
def convPat (src dst : Rec) (e : Nat × Nat) : Nat :=
  if rType src = rType dst then e.1
  else if tyM (rTy src) then roundTo (rTy dst) .rne false 0 (srcFV (rTy src) e)
  else convert (rTy src) (rTy dst) .rne false 0 e.1

/-- What the writes of a transfer do at their home. -/
def xferKind (x : Transfer) : ReqKind := if x.op = .copy then .store else .add x.op (rType x.src)

/-- The pattern that element k of a beat brings to its home, and the scale that is written with it. A block of MX is encoded from the
exact values, also where FP32 does not hold them (R148, R151; DESIGN CHOICE, log 120). -/
def beatData (x : Transfer) (d : Rec) (vals : List (Nat × Nat)) : List (Nat × Option Nat) :=
  if encodes x d then
    let (scale, pats) := mxEncode (rTy d) (vals.map (srcFV (rTy x.src)))
    pats.zipIdx.map fun p => (p.1, if p.2 = 0 then some scale else none)
  else if x.op = .copy then vals.map fun v => (convPat x.src d v, if tyM (rTy d) then some v.2 else none)
  else vals.map fun v => (v.1 + 2 ^ 64 * v.2, none)

/-- The accesses that write a beat's elements from e on, each scale after its element. -/
def beatWrites (d : Rec) (rank e : Nat) (l : List (Nat × Option Nat)) : List Acc :=
  l.zipIdx.flatMap fun p => match elemAt d rank (e + p.2) with
    | .at_ q i0 row => beatAcc q.addr (elemBytes (rWidth d)) q.bit (rWidth d) (2 * p.2) p.1.1 :: (match p.1.2 with
      | some b => [beatAcc (scaleAddr d i0 row) 1 0 8 (2 * p.2 + 1) b]
      | none => [])
    | _ => []

/-- The block of a destination element: its row and block index (R146). -/
def blockOf (d : Rec) (rank e : Nat) : Option (Nat × Nat) :=
  match elemAt d rank e with
  | .at_ _ i0 row => some (row, i0 / 32)
  | _ => none

/-- Elements from e on that lie in one block of an MX destination, 32 at most. -/
def blockLen (x : Transfer) (d : Rec) (e : Nat) : Nat :=
  ((List.range 32).takeWhile fun i => decide (e + i < xferCount x) && blockOf d x.rank (e + i) == blockOf d x.rank e).length

/-- The elements of the beat at which a transfer stands: a strip, a block of an MX destination, a single addition at a home that the agent
serves (R257, log 110), or as many as fill 64 bytes. -/
def beatLen (x : Transfer) : Nat :=
  match x.dst with
  | .rcd d =>
    if encodes x d then max 1 (blockLen x d x.pos)
    else if x.op ≠ .copy ∧ atHand (rSpace d) = false then 1
    else if atHand (rSpace x.src) && atHand (rSpace d) then 1
    else min (512 / max (rWidth x.src) (rWidth d)) (xferCount x - x.pos)
  | _ => 512 / rWidth x.src

/-! ## Targets other than records (R259, R260) -/

/-- A fill of a register of a slot; one with no thread discards it (R128, R259). -/
def engineFill (s : State) (u : Tid) (vec : Bool) (r : Nat) (v : Vec) : State :=
  let th := getThread s u
  if hasThread th then sink (modThread s u fun th => if vec then fillV th r v else fillS th r (v.setWidth 64)) th.ctx else s

/-- A window beat of the engine, in the prefix form (R351). -/
def prefixBeat (v : Vec) (addr wc p : Nat) : Beat := ⟨v, BitVec.ofNat 88 (3 + wc * 2 ^ 4 + 2 ^ 7 + addr / 64 * 2 ^ 8 + p * 2 ^ 24)⟩

/-- The strip at which a window transfer stands takes its place in the circuit's injection order, after its tag write where a
tile begins; p positions are enabled. -/
def windowStrip (s : State) (x : Transfer) (cl ch n circ wbase wlen cursor tag : Nat) (tagen : Bool)
    (p : Nat) (v : Vec) : State × XDst :=
  let tagged := tagen && cursor == 0
  let src : InjSrc := .engine x.tid cl ch x.id n
  let s := match liveCirc s (some circ) with
    | none => s
    | some k =>
      let s := if tagged then injectBeat s k (tagBeat wbase tag) src else s
      injectBeat s k (prefixBeat v (wbase + 64 * cursor) (wcOf (rWidth x.src)) p) src
  (s, .win n circ wbase wlen ((cursor + 1) % wlen) (if tagged then (tag + 1) % 2 ^ 16 else tag) tagen)

/-! ## Completion (R262, R264, R265) -/

/-- Source 6 becomes pending in every thread of the cluster that has used the channel (R112, R265). -/
def noteChannel (s : State) (cl ch : Nat) : State :=
  (List.range 8).foldl (fun s i => modCore s (coreKey (cl / 8) (coreAt (cl % 8) i)) fun c =>
    { c with slots := c.slots.map fun th => if hasThread th = true ∧ bitAt th.used ch = true then setPending th 6 else th }) s

/-- The head transfer of a channel leaves it: DONE advances, and its leave goes back to the gate. -/
def leaveChannel (s : State) (cl ch : Nat) (x : Transfer) : State :=
  let s := modChan s cl ch fun c => { c with q := c.q.drop 1, done := x.id }
  let s := if x.heavy then modCore s (tidKey x.tid) fun c => { c with heavy := c.heavy - 1 } else s
  noteChannel s cl ch

/-- A transfer that faults completes at once (R264). -/
def faultTransfer (s : State) (cl ch : Nat) (x : Transfer) (f : EngFault) : State :=
  leaveChannel (modChan s cl ch fun c => match c.fault with
    | none => { c with fault := some (x.id, f.1, f.2) }
    | some _ => { c with more := true }) cl ch x

/-- Whether beats of a transfer are still on their way. -/
def beatsLeft (s : State) (cl ch id : Nat) : Bool :=
  let mine (b : InjSrc) : Bool := match b with
    | .engine _ c h i _ => c == cl && h == ch && i == id
    | _ => false
  (s.circuits.any fun c => c.2.inj.any fun b => mine b.src) || s.words.any fun f => mine f.src

/-- The head transfer of a channel that has begun. -/
def chanHead (s : State) (cl ch : Nat) : Option Transfer :=
  match (getChan s cl ch).q with
  | x :: _ => if x.begun then some x else none
  | [] => none

/-- TRANSFER_BEGIN: a channel begins its oldest transfer. -/
def transferBegin (s : State) (cl ch : Nat) : State :=
  modChan s cl ch fun c => match c.q with
    | x :: l => { c with q := { x with begun := true } :: l }
    | [] => c

def execTransferBegin (s : State) : Out := .next (transferBegin s (clusterKey s.arg.die s.arg.unit) s.arg.i)

/-- The tag write of a record destination (R220, R256). -/
def xferTag (s : State) (x : Transfer) : State :=
  match x.dst with
  | .rcd d => if recTagen d then handPut s x.tid x.ctx .l (tagAddr d) 8 (recTag d) else s
  | _ => s

/-- Whether a transfer has handled every element. -/
def xferDone (x : Transfer) : Bool := x.stage == .idle && decide (xferCount x ≤ x.pos)

/-- TRANSFER_COMPLETE: every write of the head transfer has been performed. -/
def transferComplete (s : State) (cl ch : Nat) : State :=
  match chanHead s cl ch with
  | none => s
  | some x => if xferDone x && !beatsLeft s cl ch x.id then leaveChannel (xferTag s x) cl ch x else s

def execTransferComplete (s : State) : Out := .next (transferComplete s (clusterKey s.arg.die s.arg.unit) s.arg.i)

/-! ## The requests of the engine (R278, R310) -/

/-- A request takes its place among those of its thread (R278). -/
def postBeat (s : State) (r : Req) : State :=
  { (modDie s r.tid.die fun d => { d with reqs := d.reqs ++ [{ r with id := s.nextId }] }) with nextId := s.nextId + 1 }

/-- A request of a transfer for its thread, under the mode and region of its acceptance (R283); its phase counts with the transfer. -/
def xferReq (x : Transfer) (cl ch : Nat) (sp : Space) (kind : ReqKind) (l : List Acc) : Req :=
  { id := 0, tid := x.tid, who := .engine cl ch, ctx := x.ctx, region := x.region, launch := x.launch, mode := x.mode, space := sp,
    kind := kind, accs := l, ord := .plain, sco := .th, phase := 0, dest := .none, pc := 0, stage := .waiting, seq := 0, at_ := 0,
    poisoned := false, brk := none, cap := none, due := 0, doom := none }

/-- The head transfer of a channel stands at another stage. -/
def setStage (s : State) (cl ch : Nat) (x : Transfer) (g : XStage) : State :=
  modChan s cl ch fun c => { c with q := { x with stage := g } :: c.q.drop 1 }

/-- The elements of a beat have been handled: the transfer goes on, or ends with the fault that follows them. -/
def beatDone (s : State) (cl ch : Nat) (x : Transfer) (n : Nat) (f : Option EngFault) : State :=
  let x := { x with pos := x.pos + n, stage := .idle }
  match f with
  | some f => faultTransfer (setStage s cl ch x .idle) cl ch x f
  | none => setStage s cl ch x .idle

/-- The values of a beat go to the destination: at once to a register, a window or a local space, else by a request. -/
def deliverBeat (s : State) (cl ch : Nat) (x : Transfer) (vals : List (Nat × Nat)) (f : Option EngFault) : State :=
  let strip : Vec := vPack (rWidth x.src) (vals.map (·.1))
  match x.dst with
  | .rcd d =>
    let l := beatWrites d x.rank x.pos (beatData x d vals)
    if l.isEmpty then beatDone s cl ch x vals.length f
    else if atHand (rSpace d) then beatDone (l.foldl (fun s y => handWrite s x (rSpace d) (xferKind x) y) s) cl ch x vals.length f
    else postBeat (setStage s cl ch x (.writing s.nextId vals.length f)) (xferReq x cl ch (rSpace d) (xferKind x) l)
  | .reg vec core slot r =>
    if f.isSome then beatDone s cl ch x 0 f
    else beatDone (engineFill s ⟨x.tid.die, core, slot⟩ vec r strip) cl ch x (xferCount x) none
  | .win n circ wbase wlen cursor tag tagen =>
    if f.isSome && vals.isEmpty then beatDone s cl ch x 0 f
    else
      let p := if f.isSome then vals.length else min vals.length (xferCount x - x.pos)
      let (s, dst) := windowStrip s x cl ch n circ wbase wlen cursor tag (tagen && f.isNone) p strip
      beatDone s cl ch { x with dst := dst } vals.length f

/-- Whether a channel has a beat ready. -/
def chanReady (s : State) (cl ch : Nat) : Bool :=
  match chanHead s cl ch with
  | some x => (match x.stage with
    | .idle => decide (x.pos < xferCount x)
    | .fetched _ _ => true
    | _ => false)
  | none => false

/-- A channel asks for the next beat's sources, or brings the values it has to their destination; what lies in a local space it reads
at once. -/
def serveBeat (s : State) (cl ch : Nat) : State :=
  match chanHead s cl ch with
  | none => s
  | some x =>
    match x.stage with
    | .idle =>
      if xferCount x ≤ x.pos then s else
      let n := beatLen x
      let (l, f) := beatReads x.src x.rank true x.pos 0 n
      if atHand (rSpace x.src) || l.isEmpty then
        let (vals, f) := beatVals x.src x.rank x.pos n true (l.map (handRead s x.tid (rSpace x.src))) f
        deliverBeat s cl ch x vals f
      else postBeat (setStage s cl ch x (.reading s.nextId n)) { xferReq x cl ch (rSpace x.src) .load l with doom := f.map fun y => (y.1, y.2.1, y.2.2) }
    | .fetched vals f => deliverBeat s cl ch x vals f
    | _ => s

/-- Steps in one beat: between local spaces each element is written before the next is read (R256). -/
def beatSteps (x : Transfer) : Nat :=
  match x.dst with
  | .rcd d => if atHand (rSpace x.src) && atHand (rSpace d) && !encodes x d then 512 / max (rWidth x.src) (rWidth d) else 1
  | _ => 1

/-- One beat of a channel. -/
def serveChan (s : State) (cl ch : Nat) : State :=
  match chanHead s cl ch with
  | none => s
  | some x => (List.range (beatSteps x)).foldl (fun s _ => serveBeat s cl ch) s

/-- How many of a beat's elements may be written before the next is read: where the source and the destination share a space, none that
follows an element whose destination its source meets, or is not yet known to miss (R256). -/
def beatFits (s : State) (x : Transfer) (cl ch : Nat) (reads : List Acc) (vals : List (Nat × Nat)) : Nat :=
  match x.dst with
  | .rcd d =>
    if rSpace x.src != rSpace d || encodes x d then vals.length
    else
      let r := xferReq x cl ch (rSpace d) (xferKind x) []
      let writes := (beatWrites d x.rank x.pos (beatData x d vals)).map fun y => (accElem y, match checkAcc s x.tid.die r y with
        | .ok (z :: _) => some z
        | _ => none)
      let clear (k : Nat) : Bool := writes.all fun w => decide (k ≤ w.1) || match w.2 with
        | some z => (reads.filter fun y => accElem y == k).all fun y => !homesMeet y.home y.len z.home z.len
        | none => false
      max 1 ((List.range vals.length).takeWhile clear).length
  | _ => vals.length

/-- A request of a channel has been answered: its values are here, or its writes have been performed (R264). -/
def engineReply (s : State) (die : Nat) (r : Req) (cl ch : Nat) : State :=
  let s := dropReq s die r.id
  match chanHead s cl ch with
  | none => s
  | some x =>
    let f := r.doom.map fun y => (y.1, y.2.1, y.2.2)
    match x.stage with
    | .reading id n =>
      if id = r.id then
        let (vals, f) := beatVals x.src x.rank x.pos n true r.accs f
        let m := min (beatFits s x cl ch r.accs vals) vals.length
        setStage s cl ch x (.fetched (vals.take m) (if m < vals.length then none else f))
      else s
    | .writing id n g =>
      if id = r.id then (match beatEnd r.accs f with
        | some (k, y) => beatDone s cl ch x (min k n) (some y)
        | none => beatDone s cl ch x n g)
      else s
    | _ => s

/-- MEMORY_REPLY of request i of a die: to its thread (R194), or to the engine. -/
def execMemoryReply (s : State) : Out :=
  let die := s.arg.die
  match findReq (getDie s die) s.arg.i with
  | none => .next s
  | some r =>
    match r.who, r.stage with
    | .engine cl ch, .performed due => .next (if coreSees s due then engineReply s die r cl ch else s)
    | .stream _, .performed due => .next (if coreSees s due then dropReq s die r.id else s)
    | _, _ => .next (memoryReply s die r.id)

/-! ## Stream refills (R221, R222, R266) -/

/-- Entries that a stream's FIFO has free: 32 elements, or 4 strips. -/
def fifoRoom (x : Stream) (j : Nat) : Nat := (if j < 4 then 32 else 4) - x.fifo.length

/-- Whether a stream of a thread has a beat to fetch; a record with TAGEN is fetched before its tag is checked too, the pop makes the
check (R220, R221, R266; DESIGN CHOICE, log 122). -/
def refillReady (s : State) (t : Tid) (j : Nat) : Bool :=
  let th := getThread s t
  let x := getStream th j
  hasThread th && !ctxFrozen s th.ctx th.region && x.on && x.asked.isNone && decide (0 < fifoRoom x j) &&
    decide (x.next < elemCount x.rcd th.rank)

/-- The elements of a stream's next beat: as many as there is room for, or a strip. -/
def refillLen (th : Thread) (x : Stream) (j : Nat) : Nat :=
  let n := 512 / rWidth x.rcd
  if j < 4 then min n (min (fifoRoom x j) (elemCount x.rcd th.rank - x.next)) else n

/-- The FIFO entry of a fault. -/
def faultEntry (f : EngFault) : FifoEntry := if f.1 = 14 then .poison else .fault f.1 f.2

/-- A scalar entry: the element extended to 64 bits (R221). -/
def scalarEntry (ty : Ty) (pat : Nat) : FifoEntry :=
  .val ((if ty = .mxi8 then word (wrapInt 64 (intValue .mxi8 pat)) else extendElem ty pat).setWidth 512)

/-- The entries of a scalar stream: values up to an element that faults or is poisoned, which has an entry of its own (R222). -/
def scalarEntries (r : Rec) (rank e n : Nat) (l : List Acc) (f : Option (Nat × EngFault)) : List FifoEntry :=
  (List.range (match f with
    | some (k, _) => min n (k + 1)
    | none => n)).map fun k =>
      match f, l.find? fun x => x.bad && accElem x == k with
      | some (i, y), none => if k = i then faultEntry y else scalarEntry (rTy r) (beatValue r rank (e + k) k false l).1
      | none, none => scalarEntry (rTy r) (beatValue r rank (e + k) k false l).1
      | _, some _ => .poison

/-- A beat's elements, or one strip, enter the FIFO. -/
def refillArrive (s : State) (t : Tid) (j n : Nat) (l : List Acc) (f : Option (Nat × EngFault)) : State :=
  let th := getThread s t
  let x := getStream th j
  let (new, k) := (if j < 4 then
      let e := scalarEntries x.rcd th.rank x.next n l f
      (e, e.length)
    else match beatVals x.rcd th.rank x.next n false l f with
      | (_, some y) => ([faultEntry y], n)
      | (v, none) => ([.val (vPack (rWidth x.rcd) (v.map (·.1)))], n))
  modThread s t fun th => setStream th j { x with fifo := x.fifo ++ new, next := x.next + k, asked := none }

/-- The beat of a stream is asked for: in a local space it arrives at once, else by the reply to a request in the thread's region (R266). -/
def refillAsk (s : State) (t : Tid) (j : Nat) : State :=
  let th := getThread s t
  let x := getStream th j
  let (l, f) := beatReads x.rcd th.rank false x.next 0 (refillLen th x j)
  if atHand (rSpace x.rcd) || l.isEmpty then pushEvent s .streamRefillArrival { EvArg.none with t := t, i := j }
  else postBeat (modThread s t fun th => setStream th j { x with asked := some (s.nextId, refillLen th x j) })
    { id := 0, tid := t, who := .stream j, ctx := th.ctx, region := th.region, launch := th.launch, mode := mode th, space := rSpace x.rcd,
      kind := .load, accs := l, ord := .plain, sco := .th, phase := 0, dest := .none, pc := x.pc, stage := .waiting, seq := 0, at_ := 0,
      poisoned := false, brk := none, cap := none, due := 0, doom := f.map fun y => (y.1, y.2.1, y.2.2) }

/-- STREAM_REFILL_ARRIVAL: the entries of a stream's beat arrive, from a local space or with the reply to its request. -/
def streamRefill (s : State) (t : Tid) (j : Nat) : State :=
  let th := getThread s t
  let x := getStream th j
  match x.asked with
  | none =>
    if refillReady s t j then
      let n := refillLen th x j
      let (l, f) := beatReads x.rcd th.rank false x.next 0 n
      if atHand (rSpace x.rcd) || l.isEmpty then refillArrive s t j n (l.map (handRead s t (rSpace x.rcd))) f else s
    else s
  | some (id, n) =>
    match findReq (getDie s t.die) id with
    | none => s
    | some r =>
      match r.stage with
      | .performed due =>
        if coreSees s due then
          refillArrive (dropReq s t.die id) t j n r.accs (r.doom.map fun y => (y.1, y.2.1, y.2.2))
        else s
      | _ => s

def execStreamRefillArrival (s : State) : Out := .next (streamRefill s s.arg.t s.arg.i)

/-! ## Service (R267) -/

/-- The stream of a core of a cluster that its refill serves next: the lowest slot and stream with a beat to fetch. -/
def coreRefill (s : State) (die core : Nat) : Option (Tid × Nat) :=
  (coreTids die core).findSome? fun t => ((List.range 8).find? fun j => refillReady s t j).map fun j => (t, j)

/-- The requester served next: refills of local cores 0 to 7, then channels 0 to 7, from a turn on. -/
def nextRequester (s : State) (cl : Nat) : Option Nat :=
  ((List.range 16).map fun i => ((getCluster s cl).rr + i) % 16).find? fun r =>
    if r < 8 then (coreRefill s (cl / 8) (coreAt (cl % 8) r)).isSome else chanReady s cl (r - 8)

/-- One beat for one requester. -/
def serveOne (s : State) (cl : Nat) : State :=
  match nextRequester s cl with
  | none => s
  | some r =>
    let s := modCluster s cl fun c => { c with rr := (r + 1) % 16 }
    if r < 8 then match coreRefill s (cl / 8) (coreAt (cl % 8) r) with
      | some (t, j) => refillAsk s t j
      | none => s
    else serveChan s cl (r - 8)

/-- ENGINE_SLOT_SERVICE: at most two beats (R267). -/
def engineService (s : State) (cl : Nat) : State := serveOne (serveOne s cl) cl

def execEngineSlotService (s : State) : Out := .next (engineService s (clusterKey s.arg.die s.arg.unit))

end Sys2Proof.Machine
end

