-- ==== Sys2Proof/Machine/Blocks.lean ====
section
/-! DEFINITION. Region control blocks: their fields and checks, the memory circuits, service tables and save windows of a context, and the
checks against other contexts (spec/21 R410, R411, R424; spec/17 R365, R366; spec/23 R437 to R440; spec/26 R486). -/

namespace Sys2Proof.Machine

set_option Elab.async false

/-! ## A block within itself (R410, R411) -/

/-- The bits of each doubleword that belong to a field: all others are reserved, and the keep ignores them in a block it reads (R5). -/
def blkListed (i : Nat) : Word :=
  match i with
  | 0 => 0x373FFF03
  | 1 => 0x7F
  | 2 => 0xFFFF03FF7FFF03FF
  | 4 | 5 | 7 | 8 => 0x0000FFFFFFFFFFFF
  | 6 => 0xFFFFFFFF03FF01FF
  | 3 | 10 | 11 | 13 | 14 => 0xFFFFFFFFFFFFFFFF
  | 12 | 15 => 0x00000000FFFFFFFF
  | 16 | 18 | 20 | 22 => 0x0007FFFFFFFFFFFF
  | 17 | 19 | 21 | 23 => 0x0000FFFFFFFFFFFF
  | _ => 0

/-- A block as the keep takes it: its fields, with every reserved bit zero. -/
def blkFields (b : Vector Word 32) : Vector Word 32 := Vector.ofFn fun i => b[i] &&& blkListed i.val

/-- The bits of each doubleword that a block of a kind may set: the fields of another kind are zero. -/
def blkMask (kind i : Nat) : Word :=
  if kind = 1 then
    match i with
    | 0 => 0x3700FF03
    | 2 => 0xFFFF03FF7FFF03FF
    | 3 => 0xFFFFFFFFFFFFFFFF
    | 4 => 0x0000FFFFFFFFFFFF
    | 5 => 0x0000FFFFFFFFFFFF
    | 6 => 0xFFFFFFFF03FF01FF
    | 7 => 0x0000FFFFFFFFFFC0
    | 8 => 0x0000FFFFFFFFF000
    | 10 | 11 | 13 | 14 => 0xFFFFFFFFFFFFFFFF
    | 12 | 15 => 0x00000000FFFFFFFF
    | 16 | 18 | 20 | 22 => 0x0007FFFFFFFFFFFF
    | 17 | 19 | 21 | 23 => 0x0000FFFFFFFFFFFF
    | _ => 0
  else
    match i with
    | 0 => 0x373FFF03
    | 1 => 0x7F
    | 2 => 0xFFFF0000000003FF
    | 4 => 0x0000FFFFFFFFFFFF
    | 5 => 0x0000FFFF00000000
    | 8 => 0x0000FFFFFFFFF000
    | 10 | 11 => 0xFFFFFFFFFFFFFFFF
    | 12 => 0x00000000FFFFFFFF
    | _ => 0

/-- Whether two byte ranges, each a first byte and a length, meet. -/
def rangesMeet (a b : Nat × Nat) : Bool := decide (0 < a.2) && decide (0 < b.2) && decide (a.1 < b.1 + b.2) && decide (b.1 < a.1 + a.2)

/-- The interleave ranges of a block that are valid. -/
def zoneRanges (b : Vector Word 32) : List (Nat × Nat) :=
  (List.range 4).filterMap fun z => if blkBits b (0x80 + 16 * z) 50 1 = 1 then
    some (blkBits b (0x80 + 16 * z) 0 48, blkBits b (0x88 + 16 * z) 0 48) else none

/-- Whether no two ranges of a list meet. -/
def rangesApart (l : List (Nat × Nat)) : Bool := (l.zipIdx).all fun x => (l.zipIdx).all fun y => x.2 == y.2 || !rangesMeet x.1 y.1

/-- Whether the valid interleave regions of a block keep R286: bases and lengths are whole granules within a dome (R20, log 105), and on
a mask that is not empty they do not overlap. -/
def zonesOk (b : Vector Word 32) : Bool :=
  ((List.range 4).all fun z =>
    let o := 0x80 + 16 * z
    let g := granuleOf (blkBits b o 48 2)
    blkBits b o 50 1 == 0 || (blkBits b o 0 48 % g == 0 && blkBits b (o + 8) 0 48 % g == 0 &&
      decide (blkBits b o 0 48 + blkBits b (o + 8) 0 48 ≤ Config.domeBytes))) &&
  (rangesApart (zoneRanges b) || (List.range 160).all fun d => !blkSet b 0x68 d)

/-- Bytes of a tower image, and of one direction slot of a save window. -/
def towerImage : Nat := 0x6090000
def dirSlot : Nat := 0x3100000

/-- Whether a block of a kind keeps its ranges. -/
def blockValid (w kind : Nat) (b : Vector Word 32) : Bool :=
  ((List.range 32).all fun i => vget b i 0 &&& ~~~(blkMask kind i) == 0) &&
  blkBits b 0 0 2 == kind && blkBits b 0 28 2 != 3 && decide (blkBits b 0x10 0 10 < w) &&
  decide (blkBits b 0x40 0 48 + 4 * dirSlot ≤ Config.domeBytes) &&
  (kind != 1 ||
    (zonesOk b && decide (blkBits b 0x10 16 15 ≤ 16 * w) && decide (1 ≤ blkBits b 0x10 32 10) && decide (blkBits b 0x10 32 10 < w) &&
      decide (blkBits b 0x30 16 10 ≤ 512) && decide (blkBits b 0x30 0 9 + blkBits b 0x30 16 10 ≤ 512) &&
      (decide (1 ≤ blkBits b 0x10 16 15) || (List.range 160).all fun d => !blkSet b 0x68 d)))

/-- Whether a region's block keeps within its context's, group by group where it gives its own values. -/
def regionFits (c r : Vector Word 32) : Bool :=
  let le (g off lo n : Nat) : Bool := regionInherits r g || decide (blkBits r off lo n ≤ blkBits c off lo n)
  le 0 0x00 24 3 && le 2 0x10 0 10 && le 3 0x10 48 16 && le 4 0x20 0 12 &&
  (regionInherits r 6 || (List.range 160).all fun t => !blkSet r 0x50 t || blkSet c 0x50 t)

/-! ## Neighbours and save windows (R424, R440) -/

/-- The site one step from (x, y) in a direction, with whether it is a dome of the panel. -/
def domeBeside (die d : Nat) : Option Nat := (sitePast (dieX die) (dieY die) d).map fun p => siteOf p.1 p.2

/-- The domes beside a tower in the order N, E, S, W, with the direction of the tower as seen from each. -/
def towerDomes (die : Nat) : List (Nat × Nat) := (List.range 4).filterMap fun d => (domeBeside die d).map fun k => (k, (d + 2) % 4)

/-- Where beat i of a tower's image lies: dome and offset (R424). -/
def imageBeat (off die i : Nat) : Nat × Nat :=
  let l := towerDomes die
  let p := (l[i % l.length]?).getD (0, 0)
  (p.1, off + p.2 * dirSlot + 64 * (i / l.length))

/-- The byte ranges of a dome that a tower's image takes. -/
def saveRanges (off die dome : Nat) : List (Nat × Nat) :=
  let l := towerDomes die
  (l.zipIdx).filterMap fun p => if p.1.1 = dome then
    some (off + p.1.2 * dirSlot, 64 * ((towerImage / 64 - p.2 + l.length - 1) / l.length)) else none

/-! ## Service tables (R366, R439) -/

/-- Installed contexts, rising. -/
def installedCtxs (s : State) : List (Nat × Ctx) := s.ctxs.filter fun c => c.2.installed

/-- σ of the contexts served at a dome, in ascending number. -/
def domeShares (s : State) (dome : Nat) : List (Nat × Nat) :=
  ((installedCtxs s).filter fun c => blkSet c.2.blk 0x68 dome).map fun c => (c.1, blkBits c.2.blk 0x10 16 15)

/-- The owned positions of one row of a dome's table. -/
def tableRow (s : State) (shares : List (Nat × Nat)) (row : Nat) : List (Nat × Nat) :=
  ((shares.flatMap fun c => List.replicate ((row + 1) * c.2 / s.W - row * c.2 / s.W) c.1).zipIdx).map fun x => (16 * row + x.2, x.1)

/-- The service table of a dome. -/
def serviceTable (s : State) (dome : Nat) : List (Nat × Nat) := (List.range s.W).flatMap (tableRow s (domeShares s dome))

/-- Every dome takes its table. -/
def fillTables (s : State) : State :=
  (List.range 160).foldl (fun s d =>
    if (domeShares s d).isEmpty && (getDome s d).table.isEmpty then s else modDome s d fun x => { x with table := serviceTable s d }) s

/-! ## Lanes (R344, R437) -/

/-- Whether circuits of a set of towers can use the edge lanes between (x, y) and the site past it in a direction. -/
def usesEdge (inSet : Nat → Bool) (x y d : Nat) : Bool :=
  let ts := (List.range 160).filter inSet
  if d = 1 ∨ d = 3 then ts.any fun t => dieY t == y
  else
    let lo := if d = 0 then y - 1 else y
    ts.any fun u => dieX u == x && ts.any fun t =>
      (decide (dieY t ≤ lo) && decide (lo < dieY u)) || (decide (dieY u ≤ lo) && decide (lo < dieY t))

/-- Sum of β over the contexts whose circuits can use an edge. -/
def betaSum (s : State) (x y d : Nat) : Nat :=
  (((installedCtxs s).filter fun c => usesEdge (fun t => blkSet c.2.blk 0x50 t) x y d).map fun c => blkBits c.2.blk 0x10 0 10).sum

/-- Whether a link leaves its die. -/
def crosses (link : Nat) : Bool :=
  decide (link < 2 ^ 21) && match nextRouter (link / 8) (link % 8) with
    | some (_, _, t) => decide (t ≠ 0)
    | none => false

/-- Slots that memory circuits hold on a link. -/
def memSlots (s : State) (link : Nat) : Nat :=
  ((s.circuits.filter fun c => c.2.mem.isSome && circOpen c.2 s.wheel).map fun c => (c.2.held.filter fun h => h / 1024 == link).length).sum

/-- Whether n more slots of memory circuits leave room for β on a link (R437). -/
def laneRoom (s : State) (n link : Nat) : Bool :=
  !crosses link || decide (betaSum s (routerX (link / 8)) (routerY (link / 8)) (link % 8) + memSlots s link + n < s.W)

/-- Every edge lane of the panel has room for what it is promised. -/
def lanesOk (s : State) : Bool :=
  (List.range 320).all fun i => (List.range 4).all fun d => match sitePast (i % 16) (i / 16) d with
    | none => true
    | some p => (List.range 8).all fun lane =>
        laneRoom s 0 (8 * edgeRouter (i % 16) (i / 16) d lane + d) && laneRoom s 0 (8 * edgeRouter p.1 p.2 (opposite d) lane + opposite d)

/-! ## Memory circuits (R365, R486) -/

/-- The far end of a memory circuit: a dome, or another module with 65,536 added. -/
abbrev MemEnd := Nat

/-- Whether the way from a tower leads east, to a dome or to a port's bastion. -/
def edgeOut (s : State) (die : Nat) (e : MemEnd) : Nat :=
  if e < 65536 then edgeToward (dieX die) (dieY die) (domeX e) (dieY e)
  else match portTo s (e - 65536) with
    | some p => if 16 ≤ p then 1 else 3
    | none => 3

/-- The routers of a request circuit on a lane. -/
def memReqRoute (s : State) (die : Nat) (e : MemEnd) (lane : Nat) : List RouteHop :=
  if e < 65536 then routeMemReq die e lane
  else
    let d := edgeOut s die e
    match sitePast (dieX die) (dieY die) d with
    | some p => routeGo lane (.bastion (d == 1)) routeFuel (edgeRouter p.1 p.2 (opposite d) lane) (opposite d) (1 + Config.crossing)
    | none => []

/-- The routers of a reply circuit on a lane. -/
def memRepRoute (s : State) (die : Nat) (e : MemEnd) (lane : Nat) : List RouteHop :=
  if e < 65536 then routeMemRep die e lane
  else
    let d := edgeOut s die e
    let x := if d = 1 then 15 else 0
    if dieX die = x then [] else routeGo lane (.agent die) routeFuel (edgeRouter x (dieY die) d lane) d 0

/-- A memory circuit on a lane, with its links: it takes nothing from L ports (R345). -/
def memOn (s : State) (ctx die : Nat) (e : MemEnd) (reply lane : Nat) : Circuit × List (Nat × Nat) :=
  let route := if reply = 0 then memReqRoute s die e lane else memRepRoute s die e lane
  let hops := mergeRoute [] 0 route
  let d := edgeOut s die e
  let first := if reply = 0 then [(8 * edgeRouter (dieX die) (dieY die) d lane + d, 1)] else []
  let port := if e < 65536 ∨ reply ≠ 0 then [] else match portTo s (e - 65536) with
    | some p => [(2 ^ 21 + p, if hops.isEmpty then 1 else hopsLmax hops - 1)]
    | none => []
  let f := if e < 65536 then 0 else ((portTo s (e - 65536)).bind fun p => (mapFind s.ports p).map (·.f)).getD 0
  ({ Circuit.none with
      ctx := ctx, src := reply, closed := none, opened := s.wheel, eff := s.wheel, hops := hops, hd := routeHd route,
      hx := routeHx route + (if reply = 0 then 1 else 0), hm := routeHm route, fsum := f, mem := some (die, e) },
    laneLinks (first ++ hopLinks hops ++ port))

/-- Open a memory circuit with the lowest free number (R347), on the lowest lane that has room for it. -/
def openMem (s : State) (ctx die : Nat) (e : MemEnd) (reply : Nat) : Option State :=
  let n := cBits s ctx 0x10 32 10
  (nextCircKey s).bind fun key => (List.range 8).findSome? fun lane =>
    let (c, links) := memOn s ctx die e reply lane
    if links.all fun l => laneRoom s n l.1 then
      (chooseSlots [] (usableSlots s links) n 0 s.W).map fun slots =>
        (c.hops.flatMap fun h => hopWrites s.W s.wheel (circNum key) 0 h slots true).foldl applyTab
          (setCircuit (noteGen s key) key { c with gen := key / 65536, slots := slots, held := linkSlots s.W links slots })
    else none

/-- The far ends that a context's towers have memory circuits to. -/
def memEnds (s : State) (ctx : Nat) : List MemEnd :=
  let c := getCtx s ctx
  if c.installed then (List.range 160).filter (blkSet c.blk 0x68) ++
    ((List.range 64).filter fun m => bitAt c.modules m).map (65536 + ·)
  else []

/-- Whether an open memory circuit is still wanted as it is. -/
def memWanted (s : State) (c : Circuit) : Bool :=
  match c.mem with
  | some (die, e) => ctxTower s c.ctx die && (memEnds s c.ctx).contains e && c.slots.length == cBits s c.ctx 0x10 32 10
  | none => true

/-- A memory circuit closes: its slots are free and its entries invalid (R342). -/
def closeMem (s : State) (key : Nat) : State :=
  let s := modCircuit s key fun c => { c with closed := some s.wheel, held := [] }
  { s with slotTab := s.slotTab.filter fun e => e.2.circ != circNum key }

/-- Close a context's memory circuits that it no longer has. -/
def closeMems (s : State) (ctx : Nat) : State :=
  ((s.circuits.filter fun c => c.2.mem.isSome && c.2.ctx == ctx && circOpen c.2 s.wheel && !memWanted s c.2).map (·.1)).foldl closeMem s

/-- Open the memory circuits that a context lacks; none where a budget fails. -/
def openMems (s : State) (ctx : Nat) : Option State :=
  ((ctxTowers s ctx).flatMap fun t => (memEnds s ctx).flatMap fun e => [(t, e, 0), (t, e, 1)]).foldl
    (fun (a : Option State) x => a.bind fun s =>
      if (memCirc s ctx x.1 x.2.1 x.2.2).isSome then some s else openMem s ctx x.1 x.2.1 x.2.2) (some s)

/-! ## A context among the others (R437, R438) -/

/-- Whether a new or changed block is of a context that runs: one whose towers meet a running context's is created switched out. -/
def createdOut (s : State) (ctx : Nat) (b : Vector Word 32) : Bool :=
  if (getCtx s ctx).installed then (getCtx s ctx).out
  else (installedCtxs s).any fun c => !c.2.out && (List.range 160).any fun t => blkSet b 0x50 t && blkSet c.2.blk 0x50 t

/-- Whether a block's context is, or becomes, one created switched out. -/
def bornOut (s : State) (ctx : Nat) (b : Vector Word 32) : Bool :=
  if (getCtx s ctx).installed then (getCtx s ctx).bornOut else createdOut s ctx b

/-- Whether two contexts can run at the same time: not where a list of SCHED holds both, or one was created switched out. -/
def together (s : State) (ctx : Nat) (born : Bool) (c : Nat × Ctx) : Bool :=
  !born && !c.2.bornOut && !(s.sched.contains ctx && s.sched.contains c.1)

/-- The direction slots of a dome that a block's towers write, in its save window (R440). -/
def slotRanges (b : Vector Word 32) (dome : Nat) : List (Nat × Nat) :=
  ((List.range 160).filter (blkSet b 0x50)).flatMap fun t => (towerDomes t).filterMap fun d =>
    if d.1 = dome then some (blkBits b 0x40 0 48 + d.2 * dirSlot, dirSlot) else none

/-- Whether a block clashes with another's on a dome: in their ranges, or a direction slot its towers write with what the other's
towers write there. -/
def domesClash (a b : Vector Word 32) : Bool :=
  ((List.range 160).any fun d => blkSet a 0x68 d && blkSet b 0x68 d &&
    (zoneRanges a).any fun x => (zoneRanges b).any (rangesMeet x)) ||
  (List.range 160).any fun d =>
    let other := ((List.range 160).filter (blkSet b 0x50)).flatMap fun t => saveRanges (blkBits b 0x40 0 48) t d
    (slotRanges a d).any fun x => other.any (rangesMeet x)

/-- Whether a block's die-SRAM run meets another's on a common tower. -/
def sramClash (a b : Vector Word 32) : Bool :=
  ((List.range 160).any fun t => blkSet a 0x50 t && blkSet b 0x50 t) &&
    rangesMeet (blkBits a 0x30 0 9, blkBits a 0x30 16 10) (blkBits b 0x30 0 9, blkBits b 0x30 16 10)

/-- Whether a block clashes with another installed context. -/
def ctxClash (s : State) (ctx : Nat) (b : Vector Word 32) : Bool :=
  let born := bornOut s ctx b
  (installedCtxs s).any fun c => c.1 != ctx &&
    ((together s ctx born c && (List.range 160).any fun t =>
        (blkSet b 0x50 t && blkSet c.2.blk 0x50 t) || (blkSet b 0x68 t && blkSet c.2.blk 0x68 t)) ||
      domesClash b c.2.blk || sramClash b c.2.blk || blkBits b 0x28 0 32 &&& blkBits c.2.blk 0x28 0 32 != 0)

/-- A core on which a context starts with no image, or that a save has left: what belongs to the core, its slots and the hypervisor
stays (R198, R225). -/
def emptyCore (c : Core) : Core :=
  { Core.reset with
    slots := c.slots.map fun th => keepH th { Thread.reset with run := if th.run = .quarantined then .quarantined else .vacant }
    rot := c.rot, duty := c.duty, dutyNext := c.dutyNext, trace := c.trace, traceLost := c.traceLost, quarantined := c.quarantined
    epochRot := c.epochRot, epochIssued := c.epochIssued, epochClosed := c.epochClosed }
def emptyCluster (c : Cluster) : Cluster := { Cluster.reset with failed := c.failed, rr := c.rr }

/-- A context starts to run on towers with no image to restore (R198). -/
def startTowers (s : State) (ts : List Nat) : State :=
  { s with
    cores := s.cores.map fun c => if ts.contains (c.1 / 64) then (c.1, emptyCore c.2) else c
    clusters := s.clusters.map fun c => if ts.contains (c.1 / 8) then (c.1, emptyCluster c.2) else c }

/-- The towers of a block that its context does not run on yet; none of a context that is switched out. -/
def newTowers (s : State) (ctx : Nat) (b : Vector Word 32) : List Nat :=
  if createdOut s ctx b then [] else (List.range 160).filter fun t => blkSet b 0x50 t && !ctxTower s ctx t

/-- A context with a block in place, as it stands once the change has been made. -/
def placeBlock (s : State) (ctx : Nat) (b : Vector Word 32) : State :=
  let out := createdOut s ctx b
  let c := getCtx s ctx
  let s := startTowers s (newTowers s ctx b)
  if c.installed then setCtx s ctx { c with blk := b }
  else setCtx s ctx { Ctx.reset with
    installed := true, blk := b, out := out, bornOut := out, sinkAt := if out then 0 else s.wheel, resumed := revNow s,
    epoch := c.epoch }

/-- Whether the service positions of every dome suffice. -/
def positionsOk (s : State) : Bool := (List.range 160).all fun d => decide (((domeShares s d).map (·.2)).sum ≤ 16 * s.W)

/-- A context block and all that follows from it: circuits and service tables; none where a budget is exceeded (R437). -/
def installCtx (s : State) (ctx : Nat) (b : Vector Word 32) : Option State :=
  if ctxClash s ctx b then none
  else
    let s := placeBlock s ctx b
    if !positionsOk s then none
    else match openMems (closeMems s ctx) ctx with
      | some s => if lanesOk s then some (fillTables s) else none
      | none => none

/-- Zero a context's save areas: the direction slots its towers write (R417, R440). -/
def zeroSaves (s : State) (ctx : Nat) : State :=
  (List.range 160).foldl (fun s d => (slotRanges (getCtx s ctx).blk d).foldl (fun s r => modDome s d fun x => { x with
      mem := x.mem.filter fun c => !(r.1 ≤ c.1 && c.1 < r.1 + r.2)
      poison := clearPoison x.poison r.1 r.2
      latent := clearPoison x.latent r.1 r.2 }) s) s

/-- What a tower holds of a context that leaves the machine: its published counts, and its share of the replica pool (R290, R293). -/
def forgetCtx (ctx : Nat) (d : Die) : Die :=
  { d with
    pd := mapDel d.pd ctx
    pmax := mapDel d.pmax ctx
    held := d.held.filter fun h => h.1 % 256 != ctx
    replicas := d.replicas.filter fun r => r.2.2.1 != ctx
    served := d.served.filter fun x => x.1 / 8 != ctx }

/-- A context leaves the machine: its circuits close and its tables go. -/
def removeCtx (s : State) (ctx : Nat) : State :=
  let s : State := { s with dies := s.dies.map fun d => (d.1, forgetCtx ctx d.2) }
  let keys := (s.circuits.filter fun c => c.2.ctx == ctx && c.2.mem.isNone && circOpen c.2 s.wheel).map (·.1)
  let s := keys.foldl closeCircuitNow s
  let s := setCtx s ctx { Ctx.reset with epoch := (getCtx s ctx).epoch }
  let s := closeMems s ctx
  fillTables { s with seals := s.seals.filter fun z => z.ctx != ctx, sched := s.sched.filter (· ≠ ctx) }

end Sys2Proof.Machine
end

