-- ==== Sys2Proof/Machine/Host.lean ====
section
/-! DEFINITION. The host functions: queue registers, the commands of the command queues and their records (spec/21 R413 to R418, spec/23
R437, R438; spec/26 R481, R486). A block that a command installs takes effect by BLOCK_CHANGE_EFFECT. -/

namespace Sys2Proof.Machine

set_option Elab.async false

/-! ## Functions and registers (R414, R415) -/

def funcKey (port fn : Nat) : Nat := 512 * port + fn

/-- The context of a function: none for a physical function, and for a VF beyond its port's share. -/
def vfCtx (s : State) (port fn : Nat) : Option Nat :=
  if fn = 0 then none
  else if port = 0 then (if fn ≤ s.spl then some (fn - 1) else none)
  else if fn ≤ 256 - s.spl then some (s.spl + fn - 1) else none

/-- Whether a function is present (R414). -/
def fnPresent (s : State) (port fn : Nat) : Bool := decide (port < 2) && (fn == 0 || (vfCtx s port fn).isSome)

def modFunc (s : State) (k : Nat) (f : Func → Func) : State := setFunc s k (f (getFunc s k))

/-- A queue size: 6 to 12, other values are ignored. -/
def queueLog (old v : Nat) : Nat := if 6 ≤ v ∧ v ≤ 12 then v else old

/-- DOORBELL: a write of TAIL (R415, R416). -/
def writeTail (f : Func) (v : Nat) : Func := if v < 2 ^ f.qlog2 then { f with tail := v } else f
/-- CQHEAD_WRITE (R415). -/
def writeCqhead (f : Func) (v : Nat) : Func := if v < 2 ^ f.cqlog2 then { f with cqhead := v } else f

/-- A write of a doubleword of BAR0 (R415). -/
def writeBar (f : Func) (off : Nat) (v : Word) : Func :=
  match off with
  | 0x000 => { f with qbase := v &&& ~~~0xFFF }
  | 0x008 => { f with qen := bitAt v 63, qlog2 := queueLog f.qlog2 (bitsAt v 0 4) }
  | 0x010 => writeTail f (bitsAt v 0 12)
  | 0x020 => { f with cqbase := v &&& ~~~0xFFF }
  | 0x028 => { f with cqen := bitAt v 63, msie := bitAt v 62, cqlog2 := queueLog f.cqlog2 (bitsAt v 0 4) }
  | 0x030 => writeCqhead f (bitsAt v 0 12)
  | _ => f

/-- HEAD moves past a command. -/
def hostPass (s : State) (k : Nat) : State := modFunc s k fun f => { f with head := (f.head + 1) % 2 ^ f.qlog2, busy := false, owed := none }

/-- A command finishes with a status: its record, with HANDLE 2^63 + its queue index and a wheel count. No unread record is overwritten:
while the completion queue is full the record is owed and the command stays unfinished (R416). -/
def hostDoneAt (s : State) (k status wheel : Nat) : State :=
  let f := getFunc s k
  if f.cqen && cqFull f then modFunc s k fun f => { f with busy := true, owed := some (status, wheel) }
  else hostPass (cqWrite s k 0 (recordNat status (2 ^ 63 + f.head) 0 wheel)) k
def hostDone (s : State) (k status : Nat) : State := hostDoneAt s k status s.wheel

/-- The record that a function is owed is written as soon as its completion queue has room (R416). -/
def payOwed (s : State) (k : Nat) : State :=
  match (getFunc s k).owed with
  | some (status, wheel) => hostDoneAt s k status wheel
  | none => s

/-- An Unsupported Request completion of a port: all that comes of a request to an absent function (R414). -/
def refuseRequest (s : State) (port : Nat) : State :=
  { s with unsupported := vset s.unsupported port (vget s.unsupported port 0 + 1) }

/-- A function's change of its registers, and the record that it may be owed; an absent function takes none (R414). -/
def onFunc (s : State) (port fn : Nat) (f : Func → Func) : State :=
  if fnPresent s port fn then payOwed (modFunc s (funcKey port fn) f) (funcKey port fn) else refuseRequest s port

/-- DOORBELL and CQHEAD_WRITE carry a doubleword; its bits [63:12] are reserved (R5). -/
def execDoorbell (s : State) : Out := .next (onFunc s s.arg.port s.arg.fn fun f => writeTail f (bitsAt s.arg.v 0 12))
def execCqheadWrite (s : State) : Out := .next (onFunc s s.arg.port s.arg.fn fun f => writeCqhead f (bitsAt s.arg.v 0 12))

/-- A write of TGT of a fabric port: fewer lanes are shed, more are retrained (R481, R488). -/
def writeTgt (s : State) (p : Nat) (v : Word) : State :=
  let n := bitsAt v 36 4
  let lanes := (mapGet FabPort.reset s.ports p).lanes
  if 1 ≤ n ∧ n ≤ 8 then
    pushEvent s (if n < lanes then .tgtShed else .tgtRetrain) { EvArg.none with port := p, n := n }
  else s

/-- A write of a port's SR-IOV capability: 0 is VF Enable, 1 is NumVFs, which goes up to 256 (R414; the numbers are the model's, log
104). -/
def writeSriov (s : State) (port off : Nat) (v : Word) : State :=
  match off with
  | 0 => { s with vfEnable := s.vfEnable - (s.vfEnable / 2 ^ port % 2) * 2 ^ port + bitsAt v 0 1 * 2 ^ port }
  | 1 => if v.toNat ≤ 256 then { s with numVfs := vset s.numVfs port v.toNat } else s
  | _ => s

/-- REGISTER_WRITE at an offset of BAR0; `conf` says that it is of the port's SR-IOV capability (R414). -/
def registerWrite (s : State) (port fn off : Nat) (v : Word) (conf : Bool) : State :=
  if !fnPresent s port fn then refuseRequest s port
  else if conf then (if fn = 0 then writeSriov s port off v else s)
  else if 0x1000 ≤ off then
    if fn = 0 ∧ off < 0x1200 ∧ off % 16 = 0 then writeTgt s ((off - 0x1000) / 16) v else s
  else onFunc s port fn fun f => writeBar f off v

def execRegisterWrite (s : State) : Out := .next (registerWrite s s.arg.port s.arg.fn s.arg.n s.arg.v s.arg.ok)

/-- VF_ABSENT_REQUEST: it completes with Unsupported Request, and no queue or context feels it (R414). -/
def execVfAbsentRequest (s : State) : Out :=
  .next (if fnPresent s s.arg.port s.arg.fn then s else refuseRequest s s.arg.port)

/-! ## Reads by the host (R13, R414, R415, R481)

A read changes nothing: it is a function of the state, and no event. -/

/-- A doubleword of a function's BAR0 below 0x1000: its fields, and every reserved bit zero (R5, R415). -/
def readBar (f : Func) (off : Nat) : Word :=
  match off with
  | 0x000 => f.qbase
  | 0x008 => word (f.qen.toNat * 2 ^ 63 + f.qlog2)
  | 0x010 => word f.tail
  | 0x018 => word f.head
  | 0x020 => f.cqbase
  | 0x028 => word (f.cqen.toNat * 2 ^ 63 + f.msie.toNat * 2 ^ 62 + f.cqlog2)
  | 0x030 => word f.cqhead
  | 0x038 => word f.cqtail
  | _ => 0

/-- A doubleword of the registers of fabric port p (R481). -/
def readPort (s : State) (p off : Nat) : Word :=
  let x := mapGet FabPort.reset s.ports p
  match off with
  | 0 => word (x.up.toNat * 2 ^ 63 + x.peermod % 64 * 2 ^ 56 + x.peerport % 32 * 2 ^ 48 + x.lanes % 16 * 2 ^ 40 +
      x.tgt % 16 * 2 ^ 36 + x.f % 2 ^ 16)
  | 8 => word ((s.offs % 2 ^ 32).toNat * 2 ^ 32 + x.lostc % 2 ^ 32)
  | _ => 0

/-- What the host reads at an offset of a function's BAR0; none is an Unsupported Request. -/
def hostRead (s : State) (port fn off : Nat) : Option Word :=
  if !fnPresent s port fn then none
  else if off < 0x1000 then some (readBar (getFunc s (funcKey port fn)) off)
  else if fn = 0 ∧ off < 0x1200 then some (readPort s ((off - 0x1000) / 16) (off % 16))
  else some 0

/-- What the host reads of a port's SR-IOV capability: VF Enable, NumVFs and TotalVFs, which is 256 (R414). -/
def sriovRead (s : State) (port off : Nat) : Word :=
  match off with
  | 0 => word (s.vfEnable / 2 ^ port % 2)
  | 1 => word (vget s.numVfs port 0)
  | 2 => 256
  | _ => 0

/-! ## Reading the next command (R416) -/

/-- A doubleword of a port's host memory. -/
def hostNat (s : State) (port a n : Nat) : Nat := mNat s.hostMem (2 ^ 64 * port + a) n
def hostWord (s : State) (port a : Nat) : Word := word (hostNat s port a 8)

/-- Whether the keep may begin the next command of a function: boot is done, the queue holds one, none is under way, and the
completion queue has room. -/
def hostReady (s : State) (port fn : Nat) : Bool :=
  let f := getFunc s (funcKey port fn)
  fnPresent s port fn && decide (6 ≤ s.boot) && f.qen && f.head != f.tail && !f.busy && (!f.cqen || !cqFull f)

/-- Address of the entry at HEAD. -/
def entryAddr (s : State) (port fn : Nat) : Nat :=
  let f := getFunc s (funcKey port fn)
  f.qbase.toNat + 64 * f.head

def entryOpc (s : State) (port fn : Nat) : Nat := hostNat s port (entryAddr s port fn) 1
def entryArg (s : State) (port fn i : Nat) : Word := hostWord s port (entryAddr s port fn + 8 + 8 * i)

/-- Whether an entry has a bit set that is to be zero. -/
def entryStray (s : State) (port fn : Nat) : Bool :=
  hostNat s port (entryAddr s port fn) 8 / 256 != 0 || hostNat s port (entryAddr s port fn + 24) 40 != 0

/-- Codes of the commands (R417, R473, R486). -/
def cmdKnown (opc : Nat) : Bool := [0x01, 0x02, 0x03, 0x10, 0x11, 0x12, 0x13, 0x14, 0x15, 0x16, 0x17, 0x18, 0x19, 0x1A].contains opc

/-- Run the next command of a function if it is the one with a code: permission, then stray bits, then its effect (R417). -/
def hostCmd (s : State) (opc : Nat) (may : Nat → Nat → Bool) (f : State → Nat → Word → Word → State) : State :=
  let port := s.arg.port
  let fn := s.arg.fn
  let k := funcKey port fn
  if !hostReady s port fn then s
  else if entryOpc s port fn ≠ opc then s
  else if !may port fn then hostDone s k 18
  else if entryStray s port fn then hostDone s k 17
  else f s k (entryArg s port fn 0) (entryArg s port fn 1)

def fromVf (_ fn : Nat) : Bool := fn != 0
def fromPf (_ fn : Nat) : Bool := fn == 0
def fromPf0 (port fn : Nat) : Bool := port == 0 && fn == 0
def fromAny (_ _ : Nat) : Bool := true

/-! ## LAUNCH (R417) -/

/-- A block of doublewords in host memory. -/
def hostBlock (s : State) (port a n : Nat) : Vector Word n := Vector.ofFn fun i => hostWord s port (a + 8 * i)

/-- A region control block in host memory, as the keep takes it (R5, R410). -/
def controlBlock (s : State) (port a : Nat) : Vector Word 32 := blkFields (hostBlock s port a 32)

/-- LAUNCH: as `lnch` of a thread above U; the read of the block may fail (`arg.ok`, an outside event). -/
def hostLaunch (s : State) (k : Nat) (a : Word) : State :=
  match vfCtx s s.arg.port s.arg.fn with
  | none => hostDone s k 18
  | some ctx =>
    if bitsAt a 0 6 ≠ 0 then hostDone s k 17
    else if s.arg.ok then hostDone s k 21
    else
      let b := hostBlock s s.arg.port a.toNat 16
      if (launchFault s ctx (lBits b 0x08 16 6) false a b).isSome then hostDone s k 17
      else hostPass (createLaunch s ctx b) k

/-- LAUNCH; an entry whose code is none of the keep's commands is answered here too. -/
def execLaunchCmd (s : State) : Out :=
  .next (if hostReady s s.arg.port s.arg.fn && !cmdKnown (entryOpc s s.arg.port s.arg.fn) then
      hostDone s (funcKey s.arg.port s.arg.fn) 17
    else hostCmd s 0x01 fromVf fun s k a _ => hostLaunch s k a)

/-! ## Blocks (R413, R417) -/

/-- The boundary E that the keep chooses for a change. -/
def changeBoundary (s : State) : Nat := (revNow s + 65) * s.W

/-- A change of a command waits for its E; the command finishes with it. -/
def deferChange (s : State) (k : Nat) (c : BlockChange) : State :=
  let f := getFunc s k
  modFunc { s with blkChanges := s.blkChanges ++ [{ c with e := changeBoundary s, cmd := some (k, f.head) }] } k fun f => { f with busy := true }

def BlockChange.none : BlockChange := ⟨0, 0, Option.none, Option.none, Option.none, Option.none, Option.none⟩

/-- REGSET: install or replace a process region. -/
def hostRegset (s : State) (k : Nat) (a : Word) : State :=
  match vfCtx s s.arg.port s.arg.fn with
  | none => hostDone s k 18
  | some ctx =>
    if s.arg.ok then hostDone s k 21
    else
      let b := controlBlock s s.arg.port a.toNat
      let c := getCtx s ctx
      if bitsAt a 0 6 = 0 ∧ blockValid s.W 2 b = true ∧ blkBits b 0 8 8 = ctx ∧ c.installed = true ∧ regionFits c.blk b = true then
        deferChange s k { BlockChange.none with ctx := ctx, region := some (blkBits b 0 16 6), blk := some b }
      else hostDone s k 17

def execRegset (s : State) : Out := .next (hostCmd s 0x02 fromVf fun s k a _ => hostRegset s k a)

/-- Whether a region has a bound thread, on a core or in what the keep holds of a context that is switched out, or a queued task. -/
def regionBusy (s : State) (ctx region : Nat) : Bool :=
  !(threadsWhere s fun th => th.ctx == ctx && th.region == region).isEmpty ||
  ((getCtx s ctx).savedCores.any fun c => c.2.slots.toList.any fun th => hasThread th && th.region == region) ||
  s.dies.any fun d => (d.2.queue ++ d.2.selected.map (·.1)).any fun k => k.ctx == ctx && k.region == region

/-- REGDROP. -/
def hostRegdrop (s : State) (k : Nat) (a : Word) : State :=
  match vfCtx s s.arg.port s.arg.fn with
  | none => hostDone s k 18
  | some ctx =>
    if (mapFind (getCtx s ctx).regions a.toNat).isNone then hostDone s k 17
    else if regionBusy s ctx a.toNat then hostDone s k 20
    else deferChange s k { BlockChange.none with ctx := ctx, region := some a.toNat }

def execRegdrop (s : State) : Out := .next (hostCmd s 0x03 fromVf fun s k a _ => hostRegdrop s k a)

/-- CTXSET: create or change a context; checked now and again at E (R411, R437, R438). -/
def hostCtxset (s : State) (k : Nat) (a : Word) : State :=
  if s.arg.ok then hostDone s k 21
  else
    let b := controlBlock s s.arg.port a.toNat
    let ctx := blkBits b 0 8 8
    if bitsAt a 0 6 = 0 ∧ blockValid s.W 1 b = true ∧ ((getCtx s ctx).regions.all fun r => regionFits b r.2) = true then
      if (installCtx s ctx b).isSome then deferChange s k { BlockChange.none with ctx := ctx, blk := some b }
      else hostDone s k 19
    else hostDone s k 17

def execCtxset (s : State) : Out := .next (hostCmd s 0x10 fromPf fun s k a _ => hostCtxset s k a)

/-- Whether a context has a launch: one that has not ended or whose record is still to be written. -/
def ctxBusy (s : State) (ctx : Nat) : Bool :=
  (getCtx s ctx).launches.any fun l => l.2.stage != .done || (lBits l.2.blk 0x20 40 2 != 0 && l.2.ordsig == 0)

/-- CTXDROP. -/
def hostCtxdrop (s : State) (k : Nat) (a : Word) : State :=
  if 256 ≤ a.toNat ∨ (getCtx s a.toNat).installed = false then hostDone s k 17
  else if ctxBusy s a.toNat then hostDone s k 20
  else deferChange s k { BlockChange.none with ctx := a.toNat }

def execCtxdrop (s : State) : Out := .next (hostCmd s 0x11 fromPf fun s k a _ => hostCtxdrop s k a)

/-! ## Switches, rotation, split and fabric -/

/-- SWITCH: as a `csrw` of `hswitch`. -/
def execSwitchCmd (s : State) : Out :=
  .next (hostCmd s 0x12 fromPf fun s k a _ =>
    hostDone (pushEvent s (if bitAt a 63 then .hswitchSchedule else .hswitchCancel) (evArgT Tid.zero 0 a)) k 0)

/-- SCHED: rotate the listed contexts, or stop (R428). -/
def hostSched (s : State) (k : Nat) (a n : Word) : State :=
  if n = 0 then hostDone { s with sched := [] } k 0
  else if n.toNat < 2 ∨ 16 < n.toNat then hostDone s k 17
  else if s.arg.ok then hostDone s k 21
  else
    let l := (List.range n.toNat).map fun i => hostNat s s.arg.port (a.toNat + i) 1
    if (l.all fun c => (getCtx s c).installed) && l.dedup.length == l.length then hostDone { s with sched := l } k 0
    else hostDone s k 17

def execSched (s : State) : Out := .next (hostCmd s 0x13 fromPf hostSched)

/-- SPLIT: SPL changes only while VF Enable is clear on both ports (R414). -/
def execHostSplit (s : State) : Out :=
  .next (hostCmd s 0x14 fromPf0 fun s k a _ =>
    if 256 < a.toNat then hostDone s k 17
    else if s.vfEnable ≠ 0 then hostDone s k 20
    else hostDone { s with spl := a.toNat } k 0)

/-- FABRIC: the modules that a context's memory circuits reach, at E (R486). -/
def hostFabric (s : State) (k : Nat) (a m : Word) : State :=
  if 256 ≤ a.toNat ∨ (getCtx s a.toNat).installed = false ∨ ((List.range 64).any fun i => bitAt m i && (i == s.modNo || (portTo s i).isNone)) = true then
    hostDone s k 17
  else
    let w := (List.range 64).foldl (fun v i => if bitAt m i && Config.farHolds i a.toNat then v + 2 ^ i else v) 0
    deferChange s k { BlockChange.none with ctx := a.toNat, modules := some (word w) }

def execFabric (s : State) : Out := .next (hostCmd s 0x1A fromPf hostFabric)

end Sys2Proof.Machine
end

