-- ==== Sys2Proof/Machine/Quarantine.lean ====
section
/-! DEFINITION. Quarantine of a core, the shift of a row onto its spare, and the failures of a cluster and of a die's memory agent
(spec/07 R136 to R138, spec/12 R274, spec/13 R296). -/

namespace Sys2Proof.Machine

set_option Elab.async false

/-! ## Coordinates (R138) -/

/-- The physical x of an architectural core: one further from the x on that the map leaves out (R138). -/
def physX (s : State) (die core : Nat) : Nat :=
  if coreX core < holeOf s die (coreY core) then coreX core else coreX core + 1

/-- The architectural core that a physical core stands for, unless the map leaves it out. -/
def archOf (s : State) (die x y : Nat) : Option Nat :=
  if x = holeOf s die y then none else if x < holeOf s die y then some (8 * y + x) else some (8 * y + (x - 1))

/-! ## Quarantine (R137) -/

/-- The tasks with threads on a core, as pairs of context and task. -/
def coreTasks (c : Core) : List (Nat × Nat) :=
  ((c.slots.toList.filter hasThread).map fun th => (th.ctx, th.task)).dedup

/-- What is left of a core that is quarantined: every slot Quarantined, nothing at work. -/
def deadCore (c : Core) : Core :=
  { c with
    slots := c.slots.map fun th => keepH th { Thread.reset with run := .quarantined }
    landings := []
    gate := []
    heavy := 0
    mq := []
    remote := []
    quarantined := true }

/-- The open circuits with an end at a core. -/
def coreCircuits (s : State) (die core : Nat) : List Nat :=
  (s.circuits.filter fun c => circOpen c.2 s.wheel && c.2.mem.isNone && (c.2.src :: c.2.dsts).any fun e =>
    endpointMod e == s.modNo && endpointCore e == some (coreKey die core)).map (·.1)

/-- The slots of a core become Quarantined, its leaf is gone, and its tasks end with a fault completion; the belfry closes its circuits (R137,
R377). -/
def stopCore (s : State) (die core : Nat) : State :=
  let k := coreKey die core
  let tasks := coreTasks (getCore s k)
  let s := ((coreTids die core).filter fun t => hasThread (getThread s t)).foldl endThread (spireGoneAll s k)
  let s := modCore s k deadCore
  let s := tasks.foldl (fun s x => taskFault s x.1 x.2 1) s
  (coreCircuits s die core).foldl closeCircuitNow s

/-- CORE_QUARANTINE of an architectural core: it stops, and without a spare to take its place its coordinate is absent (R137, R138). -/
def coreQuarantine (s : State) (die core : Nat) : State :=
  if (getCore s (coreKey die core)).quarantined then s
  else
    let spare := spareFree s die (coreY core) && (shiftAt s die (coreY core)).isNone
    let x := physX s die core
    let s := stopCore s die core
    modDie s die fun d => { d with
      bad := setIns d.bad (physNum x (coreY core))
      absent := if spare then d.absent else setIns d.absent core }

def execCoreQuarantine (s : State) : Out := .next (coreQuarantine s s.arg.die s.arg.unit)

/-! ## The shift of a row (R138) -/

/-- Whether a revolution began in the rotation that has just ended. -/
def newRevolution (s : State) : Bool := decide (s.wheel % s.W < s.slotsPerRotation)

/-- Whether the cores that a shift of a row renames are idle: no slot holds a thread; transfers of ended threads may be in
flight (R138; DESIGN CHOICE, log 119). -/
def rowIdle (s : State) (die row : Nat) (l : List Nat) : Bool :=
  l.all fun x => (getCore s (coreKey die (8 * row + x))).slots.toList.all fun th => !hasThread th

/-- Each core of a row takes the place of the next one in a list; the last is the spare. -/
def moveRow (s : State) (die row : Nat) : List Nat → State
  | x :: y :: l => moveRow (setCore s (coreKey die (8 * row + x)) (getCore s (coreKey die (8 * row + y)))) die row (y :: l)
  | [x] => setCore s (coreKey die (8 * row + x)) Core.reset
  | [] => s

/-- SPARE_SHIFT: at a revolution boundary the cores between the quarantined one and the one that the map leaves out are renamed. -/
def spareShift (s : State) (die row : Nat) : State :=
  match shiftAt s die row with
  | none => s
  | some q =>
    let hole := holeOf s die row
    let l := shiftRange hole q
    if newRevolution s && rowIdle s die row l then
      let f := physX s die (8 * row + q)
      { moveRow s die row (if q < hole then l else l.reverse) with shifted := mapSet s.shifted (8 * die + row) f }
    else s

def execSpareShift (s : State) : Out := .next (spareShift s s.arg.die s.arg.i)

/-! ## Failures of a cluster and of a die agent (R274, R296) -/

/-- A core stops and its coordinate is absent, whatever spare the row has. -/
def removeCore (s : State) (die core : Nat) : State :=
  let s := if (getCore s (coreKey die core)).quarantined then s else stopCore s die core
  modDie s die fun d => { d with absent := setIns d.absent core }

/-- Whether a beat is of the engine of a cluster. -/
def beatOfEngine (cl : Nat) (b : InjSrc) : Bool :=
  match b with
  | .engine _ k _ _ _ => k == cl
  | _ => false

/-- What the engine of a cluster has asked for and made is dropped, with the writes not yet performed (R274). -/
def dropEngine (s : State) (die cl : Nat) : State :=
  let s := modDie s die fun d => { d with reqs := d.reqs.filter fun r => reqPort r != some (clusterKey die cl) }
  { s with
    circuits := s.circuits.map fun c => (c.1, { c.2 with inj := c.2.inj.filter fun b => !beatOfEngine (clusterKey die cl) b.src })
    words := s.words.filter fun f => !beatOfEngine (clusterKey die cl) f.src }

/-- CLUSTER_FAILURE: eight cores are quarantined without replacement; what the engine had under way is dropped (R274). -/
def clusterFailure (s : State) (die cl : Nat) : State :=
  let s := ((List.range 8).map (coreAt cl)).foldl (fun s c => removeCore s die c) (dropEngine s die cl)
  modCluster s (clusterKey die cl) fun c => { c with failed := true, chans := c.chans.map fun h => { h with q := [] } }

def execClusterFailure (s : State) : Out := .next (clusterFailure s s.arg.die s.arg.unit)

/-- AGENT_STATE_ERROR: the stores of the die's table are lost and their granules poisoned, and every core of the die goes (R296). -/
def agentStateError (s : State) (die : Nat) : State :=
  (List.range 64).foldl (fun s c => removeCore s die c) (loseStores s die)

def execAgentStateError (s : State) : Out := .next (agentStateError s s.arg.die)

end Sys2Proof.Machine
end

