-- ==== Sys2Proof/Machine/Service.lean ====
section
/-! DEFINITION. Block changes at their boundary, and the keep's commands for telemetry, firmware, attestation and service (spec/21 R413,
R417; spec/25 R473, R475 to R479; spec/26 R486). -/

namespace Sys2Proof.Machine

set_option Elab.async false

/-! ## Block changes (R413) -/

/-- The memory circuits of a context reach other modules, or none where a budget is exceeded (R486). -/
def installModules (s : State) (ctx : Nat) (m : Word) : Option State :=
  openMems (closeMems (modCtx s ctx fun c => { c with modules := m }) ctx) ctx

/-- The CPA whose home is the offset of the k-th dome of a context's mask, in a valid interleave region (R287 read backwards). -/
def cellCpa (s : State) (ctx c k off : Nat) : Option Nat :=
  (List.range 4).findSome? fun z =>
    let o := 0x80 + 16 * z
    let base := cBits s ctx o 0 48
    let g := granuleOf (cBits s ctx o 48 2)
    if cBits s ctx o 50 1 = 1 ∧ base ≤ off ∧ off < base + cBits s ctx (o + 8) 0 48 then
      let j := (off - base) / g
      let m := (mix32 (BitVec.ofNat 32 j) (BitVec.ofNat 32 (cBits s ctx 0x30 32 32))).toNat % c
      some (z * 2 ^ 44 + (c * j + (k + c - m) % c) * g + (off - base) % g)
    else none

/-- A context's block without a dome: its mask loses the dome, and the regions grow on the domes that stay (R479). -/
def blkWithout (b : Vector Word 32) (dome c : Nat) : Vector Word 32 :=
  let i := 0x68 / 8 + dome / 64
  let b := vset b i (vget b i 0 &&& ~~~(word (2 ^ (dome % 64))))
  (List.range 4).foldl (fun b z =>
    let o := 0x80 + 16 * z
    let g := granuleOf (blkBits b o 48 2)
    if blkBits b o 50 1 = 1 then
      vset b (o / 8 + 1) (word (ceilDiv (ceilDiv (blkBits b (o + 8) 0 48 * c) (c - 1)) g * g % 2 ^ 48))
    else b) b

/-- The homes of a context's granules on its domes: the dome's place in the mask, the dome and an offset that lies in a region. -/
def moveHome (s t : State) (ctx : Nat) (mask new : List Nat) (k off : Nat) : Option (Nat × Nat) :=
  match (cellCpa s ctx mask.length k off).map (homeUnder t ctx new) with
  | some (.dome d o) => some (d, o)
  | _ => none

/-- What a dome keeps when a context's ranges on it are emptied. -/
def emptyRanges (b : Vector Word 32) (x : Dome) : Dome :=
  let inside (a : Nat) : Bool := (zoneRanges b).any fun r => decide (r.1 ≤ a) && decide (a < r.1 + r.2)
  { x with mem := x.mem.filter (fun c => !inside c.1), poison := x.poison.filter (!inside ·), latent := x.latent.filter (!inside ·) }

/-- Every granule of a context moves to its home under the mask without a dome, whose ranges read zero afterwards (R479). `t` holds
the new block. -/
def moveGranules (s t : State) (ctx dome : Nat) : State :=
  let mask := domeMask s ctx
  let new := mask.filter (· ≠ dome)
  let b := (getCtx s ctx).blk
  let moved := (mask.zipIdx).flatMap fun m =>
    (((getDome s m.1).mem.filterMap fun c => (moveHome s t ctx mask new m.2 c.1).map fun h => (h, c.2)))
  let marks (f : Dome → List Nat) := (mask.zipIdx).flatMap fun m => (f (getDome s m.1)).filterMap (moveHome s t ctx mask new m.2)
  let t := mask.foldl (fun t d => modDome t d (emptyRanges b)) t
  let t := moved.foldl (fun t m => modDome t m.1.1 fun x => { x with mem := mSet x.mem m.1.2 m.2 }) t
  let t := (marks (·.poison)).foldl (fun t h => modDome t h.1 fun x => { x with poison := setIns x.poison h.2 }) t
  (marks (·.latent)).foldl (fun t h => modDome t h.1 fun x => { x with latent := setIns x.latent h.2 }) t

/-- A dome retires from a context: the state after, or the status of the failure (R479). -/
def retireDome (s : State) (ctx dome : Nat) : Except Nat State :=
  let c := getCtx s ctx
  let n := (domeMask s ctx).length
  if !c.installed || !(domeMask s ctx).contains dome then .error 17
  else if !c.out then .error 20
  else
    let b := blkWithout c.blk dome n
    if n ≤ 1 ∨ zonesOk b = false then .error 19
    else match installCtx s ctx b with
      | some t => .ok (moveGranules s t ctx dome)
      | none => .error 19

/-- What a block change comes to at its E: the state, or the status of its failure. -/
def changeBlock (s : State) (c : BlockChange) : Except Nat State :=
  match c.region, c.blk, c.modules, c.dome with
  | some r, some b, _, _ =>
    if (getCtx s c.ctx).installed ∧ regionFits (getCtx s c.ctx).blk b = true then
      .ok (modCtx s c.ctx fun x => { x with regions := mapSet x.regions r b })
    else .error 17
  | some r, none, _, _ =>
    if regionBusy s c.ctx r then .error 20 else .ok (modCtx s c.ctx fun x => { x with regions := mapDel x.regions r })
  | none, some b, _, _ =>
    (match installCtx s c.ctx b with
    | some t => .ok (if (getCtx s c.ctx).installed then t else zeroSaves t c.ctx)
    | none => .error 19)
  | none, none, some m, _ => (match installModules s c.ctx m with
    | some t => .ok t
    | none => .error 19)
  | none, none, none, some d => retireDome s c.ctx d
  | none, none, none, none => if ctxBusy s c.ctx then .error 20 else .ok (removeCtx s c.ctx)

/-- BLOCK_CHANGE_EFFECT: the i-th change that waits takes effect, and its command finishes with the wheel count E (R413). -/
def blockChangeEffect (s : State) (i : Nat) : State :=
  match s.blkChanges[i]? with
  | none => s
  | some c =>
    if s.wheel < c.e then s
    else
      let s := { s with blkChanges := s.blkChanges.eraseIdx i }
      let (s, status) := match changeBlock s c with
        | .ok t => (t, 0)
        | .error n => (s, n)
      match c.cmd with
      | some k => hostDoneAt s k.1 status c.e
      | none => s

def execBlockChangeEffect (s : State) : Out := .next (blockChangeEffect s s.arg.i)

/-! ## POWER and TELEM (R473) -/

/-- POWER: LIMIT from the next epoch. -/
def hostPower (s : State) (k : Nat) (w : Word) : State :=
  if 6000 ≤ w.toNat ∧ w.toNat ≤ 24000 then hostDone { s with power := { s.power with limitNext := some w.toNat } } k 0
  else hostDone s k 17

def execPower (s : State) : Out := .next (hostCmd s 0x15 fromPf fun s k a _ => hostPower s k a)

/-- The highest junction temperature of the towers in m°C (log 33). -/
def topTemp (s : State) : Nat := (List.range 160).foldl (fun m t => max m (Config.towerTemp (160 * s.wheel + t))) 0

/-- Write n bytes of host memory of a port. -/
def hostPut (s : State) (port a : Nat) (l : List Byte) : State := { s with hostMem := mPutBytes s.hostMem (2 ^ 64 * port + a) l }

/-- TELEM: 64 bytes; a VF also receives its own counter 5 (the layout is the model's, log 38). -/
def hostTelem (s : State) (k : Nat) (a : Word) : State :=
  let own := match vfCtx s s.arg.port s.arg.fn with
    | some c => rawNow s c 5
    | none => 0
  let l := natBytes 8 s.wheel ++ natBytes 8 s.power.reading ++ natBytes 8 (topTemp s) ++ natBytes 8 own ++ natBytes 32 0
  hostDone (hostPut s s.arg.port a.toNat l) k 0

def execTelem (s : State) : Out := .next (hostCmd s 0x16 fromAny fun s k a _ => hostTelem s k a)

/-! ## PATCH (R475) -/

/-- n bytes of a port's host memory. -/
def hostBytes (s : State) (port a n : Nat) : List Byte := mBytes s.hostMem (2 ^ 64 * port + a) n

/-- Install a patch, in order of ROUTINE. -/
def putPatch (l : List Patch) (p : Patch) : List Patch :=
  l.filter (fun x => x.routine < p.routine) ++ p :: l.filter fun x => p.routine < x.routine

/-- Whether a patch of a length may be installed: its LEN, its routine and version, room for it, and its signature. -/
def patchOk (s : State) (l : List Byte) (r v : Nat) : Bool :=
  let len := bytesNat ((l.drop 8).take 8)
  decide (l.length = 128 + len) && decide (16 ≤ len) && decide (len ≤ 65536) && len % 16 == 0 && Config.routineKnown r &&
  (s.patches.all fun p => p.routine != r || decide (p.version < v)) &&
  (decide (s.patches.length < 256) || s.patches.any fun p => p.routine == r) &&
  Config.sigOk l

/-- PATCH: the patch at a host address. -/
def hostPatch (s : State) (k : Nat) (a n : Word) : State :=
  if n.toNat < 144 ∨ 65664 < n.toNat then hostDone s k 17
  else if s.arg.ok then hostDone s k 21
  else
    let l := hostBytes s s.arg.port a.toNat n.toNat
    let w := bytesNat (l.take 8)
    let r := w % 2 ^ 16
    let v := w / 2 ^ 16 % 2 ^ 32
    if patchOk s l r v then
      hostDone { s with patches := putPatch s.patches ⟨r, v, (l.drop 64).take (n.toNat - 128)⟩ } k 0
    else hostDone s k 17

def execPatch (s : State) : Out := .next (hostCmd s 0x17 fromPf0 hostPatch)

/-! ## ATTEST (R476) -/

/-- Exactly n bytes of a list that a free value gives. -/
def exactBytes (n : Nat) (l : List Byte) : List Byte := natBytes n (bytesNat l)

def sha (l : List Byte) : List Byte := exactBytes 32 (Config.sha256 l)

/-- The patch table as bytes, in order of ROUTINE (the layout is the model's, log 38). -/
def patchBytes (l : List Patch) : List Byte :=
  l.flatMap fun p => natBytes 8 (p.routine + p.version * 2 ^ 16) ++ natBytes 8 p.code.length ++ p.code

/-- The report up to the signature. -/
def attestBody (s : State) (ctx : Option Nat) (nonce : List Byte) : List Byte :=
  let key := exactBytes 64 Config.identity
  let blk := match ctx with
    | some c => sha ((getCtx s c).blk.toList.flatMap fun w => natBytes 8 w.toNat)
    | none => natBytes 32 0
  sha key ++ key ++ natBytes 8 Config.romVersion.toNat ++ sha (patchBytes s.patches) ++ blk ++ nonce ++ natBytes 8 s.wheel ++
    natBytes 16 0

/-- ATTEST: the report of 288 bytes over the nonce at a host address. -/
def hostAttest (s : State) (k : Nat) (a b : Word) : State :=
  if s.arg.ok then hostDone s k 21
  else
    let body := attestBody s (vfCtx s s.arg.port s.arg.fn) (hostBytes s s.arg.port a.toNat 32)
    hostDone (hostPut s s.arg.port b.toNat (body ++ exactBytes 64 (Config.sign body))) k 0

def execAttest (s : State) : Out := .next (hostCmd s 0x18 fromAny hostAttest)

/-! ## SERVICE (R477) -/

def swKind (w : Word) : Nat := bitsAt w 0 4
def swTower (w : Word) : Nat := bitsAt w 8 8
def swX (w : Word) : Nat := bitsAt w 16 4
def swY (w : Word) : Nat := bitsAt w 20 3
def swEdge (w : Word) : Nat := bitsAt w 24 2

/-- Whether a service word keeps its fields: those that its kind does not use are zero. -/
def serviceOk (w : Word) : Bool :=
  let used : Word := match swKind w with
    | 1 | 2 => 0x7FFF0F
    | 3 => 0x300FF0F
    | 4 => 0xFF0F
    | _ => 0
  w &&& ~~~used == 0 && decide (swTower w < 160) && decide (swX w ≤ 8)

/-- A service command of a kind; the first kind also answers what is no kind. -/
def serviceCmd (s : State) (kind : Nat) (f : State → Nat → Word → Word → State) : State :=
  hostCmd s 0x19 fromPf fun s k a b =>
    if serviceOk a then (if swKind a = kind then f s k a b else s)
    else if swKind a = kind ∨ (kind = 1 ∧ (swKind a = 0 ∨ 4 < swKind a)) then hostDone s k 17
    else s

/-- A core that awaits a spare which is not there becomes absent (R138). -/
def dropPending (s : State) (die row : Nat) : State :=
  if spareFree s die row then s
  else modDie s die fun d => { d with absent := ((List.range 8).map (8 * row + ·)).foldl (fun l c =>
    if (getCore s (coreKey die c)).quarantined then setIns l c else l) d.absent }

/-- Quarantine of a physical core (R137, R138). -/
def quarantinePhys (s : State) (die x y : Nat) : State :=
  match archOf s die x y with
  | some c => coreQuarantine s die c
  | none => dropPending (modDie s die fun d => { d with bad := setIns d.bad (physNum x y) }) die y

def execServiceQuarantine (s : State) : Out :=
  .next (serviceCmd s 1 fun s k a _ => hostDone (quarantinePhys s (swTower a) (swX a) (swY a)) k 0)

/-- Whether a physical core is quarantined. -/
def physQuarantined (s : State) (die x y : Nat) : Bool :=
  (getDie s die).bad.contains (physNum x y) || (archOf s die x y).any fun c => (getCore s (coreKey die c)).quarantined

/-- A physical core is in service again: as the row's unused spare where the map leaves it out, else at its coordinate. -/
def restorePhys (s : State) (die x y : Nat) : State :=
  let s := modDie s die fun d => { d with bad := setDel d.bad (physNum x y) }
  match archOf s die x y with
  | none => s
  | some c => modDie (setCore s (coreKey die c) Core.reset) die fun d => { d with absent := setDel d.absent c }

/-- The n-th test of a physical core. -/
def retest (s : State) (k : Nat) (a : Word) : State :=
  let die := swTower a
  let p := physNum (swX a) (swY a)
  if !physQuarantined s die (swX a) (swY a) then hostDone s k 17
  else
    let n := mapGet 0 (getDie s die).tests p
    let s := modDie s die fun d => { d with tests := mapSet d.tests p (n + 1) }
    if Config.selfTest die (swX a) (swY a) n then hostDone (restorePhys s die (swX a) (swY a)) k 0 else hostDone s k 20

def execServiceRetest (s : State) : Out := .next (serviceCmd s 2 fun s k a _ => retest s k a)

/-! ## Retraining an edge (R478) -/

def modEdge (s : State) (die e : Nat) (f : Edge → Edge) : State :=
  modDie s die fun d => { d with edges := vset d.edges e (f (vget d.edges e Edge.reset)) }

/-- The contexts with an open circuit over one of some links. -/
def linkCtxs (s : State) (links : List Nat) : List Nat :=
  ((s.circuits.filter fun c => circOpen c.2 s.wheel && c.2.held.any fun h => links.contains (h / 1024)).map (·.2.ctx)).dedup

/-- Source 3 becomes pending in contexts. -/
def notifyAll (s : State) (l : List Nat) : State := l.foldl notifyCtx s

/-- The edge that a function's command waits for, until the boundary at which its circuits are suspended. -/
def edgeWaiting (s : State) (k : Nat) : Option (Nat × Nat) :=
  s.dies.findSome? fun d => ((List.range 4).find? fun e =>
    let x := vget d.2.edges e Edge.reset
    x.cmd == some k && !x.begun && (match x.suspended with
      | some w => decide (w ≤ s.wheel)
      | none => false)).map fun e => (d.1, e)

/-- The first half of SERVICE_RETRAIN: the next boundary is E. -/
def retrainAsk (s : State) (k : Nat) (a : Word) : State :=
  let x := vget (getDie s (swTower a)).edges (swEdge a) Edge.reset
  if x.suspended.isSome then hostDone s k 20
  else modFunc (modEdge s (swTower a) (swEdge a) fun x => { x with suspended := some ((revNow s + 1) * s.W), cmd := some k }) k
    fun f => { f with busy := true }

/-- The second half, at E: the circuits over the edge are suspended, and their contexts are told. -/
def retrainBegin (s : State) (die e : Nat) : State :=
  notifyAll (modEdge s die e fun x => { x with begun := true }) (linkCtxs s (edgeLinks (dieX die) (dieY die) e))

/-- SERVICE_RETRAIN: the command, and then its suspension at E. -/
def serviceRetrain (s : State) : State :=
  match edgeWaiting s (funcKey s.arg.port s.arg.fn) with
  | some (die, e) => retrainBegin s die e
  | none => serviceCmd s 3 fun s k a _ => retrainAsk s k a

def execServiceRetrain (s : State) : Out := .next (serviceRetrain s)

/-- RETRAIN_COMPLETE: one revolution after E the circuits resume, or the edge has failed and every core of its tower goes (log 34). -/
def retrainComplete (s : State) (die e : Nat) : State :=
  let x := vget (getDie s die).edges e Edge.reset
  match x.suspended with
  | none => s
  | some w =>
    if !x.begun ∨ x.failed = true ∨ s.wheel < w + s.W then s
    else
      let s := if Config.retrainOk (4 * die + e) w then modEdge s die e fun x => { x with suspended := none, begun := false, cmd := none }
        else (List.range 64).foldl (fun s c => removeCore s die c)
          (modEdge s die e fun x => { x with failed := true, cmd := none })
      match x.cmd with
      | some k => hostDone s k 0
      | none => s

def execRetrainComplete (s : State) : Out := .next (retrainComplete s s.arg.die s.arg.i)

/-! ## Retiring a dome (R479) -/

/-- SERVICE_RETIRE_DOME: checked now, and done at E. -/
def serviceRetireDome (s : State) (k : Nat) (a b : Word) : State :=
  if 256 ≤ b.toNat then hostDone s k 17
  else match retireDome s b.toNat (swTower a) with
    | .error n => hostDone s k n
    | .ok _ => deferChange s k { BlockChange.none with ctx := b.toNat, dome := some (swTower a) }

def execServiceRetireDome (s : State) : Out := .next (serviceCmd s 4 serviceRetireDome)

end Sys2Proof.Machine
end

