-- ==== Sys2Proof/Machine/Fabric.lean ====
section
/-! DEFINITION. The fabric: wheel offsets, cells, lanes shed and retrained, and ports that fail (spec/26 R480 to R490). -/

namespace Sys2Proof.Machine

set_option Elab.async false

def getPort (s : State) (p : Nat) : FabPort := mapGet FabPort.reset s.ports p
def modPort (s : State) (p : Nat) (f : FabPort → FabPort) : State := { s with ports := mapSet s.ports p (f (getPort s p)) }

/-- The link of a port among the links of circuits. -/
def portLinkNo (p : Nat) : Nat := 2 ^ 21 + p

/-- Whether an open circuit crosses a link. -/
def onLink (s : State) (link : Nat) (c : Circuit) : Bool := circOpen c s.wheel && c.held.any fun h => h / 1024 == link

/-- The links of all ports. -/
def portLinks : List Nat := (List.range 32).map portLinkNo

/-- The next revolution boundary. -/
def nextBoundary (s : State) : Nat := (revNow s + 1) * s.W

/-! ## Wheel offset (R482, R483) -/

/-- PTP_MESSAGE: the keep learns the offset of its wheel in ps and steers its clock; the wheel count neither steps back nor jumps. -/
def ptpMessage (s : State) (z : Int) : State :=
  { s with offs := z, offsBelow := if z.natAbs < 250 then some (s.offsBelow.getD s.wheel) else none }

def execPtpMessage (s : State) : Out := .next (ptpMessage s s.arg.z)

/-- PORT_OFFSET_SUSPEND: beyond 500 ps every port is suspended, and the contexts that hold a fabric circuit are told. -/
def portOffsetSuspend (s : State) : State :=
  if 500 < s.offs.natAbs ∧ s.offsSince.isNone = true then notifyAll { s with offsSince := some s.wheel } (linkCtxs s portLinks) else s

def execPortOffsetSuspend (s : State) : Out := .next (portOffsetSuspend s)

/-- Whether the offset has stayed below 250 ps for 16 revolutions. -/
def offsSettled (s : State) : Bool :=
  match s.offsBelow with
  | some w => decide (w + 16 * s.W ≤ s.wheel)
  | none => false

/-- PORT_OFFSET_RESUME. -/
def portOffsetResume (s : State) : State := if s.offsSince.isSome && offsSettled s then { s with offsSince := none } else s

def execPortOffsetResume (s : State) : Out := .next (portOffsetResume s)

/-- Whether the offset has kept the ports suspended for 2^20 revolutions. -/
def offsExpired (s : State) : Bool :=
  match s.offsSince with
  | some w => decide (w + 2 ^ 20 * s.W ≤ s.wheel)
  | none => false

/-! ## Cells (R480, R484, R489) -/

/-- The open circuit that a cell's CIRC and GEN name, with its first router input on this module. -/
def cellCircuit (s : State) (num gen : Nat) : Option (Nat × Hop) :=
  (s.circuits.find? fun c => circNum c.1 == num && c.2.gen % 2 ^ 16 == gen && c.2.mem.isNone && circOpen c.2 s.wheel && endpointMod c.2.src != s.modNo).bind
    fun c => (c.2.hops.find? fun h => h.off == 0).map fun h => (c.1, h)

/-- A cell's word leaves the first die router F slots after it left the module before. -/
def cellWord (s : State) (p key slot : Nat) (h : Hop) (b : Beat) : State :=
  let leave := (slot + (getPort s p).f + s.W - 1) % s.W
  { s with words := s.words ++ [⟨s.wheel + (leave + s.W - s.wheel % s.W) % s.W, false, 8 * h.router + h.dir, key, b, .unit, none⟩] }

/-- The module and granule of an access in another module that has not been answered. -/
def farGranule (x : Acc) : Option (Nat × Nat) :=
  match x.home with
  | .far m c => if x.done then none else some (m, c / 64)
  | _ => none

/-- The table entry that a walker reads in another module: its module and CPA (R285, R487). -/
def farEntry (s : State) (die : Nat) (r : Req) : Option (Nat × Nat) :=
  match r.stage with
  | .walking va n .sent far =>
    (match (walkVa s (getDie s die) r.ctx r.region r.mode va (Walk.start n far)).1 with
    | .need (.far m c) => some (m, c)
    | _ => none)
  | _ => none

/-- Another module answers a walker's read, or the accesses that lie in granules of a kind: by the bytes of a reply, or not at all, when a
table entry reads as not valid (R282, R489). -/
def answerFar (s : State) (die : Nat) (r : Req) (p : Nat × Nat → Bool) (data : Option Vec) : State :=
  match farEntry s die r, r.stage with
  | some (m, c), .walking va n _ far =>
    let e := (data.map fun v => v.toNat / 2 ^ (8 * (c % 64)) % 2 ^ 64).getD 0
    setReq s die { r with stage := .walking va n (.reply s.wheel) (far ++ [((m, c), e)]) }
  | _, _ =>
    let accs := r.accs.map fun x => if (farGranule x).any p then
        { x with data := (data.map fun v => v.toNat / 2 ^ (8 * (x.cpa % 64)) / 2 ^ x.bit % 2 ^ x.w).getD 0, done := true, bad := data.isNone }
      else x
    let s := if data.isNone && isWrite r.kind then notifyCtx s r.ctx else s
    settleReq s die { r with accs := accs, poisoned := r.poisoned || data.isNone } s.wheel

/-- A request of a tower that waits for another module. -/
def waitsFar (s : State) (die : Nat) (m : Option Nat) (r : Req) : Bool :=
  let here (k : Nat) : Bool := m.isNone || m == some k
  (isAccepted r && !isPerformed r && r.accs.any fun x => (farGranule x).any fun g => here g.1) || (farEntry s die r).any fun g => here g.1

/-- FABRIC_CELL_RECEIVE: a cell of a circuit, or with `circ` 65,536 and above the answer to request circ − 65,536 of the tower `gen`
(log 41). A cell whose CRC fails is lost. -/
def cellReceive (s : State) (p circ gen slot : Nat) (ok : Bool) (data : Vec) (env : BitVec 88) : State :=
  if !(getPort s p).up then s
  else
    let s := if ok then s else modPort s p fun x => { x with lostc := x.lostc + 1 }
    if 65536 ≤ circ then
      match findReq (getDie s gen) (circ - 65536) with
      | some r => if waitsFar s gen none r then answerFar s gen r (fun g => r.accs.findSome? farGranule == some g) (if ok then some data else none) else s
      | none => s
    else match cellCircuit s circ gen with
      | some (key, h) => if ok then cellWord s p key slot h ⟨data, env⟩ else lostBeat s key (bitsAt env 0 4)
      | none => s

def execFabricCellReceive (s : State) : Out :=
  .next (cellReceive s s.arg.port s.arg.n s.arg.die s.arg.i s.arg.ok s.arg.data s.arg.env)

/-! ## Ports that go down (R490) -/

/-- A module that no port reaches any longer loses its memory circuits; what waits on them is answered Poisoned. -/
def loseModule (s : State) (m : Nat) : State :=
  if (portTo s m).isSome then s
  else
    let s : State := { s with ctxs := s.ctxs.map fun c => (c.1, { c.2 with modules := c.2.modules &&& ~~~(word (2 ^ m)) }) }
    let s := ((s.circuits.filter fun c => (c.2.mem.any fun x => x.2 == 65536 + m) && circOpen c.2 s.wheel).map (·.1)).foldl closeMem s
    s.dies.foldl (fun s d => (d.2.reqs.filter (waitsFar s d.1 (some m))).foldl (fun s r => answerFar s d.1 r (fun g => g.1 == m) none) s) s

/-- At E the circuits over a port close, and their contexts are told. -/
def portClose (s : State) (p e : Nat) : State :=
  let ctxs := linkCtxs s [portLinkNo p]
  let keys := (s.circuits.filter fun c => c.2.mem.isNone && onLink s (portLinkNo p) c.2).map (·.1)
  let s := keys.foldl (fun s k => let s := closeAt s k e; { s with changes := s.changes ++ [⟨e, k, .close, none⟩] }) s
  notifyAll (loseModule s (getPort s p).peermod) ctxs

/-- PORT_DOWN: UP clears at once, and at the next boundary the port's circuits close. -/
def portDown (s : State) (p : Nat) : State :=
  match (getPort s p).failAt with
  | some (e, 0) => if e ≤ s.wheel then modPort (portClose s p e) p fun x => { x with failAt := none, suspended := false } else s
  | _ => if (getPort s p).up then modPort s p fun x => { x with up := false, failAt := some (nextBoundary s, 0), next := none } else s

def execPortDown (s : State) : Out := .next (portDown s s.arg.port)

/-! ## Lanes (R481, R488, R489) -/

/-- Slots from injection to the link of a circuit: a memory circuit's first link follows its agent at once. -/
def linkOff (s : State) (link : Nat) (c : Circuit) : Nat :=
  match (circLinks s c).find? fun l => l.1 == link with
  | some l => l.2
  | none => if link < 2 ^ 21 ∨ c.hops.isEmpty = true then 1 else hopsLmax c.hops - 1

/-- The injection slots that a circuit keeps with n lanes. -/
def keptSlots (s : State) (link n : Nat) (c : Circuit) : List Nat :=
  c.slots.filter fun i => decide ((i + linkOff s link c) % s.W < n * s.W / 8)

/-- One circuit shrinks; when that takes effect. -/
def shedCircuit (s : State) (key link n : Nat) : State × Nat :=
  let c := getCircuit s key
  let l := keptSlots s link n c
  if l.length = c.slots.length then (s, s.wheel)
  else if c.mem.isSome then
    (setCircuit s key { c with
      slots := l, held := c.held.filter fun h => l.any fun i => (i + linkOff s (h / 1024) c) % s.W == h % 1024 }, s.wheel)
  else
    let (s, e) := shrinkTo s key l
    ({ s with changes := s.changes ++ [⟨e, key, .slots l, none⟩] }, e)

/-- A port sheds to n lanes: every circuit over it shrinks, and the lanes stop at the first boundary after; none where a circuit would
be left with no slot. -/
def shed (s : State) (p n : Nat) : Option State :=
  let link := portLinkNo p
  let l := s.circuits.filter fun c => onLink s link c.2
  if l.any fun c => (keptSlots s link n c.2).isEmpty then none
  else
    let (s, e) := l.foldl (fun (a : State × Nat) c => let (s, e) := shedCircuit a.1 c.1 link n; (s, max a.2 e)) (s, s.wheel)
    some (modPort s p fun x => { x with next := some (n, (e / s.W + 1) * s.W) })

/-- The lanes of a port come into force at their boundary; a port that was suspended for them resumes. -/
def applyLanes (s : State) (p : Nat) : Option State :=
  match (getPort s p).next with
  | some (n, e) => if e ≤ s.wheel then some (modPort s p fun x => { x with lanes := n, next := none, suspended := false }) else none
  | none => none

/-- TGT_SHED: a write of TGT below LANES. -/
def tgtShed (s : State) (p n : Nat) : State :=
  match applyLanes s p with
  | some s => s
  | none =>
    let x := getPort s p
    if 1 ≤ n ∧ n < x.lanes then
      match shed s p n with
      | some s => modPort s p fun x => { x with tgt := n }
      | none => modPort s p fun x => { x with tgt := x.lanes }
    else s

def execTgtShed (s : State) : Out := .next (tgtShed s s.arg.port s.arg.n)

/-- TGT_RETRAIN: a write of TGT not below LANES; the added lanes are retrained at a boundary. -/
def tgtRetrain (s : State) (p n : Nat) : State :=
  match applyLanes s p with
  | some s => s
  | none =>
    let x := getPort s p
    if n ≤ 8 ∧ x.lanes ≤ n then
      modPort s p fun x => { x with tgt := n, next := if x.up ∧ x.lanes < n then some (n, nextBoundary s) else x.next }
    else s

def execTgtRetrain (s : State) : Out := .next (tgtRetrain s s.arg.port s.arg.n)

/-- LANE_FAILURE: at the next boundary the port is suspended and sheds to its working lanes; where that cannot be it goes down. -/
def laneFailure (s : State) (p : Nat) : State :=
  let x := getPort s p
  match x.failAt with
  | some (e, n + 1) =>
    if e ≤ s.wheel then
      let ctxs := linkCtxs s [portLinkNo p]
      let s := notifyAll (modPort s p fun x => { x with failAt := none, suspended := true }) ctxs
      match shed s p (n + 1) with
      | some s => s
      | none => portDown s p
    else if n = 0 then portDown (modPort s p fun x => { x with failAt := none }) p
    else modPort s p fun x => { x with failAt := some (e, n) }
  | some (_, 0) => s
  | none => if x.up then (if x.lanes ≤ 1 then portDown s p else modPort s p fun x => { x with failAt := some (nextBoundary s, x.lanes - 1) }) else s

def execLaneFailure (s : State) : Out := .next (laneFailure s s.arg.port)

end Sys2Proof.Machine
end

