-- ==== Sys2Proof/Machine/Lantern.lean ====
section
/-! DEFINITION. The lantern and its filter, the bell pulse, counter policies and the host's views (spec/24 R454 to R459, R463, R464). -/

namespace Sys2Proof.Machine

set_option Elab.async false

/-! ## Memory by CPA (R287) -/

/-- n bytes at a CPA of a context on this module; none where it has no home or is poisoned. -/
def cpaRead (s : State) (ctx a n : Nat) : Option Nat :=
  match homeOf s ctx s.modNo a with
  | .none => none
  | h => if homePoison s 0 h n then none else some (homeNat s 0 h n)

/-- Write n bytes at a CPA of a context; without a home nothing is written. -/
def cpaWrite (s : State) (ctx a n v : Nat) : State := homeWrite s 0 ctx (homeOf s ctx s.modNo a) n v

/-- Doublewords from a CPA up. -/
def cpaWords (s : State) (ctx a : Nat) : List Nat → State
  | [] => s
  | v :: l => cpaWords (cpaWrite s ctx a 8 v) ctx (a + 8) l

/-! ## Enabling a lantern (R456) -/

def getLantern (s : State) (die : Nat) : Lantern := (getDie s die).lantern
def modLantern (s : State) (die : Nat) (f : Lantern → Lantern) : State := modDie s die fun d => { d with lantern := f d.lantern }

/-- Fields of `lanblk` (R447). -/
def lanEn (l : Lantern) : Bool := bitAt l.lanblk 63
def lanCtx (l : Lantern) : Nat := bitsAt l.lanblk 48 8
def lanBlk (l : Lantern) : Nat := bitsAt l.lanblk 11 35 * 2048

/-- Whether the instruction at an index of a filter of n is valid (R457). -/
def filterWordOk (n i : Nat) (w : BitVec 32) : Bool :=
  match decodeLantern w with
  | .ok (.lanternBeq _ _ o) | .ok (.lanternBne _ _ o) | .ok (.lanternBltu _ _ o) | .ok (.lanternBgeu _ _ o) =>
    decide (1 ≤ o.toNat) && decide (i + o.toNat ≤ n)
  | .ok _ => true
  | .error _ => false

/-- The code of a block: n words from 0x400. -/
def readCode (s : State) (ctx blk : Nat) (n : Nat) : Option (List (BitVec 32)) :=
  allSome ((List.range n).map fun i => (cpaRead s ctx (blk + 0x400 + 4 * i) 4).map (BitVec.ofNat 32))

/-- The lantern after its block has been read; none where the block is invalid. -/
def readBlock (s : State) (l : Lantern) : Option Lantern :=
  let ctx := lanCtx l
  let a := lanBlk l
  match cpaRead s ctx a 8, cpaRead s ctx (a + 8) 8, cpaRead s ctx (a + 0x100) 8 with
  | some rbase, some rlen, some nins =>
    let rlen := rlen % 2 ^ 32
    let n := nins % 512
    if rlen = 0 ∨ n = 0 ∨ 256 < n then none
    else match readCode s ctx a n with
      | some code =>
        if (code.zipIdx).all fun x => filterWordOk n x.2 x.1 then
          some { l with rbase := rbase, rlen := rlen, widx := 0, lost := 0, counts := Vector.replicate 16 0, code := code }
        else none
      | none => none
  | _, _, _ => none

/-- WIDX, LOST and the counters go to the block. -/
def lanternWriteback (s : State) (die : Nat) : State :=
  let l := getLantern s die
  cpaWords s (lanCtx l) (lanBlk l + 0x10) (l.widx :: l.lost :: l.counts.toList.map (·.toNat))

/-- LANTERN_WRITEBACK: at every revolution boundary while the lantern runs. -/
def execLanternWriteback (s : State) : Out :=
  .next (if lanEn (getLantern s s.arg.die) then lanternWriteback s s.arg.die else s)

/-- LANTERN_ENABLE: a write of `lanblk` on a tower. -/
def lanternEnable (s : State) (t : Tid) (v : Word) : State :=
  let die := t.die
  let s := if lanEn (getLantern s die) && !bitAt v 63 then lanternWriteback s die else s
  let l := getLantern s die
  let err := l.lanblk &&& word (2 ^ 62)
  let base := v &&& 0x00FF3FFFFFFFF800
  if bitAt v 63 then
    let l := { l with agent := some t, lanblk := base }
    match readBlock s l with
    | some l => modLantern s die fun _ => { l with lanblk := base ||| word (2 ^ 63) }
    | none => modLantern s die fun _ => { l with lanblk := base ||| word (2 ^ 62) }
  else modLantern s die fun l => { l with agent := some t, lanblk := base ||| err }

def execLanternEnable (s : State) : Out := .next (lanternEnable s s.arg.t s.arg.v)

/-! ## One record through the filter (R455, R457) -/

/-- The core of a tower whose record the lantern takes next: the lowest that holds one. -/
def lanternCore (s : State) (die : Nat) : Option Nat :=
  ((List.range 64).map (coreKey die)).find? fun k => !(getCore s k).trace.isEmpty

/-- CTX of a record. -/
def recordCtx (r : List Word) : Nat := bitsAt (r.headD 0) 40 8

/-- LANTERN_FILTER: the lantern of a tower takes the oldest record of a core; one of its context starts a run of the filter. -/
def lanternFilter (s : State) (die : Nat) : State :=
  let l := getLantern s die
  if s.lanRun.isSome || !lanEn l then s
  else match lanternCore s die with
    | none => s
    | some k =>
      match (getCore s k).trace with
      | [] => s
      | r :: rest =>
        let s := modCore s k fun c => { c with trace := rest }
        if recordCtx r = lanCtx l then
          let s := if bitAt (r.headD 0) 36 then modLantern s die fun l => { l with lost := l.lost + 1 } else s
          { s with lanRun := some ⟨die, r, 0, Vector.replicate 16 0⟩ }
        else s

def execLanternFilter (s : State) : Out := .next (lanternFilter s s.arg.die)

/-- The run goes on at an index; past the last instruction it ends as by DROP. -/
def filterGo (s : State) (f : FilterRun) (i : Nat) : State :=
  { s with lanRun := if i < (getLantern s f.die).code.length then some { f with index := i } else none }

/-- An instruction of the filter at work on a run. -/
def onFilter (s : State) (f : FilterRun → State) : Out :=
  .next (match s.lanRun with
    | some r => f r
    | none => s)

def fGet (f : FilterRun) (a : BitVec 4) : Word := vget f.f a.toNat 0

/-- An instruction that writes fD. -/
def filterSet (s : State) (d : BitVec 4) (v : FilterRun → Word) : Out :=
  onFilter s fun f => filterGo s { f with f := vset f.f d.toNat (v f) } (f.index + 1)

/-- A branch: forward by the offset where the comparison holds. -/
def filterBranch (s : State) (d a : BitVec 4) (off : BitVec 18) (c : Word → Word → Bool) : Out :=
  onFilter s fun f => filterGo s f (f.index + if c (fGet f d) (fGet f a) then off.toNat else 1)

def execLanternLdr (d _ : BitVec 4) (i : BitVec 18) (s : State) : Out := filterSet s d fun f => f.record.getD i.toNat 0
def execLanternLdi (d _ : BitVec 4) (i : BitVec 18) (s : State) : Out := filterSet s d fun _ => i.setWidth 64
def execLanternAdd (d a b : BitVec 4) (s : State) : Out := filterSet s d fun f => fGet f a + fGet f b
def execLanternAnd (d a b : BitVec 4) (s : State) : Out := filterSet s d fun f => fGet f a &&& fGet f b
def execLanternOr (d a b : BitVec 4) (s : State) : Out := filterSet s d fun f => fGet f a ||| fGet f b
def execLanternXor (d a b : BitVec 4) (s : State) : Out := filterSet s d fun f => fGet f a ^^^ fGet f b
def execLanternShr (d a : BitVec 4) (i : BitVec 18) (s : State) : Out := filterSet s d fun f => fGet f a >>> i.toNat
def execLanternShl (d a : BitVec 4) (i : BitVec 18) (s : State) : Out := filterSet s d fun f => fGet f a <<< i.toNat
def execLanternAndi (d a : BitVec 4) (i : BitVec 18) (s : State) : Out := filterSet s d fun f => fGet f a &&& i.setWidth 64
def execLanternBeq (d a : BitVec 4) (i : BitVec 18) (s : State) : Out := filterBranch s d a i (· == ·)
def execLanternBne (d a : BitVec 4) (i : BitVec 18) (s : State) : Out := filterBranch s d a i (· != ·)
def execLanternBltu (d a : BitVec 4) (i : BitVec 18) (s : State) : Out := filterBranch s d a i fun x y => decide (x.toNat < y.toNat)
def execLanternBgeu (d a : BitVec 4) (i : BitVec 18) (s : State) : Out := filterBranch s d a i fun x y => decide (y.toNat ≤ x.toNat)

/-- KEEP: the record goes to the ring, and the run ends. -/
def filterKeep (s : State) (f : FilterRun) : State :=
  let l := getLantern s f.die
  let s := cpaWords s (lanCtx l) (l.rbase + 32 * (l.widx % l.rlen)) (f.record.map (·.toNat))
  { modLantern s f.die fun l => { l with widx := l.widx + 1 } with lanRun := none }

def execLanternKeep (_ _ : BitVec 4) (_ : BitVec 18) (s : State) : Out := onFilter s fun f => filterKeep s f

/-- DROP: the run ends. -/
def execLanternDrop (_ _ : BitVec 4) (_ : BitVec 18) (s : State) : Out := onFilter s fun _ => { s with lanRun := none }

/-- CNT. -/
def execLanternCnt (_ _ : BitVec 4) (i : BitVec 18) (s : State) : Out :=
  onFilter s fun f => filterGo (modLantern s f.die fun l => { l with
    counts := vset l.counts i.toNat (vget l.counts i.toNat 0 + 1) }) f (f.index + 1)

/-- The lantern stops a thread, with WHY 6 (R451). -/
def lanternStop (s : State) (u : Tid) : State :=
  let th := getThread s u
  match th.run with
  | .running => stopThreadNow s u 6 0
  | .parked => if th.inflight.isSome then modThread s u fun th => { th with dbg := { th.dbg with stopReq := some 6 } } else stopThreadNow s u 6 0
  | _ => s

/-- TRIG: 0 stops the record's thread; 1 makes source 4 pending in the thread that wrote `lanblk`. -/
def filterTrig (s : State) (f : FilterRun) (i : Nat) : State :=
  if i = 0 then
    match tidOf (word (bitsAt (f.record.headD 0) 0 18)) with
    | some u => if hasThread (getThread s u) ∧ (getThread s u).ctx = recordCtx f.record then lanternStop s u else s
    | none => s
  else match (getLantern s f.die).agent with
    | some u => if hasThread (getThread s u) then modThread s u fun th => setPending th 4 else s
    | none => s

def execLanternTrig (_ _ : BitVec 4) (i : BitVec 18) (s : State) : Out :=
  onFilter s fun f => filterGo (filterTrig s f i.toNat) f (f.index + 1)

/-! ## The bell pulse (R458, R459) -/

/-- BELL_ARM: a write of `bell`. -/
def bellArm (s : State) (t : Tid) (v : Word) : State :=
  if bitAt s.bell 63 then s
  else
    let rev := max (bitsAt v 0 40) (revNow s + 64) % 2 ^ 40
    if bitAt v 63 then { s with bell := word (2 ^ 63 + rev), bellCtx := (getThread s t).ctx }
    else { s with bell := (s.bell &&& word (2 ^ 62)) ||| word rev }

def execBellArm (s : State) : Out := .next (bellArm s s.arg.t s.arg.v)

/-- STATE of a slot in a bell record. -/
def bellState (th : Thread) : Nat :=
  match th.run with
  | .vacant => 0
  | .running => 1
  | .stopped => 2
  | .quarantined => 3
  | .parked => 16 + (parkedCause th).getD 0

/-- The entry of a slot. -/
def bellEntry (th : Thread) : Nat := bellState th + bitsAt th.pc 4 24 * 2 ^ 8

/-- The cores of a tower with a slot that is not Vacant. -/
def bellCores (s : State) (die : Nat) : List Nat :=
  (List.range 64).filter fun c => (getCore s (coreKey die c)).slots.toList.any fun th => th.run != .vacant

/-- Five doublewords of a core. -/
def bellCore (c : Core) : List Nat :=
  ((c.slots.toList.find? fun th => th.run != .vacant).map (·.ctx)).getD 0 ::
    (List.range 4).map fun i => bellEntry (slotOf c (2 * i)) + bellEntry (slotOf c (2 * i + 1)) * 2 ^ 32

/-- The section of a tower. -/
def bellSection (s : State) (die : Nat) : List Nat :=
  die :: (bellCores s die).foldl (fun m c => m + 2 ^ c) 0 :: (bellCores s die).flatMap fun c => bellCore (getCore s (coreKey die c))

/-- The bell record as doublewords. -/
def bellRecord (s : State) (rev : Nat) : List Nat :=
  let towers := (List.range 160).filter fun die => !(bellCores s die).isEmpty
  [rev * s.W, towers.length, 0, 0, 0, 0, 0, 0] ++ towers.flatMap (bellSection s)

/-- BELL_PULSE: the first rotation at or after REV · W. -/
def bellPulse (s : State) : State :=
  let rev := bitsAt s.bell 0 40
  if bitAt s.bell 63 && decide (rev * s.W ≤ s.wheel) then
    { cpaWords s s.bellCtx s.bellbuf.toNat (bellRecord s rev) with bell := word (2 ^ 62 + rev) }
  else s

def execBellPulse (s : State) : Out := .next (bellPulse s)

/-! ## Counter policies and views (R463, R464) -/

/-- CNTPOL_WRITE: the policy of a context, from the next revolution boundary; its world epoch advances. -/
def cntpolWrite (s : State) (v : Word) : State :=
  let ctx := bitsAt v 56 8
  modCtx { s with cntpolSel := ctx } ctx fun c => { c with cntpolNext := some (v &&& 0x0000FF00003FFFFF), epoch := c.epoch + 1 }

def execCntpolWrite (s : State) : Out := .next (cntpolWrite s s.arg.v)

/-- View k of a function: that of its context; a physical function has none and reads 0. -/
def fnView (s : State) (port fn k : Nat) : Nat :=
  match vfCtx s port fn with
  | some c => viewOf s c k
  | none => 0

def fnEpoch (s : State) (port fn : Nat) : Nat :=
  match vfCtx s port fn with
  | some c => (getCtx s c).epoch
  | none => 0

/-- What a read of LO gives. -/
def viewLoValue (s : State) (port fn k : Nat) : Nat := fnView s port fn k % 2 ^ 32

/-- VIEW_LO_READ latches the high bits of the view with the world epoch. -/
def viewLoRead (s : State) (port fn k : Nat) : State :=
  onFunc s port fn fun f => { f with latch := vset f.latch k (some (fnView s port fn k / 2 ^ 32 % 2 ^ 31, fnEpoch s port fn)) }

def execViewLoRead (s : State) : Out := .next (viewLoRead s s.arg.port s.arg.fn s.arg.i)

/-- What a read of HI gives: the latched bits of the same epoch, or the present ones with TORN. -/
def viewHiValue (s : State) (port fn k : Nat) : Nat :=
  match vget (getFunc s (funcKey port fn)).latch k none with
  | some (v, e) => if e = fnEpoch s port fn then v else 2 ^ 31 + fnView s port fn k / 2 ^ 32 % 2 ^ 31
  | none => 2 ^ 31 + fnView s port fn k / 2 ^ 32 % 2 ^ 31

/-- VIEW_HI_READ: the read gives `viewHiValue` and changes nothing. -/
def execViewHiRead (s : State) : Out := .next s

end Sys2Proof.Machine
end

