-- ==== Sys2Proof/Machine/MatrixUnit.lean ====
section
/-! DEFINITION. The power gate and the matrix unit at work: grants, admission, the two engines and what each command does when it
retires (spec/07 R135; spec/11 R226 to R239, R246, R247). A command's whole effect is made at its retirement (log 18). -/

namespace Sys2Proof.Machine

set_option Elab.async false

/-! ## The power gate (R135, R227) -/

def gateHead (c : Core) : Option GateReq := c.gate.find? fun g => !g.granted

/-- Grant the request at the head of the gate's order. -/
def grantHead (c : Core) : Core :=
  match gateHead c with
  | none => c
  | some h =>
    { c with
      heavy := if h.kind = .plain then c.heavy else c.heavy + 1
      gate := c.gate.map fun g => if g = h then { g with granted := true } else g }

/-- A request of a thread that no longer waits at step 4 goes (R135). -/
def staleGate (c : Core) (g : GateReq) : Bool :=
  match g.slot with
  | some i => (slotOf c i).run != .parked || (slotOf c i).park.isNone
  | none => false

/-- Whether a core's unit admits nothing: its context is at a switch, or not resumed (R248, R421). -/
def coreFrozen (s : State) (c : Core) : Bool :=
  c.held || c.slots.toList.any fun th => hasThread th && ctxFrozen s th.ctx th.region

/-- LEAVE_GRANT: the oldest request is of a thread and asks leave, and the gate grants it. -/
def leaveGrant (s : State) (die core : Nat) : State :=
  let c := getCore s (coreKey die core)
  match gateHead c with
  | some h =>
    if staleGate c h then setCore s (coreKey die core) (dropGate c fun g => g == h)
    else if h.slot.isSome ∧ h.kind ≠ .plain ∧ gateOpen c h.kind = true ∧ coreFrozen s c = false then setCore s (coreKey die core) (grantHead c)
    else s
  | none => s

def execLeaveGrant (s : State) : Out := .next (leaveGrant s s.arg.die s.arg.unit)

/-- MATRIX_COMMAND_ADMIT: the oldest request is of a local command without leave, which its thread then makes, or of a remote
command, which joins the queue (R227, R246). -/
def matrixAdmit (s : State) (die core : Nat) : State :=
  let k := coreKey die core
  let c := getCore s k
  match gateHead c with
  | none => s
  | some h =>
    if !gateOpen c h.kind || coreFrozen s c then s
    else match h.slot with
      | some _ => if h.kind = .plain then setCore s k (grantHead c) else s
      | none => if (c.gate.takeWhile fun g => g != h).any (fun g => !notAhead h.kind g) then s else
        match c.remote.find? fun m => m.id == h.id with
        | none => setCore s k { c with gate := c.gate.filter fun g => !(g.slot.isNone && g.id == h.id) }
        | some m =>
          setCore s k (admitCmd { c with
            remote := c.remote.filter fun x => x.id != m.id
            gate := c.gate.filter fun g => !(g.slot.isNone && g.id == h.id)
            heavy := if m.kind = .mma then c.heavy + 1 else c.heavy } m)

def execMatrixCommandAdmit (s : State) : Out := .next (matrixAdmit s s.arg.die s.arg.unit)

/-! ## Beginning (R228) -/

/-- Whether a command runs on the loader. -/
def onLoader (m : MCmd) : Bool := m.kind == .mldb

/-- Core cycles of a command (R228). -/
def mCycles (m : MCmd) : Nat :=
  match m.kind with
  | .mldb => ceilDiv (bBytes m.rcd m.rank) 256 + 8
  | .mma =>
    let ma := Nat.min 128 (ceilDiv m.m 8 * 8)
    ceilDiv (ma * ceilDiv m.k 32 * ceilDiv m.n 16 * rWidth m.rcd) 64 + 8
  | .vacczr => if m.t = .pair then 32 else 16

/-- The command that an engine may begin now: its first that has not begun, with nothing of its own running and no earlier command of
the other engine on one of its banks. -/
def mBeginning (c : Core) (ld : Bool) : Option MCmd :=
  match c.mq.find? fun m => onLoader m == ld with
  | none => none
  | some m =>
    if m.ends.isSome || m.hold.isSome then none
    else if (c.mq.takeWhile fun x => x.id != m.id).any fun x => onLoader x != ld && x.bm &&& m.bm != 0 then none
    else some m

/-- MATRIX_COMMAND_BEGIN. -/
def matrixBegin (s : State) (die core : Nat) (ld : Bool) : State :=
  let k := coreKey die core
  let c := getCore s k
  match mBeginning c ld with
  | none => s
  | some m =>
    setCore s k { c with mq := c.mq.map fun x =>
      if x.id = m.id then { x with ends := some (s.wheel + ceilDiv (mCycles m * s.slotsPerRotation) 8) } else x }

def execMatrixCommandBegin (s : State) : Out := .next (matrixBegin s s.arg.die s.arg.unit s.arg.ok)

/-! ## What commands do (R229 to R234, R237 to R239) -/

/-- Place of byte b of a tile among the banks of a bank set. -/
def bankPlace (bm : BitVec 4) (b : Nat) : Nat :=
  (((List.range 4).filter fun j => bitAt bm j)[b / 65536]?).getD 0 * 65536 + b % 65536

/-- The pattern of an element of a record at its place in TCM. -/
def elemPat (m : Memory) (w : Nat) (p : Place) : Nat := mNat m p.addr (elemBytes w) / 2 ^ p.bit % 2 ^ w

/-- Bytes of the elements of a B tile; its scales follow them (log 18). -/
def bElemBytes (k n w : Nat) : Nat := ceilDiv (k * n * w) 8

/-- The loader copies element e of B to the banks; each group of 32 consecutive k of a column meets one scale, that of the group's first
element (R147, log 112). -/
def loadElem (m : MCmd) (c : Core) (e : Nat) : Core :=
  let w := rWidth m.rcd
  match elemAt m.rcd m.rank e with
  | .at_ p i0 row =>
    let a := bankPlace m.bm (e * w / 8)
    let old := mNat c.bankMem a (elemBytes w)
    let bit := e * w % 8
    let v := elemPat c.tcm w p
    let c := bankPut c a (elemBytes w) (old - old / 2 ^ bit % 2 ^ w * 2 ^ bit + v * 2 ^ bit)
    if tyM (rTy m.rcd) ∧ e % m.k % 32 = 0 then
      bankPut c (bankPlace m.bm (bElemBytes m.k m.n w + e % m.k / 32 + ceilDiv m.k 32 * (e / m.k))) 1
        (mGet c.tcm (scaleAddr m.rcd i0 row)).toNat
    else c
  | _ => c

/-- B[k][n] of a loaded tile: its pattern and scale. -/
def bElem (c : Core) (m : MCmd) (bty : Ty) (k n : Nat) : Nat × Nat :=
  let w := tyWidth bty
  let e := k + m.k * n
  (mNat c.bankMem (bankPlace m.bm (e * w / 8)) (elemBytes w) / 2 ^ (e * w % 8) % 2 ^ w,
    (mGet c.bankMem (bankPlace m.bm (bElemBytes m.k m.n w + k / 32 + ceilDiv m.k 32 * n))).toNat)

/-- The scale of the group of 32 consecutive k of A[r] that holds k: that of the group's first element (R147, log 112). -/
def aScale (c : Core) (m : MCmd) (r k : Nat) : Nat :=
  match elemAt m.rcd m.rank (r * m.k + k / 32 * 32) with
  | .at_ _ i0 row => (mGet c.tcm (scaleAddr m.rcd i0 row)).toNat
  | _ => 0

/-- A[r][k]: its pattern and scale; a pad reads the pad value, a null row nothing. -/
def aElem (c : Core) (m : MCmd) (r k : Nat) : Option (Nat × Nat) :=
  match elemAt m.rcd m.rank (r * m.k + k) with
  | .at_ p _ _ => some (elemPat c.tcm (rWidth m.rcd) p, if tyM (rTy m.rcd) then aScale c m r k else 0)
  | .pad => some (padOf m.rcd, 0)
  | .null => none

/-- The value of an operand element with its scale (R147). -/
def opValue (t : Ty) (x : Nat × Nat) : FV := if tyM t then scaled (valueOf t x.1) x.2 else valueOf t x.1

/-- One accumulator after the products of a row and a column (R164, R233). -/
def accumulate (int : Bool) (at_ bt : Ty) (old : Nat) (ps : List ((Nat × Nat) × (Nat × Nat))) : Nat :=
  if int then wrapInt 32 (ps.foldl (fun a p => a + intValue at_ p.1.1 * intValue bt p.2.1) ((old : Int)))
  else
    (List.range (ceilDiv ps.length 32)).foldl (fun c g =>
      roundF fmt32 .rne false 0 (fAdd .rne (valueOf .f32 c)
        (groupSum (((ps.drop (32 * g)).take 32).map fun p => fMul (opValue at_ p.1) (opValue bt p.2))))) old

/-- The place of C[r][n] of a selector among the tile bytes (R226). -/
def cAddr (t : TileSel) (r n : Nat) : Nat :=
  match t with
  | .a0 => tileAddr 0 r n
  | .a1 => tileAddr 1 r n
  | .pair => tileAddr (n / 128) r (n % 128)

/-- One row of an `mma`. -/
def mmaRow (m : MCmd) (c : Core) (r : Nat) : Core :=
  let at_ := rTy m.rcd
  let bt := (tyOf m.ty).getD .f32
  let int := pairInt (rType m.rcd) m.ty
  match (List.range m.k).foldr (fun k acc => match aElem c m r k, acc with
    | some x, some l => some (x :: l)
    | _, _ => none) (some []) with
  | none => c
  | some row =>
    { c with tiles := (List.range m.n).foldl (fun t n =>
        let a := cAddr m.t r n
        mPut t a 4 (accumulate int at_ bt (mNat t a 4) ((row.zipIdx).map fun x => (x.1, bElem c m bt x.2 n)))) c.tiles }

/-- `vacczr` clears its tiles. -/
def clearTile (m : Memory) (t : Nat) : Memory := m.filter fun x => !(t * 65536 ≤ x.1 && x.1 < (t + 1) * 65536)

/-- The effect of a command on its core. -/
def runCmd (c : Core) (m : MCmd) : Core :=
  match m.kind with
  | .mldb => (List.range (m.k * m.n)).foldl (loadElem m) c
  | .mma => (List.range m.m).foldl (mmaRow m) c
  | .vacczr => { c with tiles := (tilesOf m.t).foldl clearTile c.tiles }

/-! ## Retiring (R228, R246) -/

/-- The running command of an engine that has ended. -/
def mRetiring (s : State) (c : Core) (ld : Bool) : Option MCmd :=
  c.mq.find? fun m => onLoader m == ld && match m.ends with
    | some e => decide (e ≤ s.wheel)
    | none => false

/-- The completion fill of a remote command (R246). -/
def completionFill (s : State) (core : Nat) (m : MCmd) : State :=
  if m.creg = 0 then s
  else match replyCirc s core (handleCtx m.rhandle) m.rhandle with
    | some k => injectBeat s k (fillBeat (m.cval.setWidth 512) false m.creg) .unit
    | none => s

/-- MATRIX_COMMAND_RETIRE: the command's effect, its queue entry and its leave. -/
def matrixRetire (s : State) (die core : Nat) (ld : Bool) : State :=
  let k := coreKey die core
  let c := getCore s k
  match mRetiring s c ld with
  | none => s
  | some m =>
    let c := runCmd c m
    completionFill (setCore s k { c with
      mq := c.mq.filter fun x => x.id != m.id
      heavy := if m.kind = .mma then c.heavy - 1 else c.heavy }) k m

def execMatrixCommandRetire (s : State) : Out := .next (matrixRetire s s.arg.die s.arg.unit s.arg.ok)

/-- MATRIX_SCRUB: the idle unit reads every bank and tile word and corrects what it finds; a correction has no architectural effect
(R136, R247). -/
def execMatrixScrub (s : State) : Out := .next s

end Sys2Proof.Machine
end

