-- ==== Sys2Proof/Machine/NetEvents.lean ====
section
/-! DEFINITION. The events of circuits and words (spec/17, spec/10 R211 to R219, spec/11 R245, R246). What an event acts on stands in
State.arg (log 3): `n` a circuit's key, `i` the place of a word or of a configuration beat, `t` a thread, `unit` a port of it. An
event whose condition does not hold has no effect (log 16). -/

namespace Sys2Proof.Machine

set_option Elab.async false

/-- INJECT of the circuit under key n (R348). -/
def execInject (s : State) : Out := .next (injectStep s s.arg.n)

/-- WORD_FORWARD of word i (R342, R343). -/
def execWordForward (s : State) : Out := .next (wordForward s s.arg.i)

/-- MARKER_PHASE_STEP of word i (R355). -/
def execMarkerPhaseStep (s : State) : Out := .next (markerStep s s.arg.i)

/-- QUEUE_BEAT: word i reaches its receive ports (R213 to R215, R351). -/
def execQueueBeat (s : State) : Out := .next (queueBeatArrive s s.arg.i)

/-- FILL: word i acts on a register (R128, R211, R351). -/
def execFill (s : State) : Out := .next (fillArrive s s.arg.i)

/-- WINDOW_BEAT: word i is written in TCM (R219, R351). -/
def execWindowBeat (s : State) : Out := .next (windowArrive s s.arg.i)

/-- TAG_WRITE: word i writes a tag word (R219, R351). -/
def execTagWrite (s : State) : Out := .next (tagArrive s s.arg.i)

/-- MATRIX_COMMAND: word i is decided at its target (R246). -/
def execMatrixCommand (s : State) : Out := .next (matrixArrive s s.arg.i)

/-- COMMAND_REPLY: word i reaches the `mcmd` that waits for it (R245). -/
def execCommandReply (s : State) : Out := .next (replyArrive s s.arg.i)

/-- MCMD_TIMEOUT of a thread's `mcmd`, or its end by the close of its circuit (R245). -/
def execMcmdTimeout (s : State) : Out := .next (mcmdTimeout (mcmdClosed s s.arg.t) s.arg.t)

/-- CONFIG_BEAT: configuration beat i moves, or is delivered (R339, R364). -/
def execConfigBeat (s : State) : Out := .next (configBeat s s.arg.i)

/-- RECEIVE_PORT_CLOSE_UNBIND of port `unit` of a thread (R362). -/
def execReceivePortCloseUnbind (s : State) : Out := .next (receiveUnbind s s.arg.t s.arg.unit)

end Sys2Proof.Machine
end

