-- ==== Sys2Proof/Machine/Power.lean ====
section
/-! DEFINITION. Power-on, frequency levels, rails, the power budget tree and telemetry (spec/25 R465 to R474; spec/17 R338, R341). -/

namespace Sys2Proof.Machine

set_option Elab.async false

/-! ## Power-on (R474) -/

/-- Whether W is one of the values the keep may set (R338). -/
def wheelSizeOk (w : Nat) : Bool := decide (64 ≤ w) && decide (w ≤ 1024) && w % 16 == 0

/-- The cores of one row that fail the self-test at power-on (R138, R474). -/
def rowFails (die y : Nat) : List Nat := (List.range 9).filter fun x => !Config.selfTest die x y 0

/-- A row takes its map from the self-test: the first failed core gives way to a sound spare, the others are absent (R138). -/
def bootRow (s : State) (die y : Nat) : State :=
  let l := rowFails die y
  if l.isEmpty then s
  else
    let hole := if l.contains 8 then 8 else l.headD 8
    let lost := (l.filter (· ≠ hole)).map fun x => 8 * y + (if x < hole then x else x - 1)
    let s := modDie s die fun d => { d with
      bad := l.foldl (fun b x => setIns b (physNum x y)) d.bad
      absent := lost.foldl setIns d.absent }
    let s := if hole = 8 then s else { s with shifted := mapSet s.shifted (8 * die + y) hole }
    lost.foldl (fun s c => modCore s (coreKey die c) deadCore) s

/-- A fabric port as its training leaves it: [0] UP, [6:1] PEERMOD, [11:7] PEERPORT, [15:12] LANES of 16 bits for each port (log 35). -/
def bootPort (v : Vec) (p : Nat) : FabPort :=
  let lanes := Nat.min 8 (bitsAt v (16 * p + 12) 4)
  if bitAt v (16 * p) ∧ 1 ≤ lanes then
    { FabPort.reset with up := true, peermod := bitsAt v (16 * p + 1) 6, peerport := bitsAt v (16 * p + 7) 5, lanes := lanes,
                         f := Config.pathDelay p + 24 }
  else FabPort.reset

/-- POWER_ON: the six steps, once: edges, domes, self-tests, the wheel with W = `n` at the count `i` in module `unit`, links, commands. -/
def powerOn (s : State) (n i modNo : Nat) (ports : Vec) : State :=
  if s.boot ≠ 0 ∨ wheelSizeOk n = false ∨ 64 ≤ modNo then s
  else
    let s := (List.range 160).foldl (fun s die => (List.range 8).foldl (fun s y => bootRow s die y) s) s
    let l := ((List.range 32).filter fun p => (bootPort ports p).up).map fun p => (p, bootPort ports p)
    { s with W := n, wheel := i, modNo := modNo, ports := l, telemAt := i + 2000000, boot := 6 }

def execPowerOn (s : State) : Out := .next (powerOn s s.arg.n s.arg.i s.arg.unit s.arg.data)

/-- LANE_REPAIR: a UCIe module replaces a lane by a spare one; nothing a program sees changes (R341). -/
def execLaneRepair (s : State) : Out :=
  .next (modEdge s s.arg.die s.arg.unit fun x => { x with repaired := setIns x.repaired s.arg.i })

/-! ## Levels, votes and rails (R466, R469) -/

/-- V(L) in mV. -/
def levelMv (l : Nat) : Nat := 550 + 25 * (l - 6)

/-- Fields of `fcmd` (R467). -/
def fArm (w : Word) : Bool := bitAt w 63
def fLevel (w : Word) : Nat := bitsAt w 40 5
def fRev (w : Word) : Nat := bitsAt w 0 40

/-- Contexts that run. -/
def runningCtxs (s : State) : List (Nat × Ctx) := (installedCtxs s).filter fun c => !c.2.out

/-- The highest voltage that a running context votes for: that of its level, or of a higher level it is to change to. -/
def ctxVote (s : State) (c : Ctx) : Nat :=
  let armed (w : Word) : Nat := if fArm w then fLevel w else 0
  levelMv (max c.level (max (armed c.fcmd) (armed s.fcmdAll)))

/-- Whether a context holds a tower that rail i feeds. -/
def onRail (c : Ctx) (i : Nat) : Bool := (List.range 16).any fun t => blkSet c.blk 0x50 (16 * i + t)

/-- The vote on rail i; without one it rests at V(6). -/
def railVote (s : State) (i : Nat) : Nat :=
  ((runningCtxs s).filter fun c => onRail c.2 i).foldl (fun m c => max m (ctxVote s c.2)) 550

/-- The voltage of a rail at a wheel count: 1 mV in 200 slots towards its target. -/
def railMv (r : Rail) (w : Nat) : Nat :=
  let n := (w - r.from_) / 200
  if r.mv ≤ r.target then Nat.min r.target (r.mv + n) else Nat.max r.target (r.mv - n)

/-- RAIL_VOLTAGE_CHANGE: at the epoch boundary that the rotation has passed a rail begins to move to its vote. -/
def moveRails (s : State) : State :=
  { s with rails := Vector.ofFn fun (i : Fin 10) =>
      let r := vget s.rails i.val ⟨550, 0, 550⟩
      let v := railVote s i.val
      let e := s.wheel / Config.epoch * Config.epoch
      if v = r.target then r else ⟨railMv r e, e, v⟩ }

/-- The wheel count by which a rail can have reached a voltage that is voted for now. -/
def railArrives (s : State) (r : Rail) (v : Nat) : Nat :=
  let start := (s.wheel / Config.epoch + 1) * Config.epoch
  if v ≤ r.target then r.from_ + 200 * (v - r.mv) else start + 200 * (v - railMv r start)

/-- REV of a change to a level: that asked for, or the first boundary after the rails of the contexts it raises arrive (R468). -/
def levelRev (s : State) (l : List (Nat × Ctx)) (level rev : Nat) : Nat :=
  (List.range 10).foldl (fun m i =>
    let a := railArrives s (vget s.rails i ⟨550, 0, 550⟩) (levelMv level)
    if (l.any fun c => onRail c.2 i && decide (c.2.level < level)) && decide (m * s.W < a) then a / s.W + 1 else m) rev

/-- The running contexts that a selector of `fcmd` names. -/
def fcmdNames (s : State) (ctx : Nat) : List (Nat × Ctx) := (runningCtxs s).filter fun c => ctx == 255 || c.1 == ctx

/-- The register of a selector. -/
def fcmdReg (s : State) (ctx : Nat) : Word := if ctx = 255 then s.fcmdAll else (getCtx s ctx).fcmd
def setFcmdReg (s : State) (ctx : Nat) (w : Word) : State :=
  if ctx = 255 then { s with fcmdAll := w } else modCtx s ctx fun c => { c with fcmd := w }

/-- FCMD_WRITE: CTX selects a register; a legal LEVEL is written with a REV at least 64 revolutions ahead, while nothing is armed
(R467). -/
def fcmdWrite (s : State) (v : Word) : State :=
  let ctx := bitsAt v 48 8
  let level := fLevel v
  if level < 6 ∨ 18 < level then s
  else
    let s := { s with fcmdSel := ctx }
    if fArm (fcmdReg s ctx) then s
    else if fArm v then
      let rev := levelRev s (fcmdNames s ctx) level (max (fRev v) (revNow s + 64))
      setFcmdReg s ctx (word (2 ^ 63 + level * 2 ^ 40 + rev % 2 ^ 40))
    else setFcmdReg s ctx (word (level * 2 ^ 40 + max (fRev v) (revNow s + 64) % 2 ^ 40))

def execFcmdWrite (s : State) : Out := .next (fcmdWrite s s.arg.v)

/-- Whether the change of a selector is due: at REV · W, and for one context once it runs. -/
def fcmdDue (s : State) (ctx : Nat) : Bool :=
  let w := fcmdReg s ctx
  fArm w && decide (fRev w * s.W ≤ s.wheel) && (ctx == 255 || !(getCtx s ctx).out)

/-- FREQUENCY_CHANGE: the contexts that a register names adopt its LEVEL. One that is switched out adopts it at its restore, where
nothing has seen its level in the meantime (R468). -/
def frequencyChange (s : State) (ctx : Nat) : State :=
  if fcmdDue s ctx then
    let w := fcmdReg s ctx
    let s := if ctx = 255 then { s with ctxs := s.ctxs.map fun c => if c.2.installed then (c.1, { c.2 with level := fLevel w }) else c }
      else modCtx s ctx fun c => { c with level := fLevel w }
    setFcmdReg s ctx (w &&& ~~~(word (2 ^ 63)))
  else s

def execFrequencyChange (s : State) : Out := .next (frequencyChange s s.arg.ctx)

/-! ## The power budget tree (R470, R471) -/

/-- The cores of a context's towers that are in service. -/
def ctxCores (s : State) (ctx : Nat) : List Nat :=
  ((ctxTowers s ctx).flatMap fun t => (List.range 64).map (coreKey t)).filter fun k => !(getCore s k).quarantined

/-- The demand d(c) of a core in the epoch before. -/
def coreDemand (c : Core) : Nat := if c.epochClosed then 16 else max 1 (ceilDiv (16 * c.epochIssued) c.epochRot)

/-- Σ Pred over the cores of a context at an upper limit u. -/
def ctxPower (s : State) (level u : Nat) (cores : List Nat) : Nat :=
  (cores.map fun k => Config.pred level (min (coreDemand (getCore s k)) u)
    (railMv (vget s.rails (dieY (k / 64) / 2) ⟨550, 0, 550⟩) s.wheel)).sum

/-- The greatest u whose power is within a share, or 1. -/
def dutyLimit (s : State) (level share : Nat) (cores : List Nat) : Nat → Nat
  | 0 => 1
  | 1 => 1
  | u + 1 => if ctxPower s level (u + 1) cores ≤ share then u + 1 else dutyLimit s level share cores u

/-- The share of a context in mW (R470). -/
def powerShare (s : State) (ctx : Nat) : Nat :=
  let avail := s.power.limit * 1000 - 1500000 - Config.pfix (s.wheel / Config.epoch) - s.power.excess
  avail * (ctxTowers s ctx).length / ((runningCtxs s).map fun c => (ctxTowers s c.1).length).sum

/-- A core takes the DUTY that the tree writes, at its next rotation with j = 0 (R124). -/
def giveDuty (d : Nat) (c : Core) : Core := if c.dutyNext.isNone ∧ c.duty = d then c else { c with dutyNext := some d }

/-- DUTY of every core of a context. -/
def ctxDuty (s : State) (ctx : Nat) : State :=
  let cores := ctxCores s ctx
  let u := dutyLimit s (getCtx s ctx).level (powerShare s ctx) cores 16
  cores.foldl (fun s k => modCore s k fun c =>
    giveDuty (if (getDie s (k / 64)).hot then 1 else min (coreDemand c) u) c) s

/-- The junctions as they read at the boundary: above 110 °C, until below 100 °C (R470). -/
def readHeat (s : State) : State :=
  (List.range 160).foldl (fun s t =>
    let n := Config.towerTemp (160 * s.wheel + t)
    let hot := decide (110000 < n) || ((getDie s t).hot && decide (100000 ≤ n))
    if hot = (getDie s t).hot then s else modDie s t fun d => { d with hot := hot }) s

/-- POWER_EPOCH: LIMIT, rails, junctions and DUTY at an epoch boundary. -/
def powerEpoch (s : State) : State :=
  let s := { s with power := { s.power with limit := s.power.limitNext.getD s.power.limit, limitNext := none } }
  let s := readHeat (moveRails s)
  let s := (runningCtxs s).foldl (fun s c => ctxDuty s c.1) s
  { s with cores := s.cores.map fun c => (c.1, { c.2 with epochRot := 0, epochIssued := 0, epochClosed := false }) }

/-- Whether an epoch boundary was passed in the rotation that has just ended. -/
def newEpoch (s : State) : Bool := decide (s.wheel % Config.epoch < s.slotsPerRotation)

def execPowerEpoch (s : State) : Out := .next (if newEpoch s then powerEpoch s else s)

/-! ## Telemetry (R472) -/

/-- TELEMETRY_READ of a module power in mW: an excess over LIMIT comes off Lavail until a reading is 5 % below LIMIT. -/
def telemetryRead (s : State) (mw : Nat) : State :=
  let p := s.power
  let lim := p.limit * 1000
  let p := { p with reading := mw,
                    excess := if lim < mw then p.excess + (mw - lim) else if mw * 100 ≤ lim * 95 then 0 else p.excess }
  { s with power := p, telemAt := s.telemAt + 2000000 }

def execTelemetryRead (s : State) : Out := .next (if s.telemAt ≤ s.wheel then telemetryRead s s.arg.n else s)

end Sys2Proof.Machine
end

