-- ==== Sys2Proof/Machine/Scalar.lean ====
section
/-! DEFINITION. Scalar, compare and predicate instructions (spec/05_scalar_and_predicate_instructions.md). -/

namespace Sys2Proof.Machine

set_option Elab.async false

/-! ## The functions of R77 to R90 -/

/-- mulh: the upper 64 bits of the product (R79). -/
def mulHigh (uns : Bool) (a b : Word) : Word :=
  if uns then word (a.toNat * b.toNat / 2 ^ 64) else BitVec.ofInt 64 (a.toInt * b.toInt / 2 ^ 64)

/-- div: truncated toward zero; by zero all ones; the overflow wraps (R79). -/
def divide (uns : Bool) (a b : Word) : Word :=
  if b = 0 then BitVec.allOnes 64
  else if uns then word (a.toNat / b.toNat)
  else BitVec.ofInt 64 (a.toInt.tdiv b.toInt)

/-- rem: what the truncated quotient leaves; by zero the dividend (R79). -/
def remainder (uns : Bool) (a b : Word) : Word :=
  if b = 0 then a
  else if uns then word (a.toNat % b.toNat)
  else BitVec.ofInt 64 (a.toInt.tmod b.toInt)

/-- The count of a shift in register form: bits [5:0] (R78). -/
def shiftCount (b : Word) : Nat := bitsAt b 0 6

/-- clz: zero bits above the highest set bit (R81). -/
def leadingZeros {w : Nat} (x : BitVec w) : Nat := if x.toNat = 0 then w else w - 1 - x.toNat.log2

/-- brev: bit j of the result is bit 63−j (R81). -/
def reverseBits (a : Word) : Word :=
  word ((List.range 64).foldl (fun m j => if bitAt a (63 - j) then m + 2 ^ j else m) 0)

/-- bswap: byte j of the result is byte 7−j (R81). -/
def reverseBytes (a : Word) : Word :=
  word ((List.range 8).foldl (fun m j => m + bitsAt a (8 * (7 - j)) 8 * 2 ^ (8 * j)) 0)

/-- |S(a)| modulo 2^64 (R81). -/
def absWord (a : Word) : Word := if a.toInt < 0 then -a else a

/-- Position and length of a field from its control value (R82). -/
def fieldPos (c : Word) : Nat := bitsAt c 0 6
def fieldLen (c : Word) : Nat := bitsAt c 8 6 + 1

/-- bext (R82). -/
def extractField (sx : Bool) (a c : Word) : Word :=
  let f := a.toNat / 2 ^ fieldPos c % 2 ^ fieldLen c
  if sx && f.testBit (fieldLen c - 1) then word (f + 2 ^ 64 - 2 ^ fieldLen c) else word f

/-- bins (R83): bits of the field beyond bit 63 are discarded. -/
def insertField (old a c : Word) : Word :=
  let n := Nat.min (fieldPos c + fieldLen c) 64 - fieldPos c
  setBits old (fieldPos c) n (bitsAt a 0 n)

/-- sext and zext from n bits (R84). -/
def signExtend (n : Nat) (a : Word) : Word := (a.setWidth n).signExtend 64
def zeroExtend (n : Nat) (a : Word) : Word := (a.setWidth n).setWidth 64

def minWord (uns : Bool) (a b : Word) : Word :=
  if (if uns then a.toNat ≤ b.toNat else a.toInt ≤ b.toInt) then a else b
def maxWord (uns : Bool) (a b : Word) : Word :=
  if (if uns then a.toNat ≤ b.toNat else a.toInt ≤ b.toInt) then b else a

/-! ## Bodies -/

/-- rd, ra, rb or imm, as written (R77). -/
def bodyBin (rd ra : SOp) (b : SrcB) (f : Word → Word → Word) : Ev Unit := do
  examS rd
  let x ← srcS ra
  let y ← srcB b
  dstS rd (f x y)

/-- rd, ra (R81, R84, R87). -/
def bodyUn (rd ra : SOp) (f : Word → Word) : Ev Unit := do
  examS rd
  let x ← srcS ra
  dstS rd (f x)

/-- The control value of a bit field in immediate form is zero-extended (R82). -/
def srcField (b : SrcB) : Ev Word :=
  match b with
  | .reg o => srcS o
  | .imm i => pure (i.setWidth 64)

def execNop (_g : Guard) (s : State) : Out := issueNop s

def execAdd (g : Guard) (rd ra : SOp) (b : SrcB) (s : State) : Out := issueS g (locS rd) (bodyBin rd ra b fun x y => x + y) s
def execSub (g : Guard) (rd ra : SOp) (b : SrcB) (s : State) : Out := issueS g (locS rd) (bodyBin rd ra b fun x y => x - y) s
def execMul (g : Guard) (rd ra : SOp) (b : SrcB) (s : State) : Out := issueS g (locS rd) (bodyBin rd ra b fun x y => x * y) s
def execMulh (g : Guard) (uns : Bool) (rd ra : SOp) (b : SrcB) (s : State) : Out :=
  issueS g (locS rd) (bodyBin rd ra b (mulHigh uns)) s
def execDiv (g : Guard) (uns : Bool) (rd ra : SOp) (b : SrcB) (s : State) : Out :=
  issueS g (locS rd) (bodyBin rd ra b (divide uns)) s
def execRem (g : Guard) (uns : Bool) (rd ra : SOp) (b : SrcB) (s : State) : Out :=
  issueS g (locS rd) (bodyBin rd ra b (remainder uns)) s

/-- madd: sources in the order ra, rb, rc (R80). -/
def execMadd (g : Guard) (rd ra rb rc : SOp) (s : State) : Out :=
  issueS g (locS rd) (do
    examS rd
    let x ← srcS ra
    let y ← srcS rb
    let z ← srcS rc
    dstS rd (x * y + z)) s

def execAnd (g : Guard) (rd ra : SOp) (b : SrcB) (s : State) : Out := issueS g (locS rd) (bodyBin rd ra b fun x y => x &&& y) s
def execOr (g : Guard) (rd ra : SOp) (b : SrcB) (s : State) : Out := issueS g (locS rd) (bodyBin rd ra b fun x y => x ||| y) s
def execXor (g : Guard) (rd ra : SOp) (b : SrcB) (s : State) : Out := issueS g (locS rd) (bodyBin rd ra b fun x y => x ^^^ y) s
def execAndn (g : Guard) (rd ra : SOp) (b : SrcB) (s : State) : Out :=
  issueS g (locS rd) (bodyBin rd ra b fun x y => x &&& ~~~y) s
def execOrn (g : Guard) (rd ra : SOp) (b : SrcB) (s : State) : Out :=
  issueS g (locS rd) (bodyBin rd ra b fun x y => x ||| ~~~y) s
def execXnor (g : Guard) (rd ra : SOp) (b : SrcB) (s : State) : Out :=
  issueS g (locS rd) (bodyBin rd ra b fun x y => ~~~(x ^^^ y)) s
def execSll (g : Guard) (rd ra : SOp) (b : SrcB) (s : State) : Out :=
  issueS g (locS rd) (bodyBin rd ra b fun x y => x <<< shiftCount y) s
def execSrl (g : Guard) (rd ra : SOp) (b : SrcB) (s : State) : Out :=
  issueS g (locS rd) (bodyBin rd ra b fun x y => x >>> shiftCount y) s
def execSra (g : Guard) (rd ra : SOp) (b : SrcB) (s : State) : Out :=
  issueS g (locS rd) (bodyBin rd ra b fun x y => x.sshiftRight (shiftCount y)) s
def execRol (g : Guard) (rd ra : SOp) (b : SrcB) (s : State) : Out :=
  issueS g (locS rd) (bodyBin rd ra b fun x y => x.rotateLeft (shiftCount y)) s
def execRor (g : Guard) (rd ra : SOp) (b : SrcB) (s : State) : Out :=
  issueS g (locS rd) (bodyBin rd ra b fun x y => x.rotateRight (shiftCount y)) s

def execClz (g : Guard) (rd ra : SOp) (s : State) : Out := issueS g (locS rd) (bodyUn rd ra fun x => word (leadingZeros x)) s
def execCtz (g : Guard) (rd ra : SOp) (s : State) : Out := issueS g (locS rd) (bodyUn rd ra fun x => word (firstOne x 64)) s
def execPopc (g : Guard) (rd ra : SOp) (s : State) : Out := issueS g (locS rd) (bodyUn rd ra fun x => word (countOnes x 64)) s
def execBrev (g : Guard) (rd ra : SOp) (s : State) : Out := issueS g (locS rd) (bodyUn rd ra reverseBits) s
def execBswap (g : Guard) (rd ra : SOp) (s : State) : Out := issueS g (locS rd) (bodyUn rd ra reverseBytes) s
def execAbs (g : Guard) (rd ra : SOp) (s : State) : Out := issueS g (locS rd) (bodyUn rd ra absWord) s

def execBext (g : Guard) (sx : Bool) (rd ra : SOp) (b : SrcB) (s : State) : Out :=
  issueS g (locS rd) (do
    examS rd
    let x ← srcS ra
    let c ← srcField b
    dstS rd (extractField sx x c)) s

/-- bins reads rd as well as writing it (R83). -/
def execBins (g : Guard) (rd ra : SOp) (b : SrcB) (s : State) : Out :=
  issueS g (locS rd) (do
    let old ← srcS rd
    let x ← srcS ra
    let c ← srcField b
    dstS rd (insertField old x c)) s

def execSext (g : Guard) (rd ra : SOp) (n : BitVec 23) (s : State) : Out :=
  issueS g (locS rd) (bodyUn rd ra (signExtend n.toNat)) s
def execZext (g : Guard) (rd ra : SOp) (n : BitVec 23) (s : State) : Out :=
  issueS g (locS rd) (bodyUn rd ra (zeroExtend n.toNat)) s
def execMin (g : Guard) (uns : Bool) (rd ra : SOp) (b : SrcB) (s : State) : Out :=
  issueS g (locS rd) (bodyBin rd ra b (minWord uns)) s
def execMax (g : Guard) (uns : Bool) (rd ra : SOp) (b : SrcB) (s : State) : Out :=
  issueS g (locS rd) (bodyBin rd ra b (maxWord uns)) s
def execShadd (g : Guard) (k : BitVec 2) (rd ra : SOp) (b : SrcB) (s : State) : Out :=
  issueS g (locS rd) (bodyBin rd ra b fun x y => (x <<< k.toNat) + y) s
def execLi (g : Guard) (rd : SOp) (i : BitVec 34) (s : State) : Out :=
  issueS g (locS rd) (do
    examS rd
    dstS rd (i.signExtend 64)) s

/-- lih keeps the lower 34 bits of rd (R90). -/
def execLih (g : Guard) (rd : SOp) (i : BitVec 30) (s : State) : Out :=
  issueS g (locS rd) (do
    let old ← srcS rd
    dstS rd (i ++ old.setWidth 34)) s

def execMov (g : Guard) (rd ra : SOp) (s : State) : Out := issueS g (locS rd) (bodyUn rd ra fun x => x) s

/-- sel reads both sources, whichever it takes (R88). -/
def execSel (g : Guard) (q : BitVec 3) (rd ra rb : SOp) (s : State) : Out :=
  issueS g (locS rd) (do
    examS rd
    let p ← srcP q
    let x ← srcS ra
    let y ← srcS rb
    dstS rd (if bitAt p 0 then x else y)) s

/-! ## Compares and predicates (R91 to R100) -/

def execCmp (g : Guard) (pd pe : BitVec 3) (m : PMode) (cond : Cond) (ra rb : SOp) (s : State) : Out :=
  issueS g (locP pd ++ locP pe) (do
    let x ← srcS ra
    let y ← srcS rb
    dstPair m pd pe (allOr (condInt cond x y))) s

def execCmpi (g : Guard) (pd pe : BitVec 3) (m : PMode) (cond : Cond) (ra : SOp) (i : BitVec 22) (s : State) : Out :=
  issueS g (locP pd ++ locP pe) (do
    let x ← srcS ra
    dstPair m pd pe (allOr (condInt cond x (i.signExtend 64)))) s

def execPtt (g : Guard) (pd pe : BitVec 3) (m : PMode) (tt : BitVec 8) (qa qb qc : BitVec 3) (s : State) : Out :=
  issueS g (locP pd ++ locP pe) (do
    let a ← srcP qa
    let b ← srcP qb
    let c ← srcP qc
    dstPair m pd pe (pttMask tt a b c)) s

def execPmov (g : Guard) (pd : BitVec 3) (ra : SOp) (s : State) : Out :=
  issueS g (locP pd) (do
    let x ← srcS ra
    evEff (.preg pd.toNat x)) s

def execPget (g : Guard) (rd : SOp) (qa : BitVec 3) (s : State) : Out :=
  issueS g (locS rd) (do
    examS rd
    let p ← srcP qa
    dstS rd p) s

def execPany (g : Guard) (pd pe : BitVec 3) (m : PMode) (qa : BitVec 3) (lw : BitVec 2) (s : State) : Out :=
  issueS g (locP pd ++ locP pe) (do
    let p ← srcP qa
    dstPair m pd pe (allOr ((List.range (lanes lw)).any fun i => bitAt p i))) s

def execPall (g : Guard) (pd pe : BitVec 3) (m : PMode) (qa : BitVec 3) (lw : BitVec 2) (s : State) : Out :=
  issueS g (locP pd ++ locP pe) (do
    let p ← srcP qa
    dstPair m pd pe (allOr ((List.range (lanes lw)).all fun i => bitAt p i))) s

def execPcnt (g : Guard) (rd : SOp) (qa : BitVec 3) (lw : BitVec 2) (s : State) : Out :=
  issueS g (locS rd) (do
    examS rd
    let p ← srcP qa
    dstS rd (word (countOnes p (lanes lw)))) s

def execPfirst (g : Guard) (rd : SOp) (qa : BitVec 3) (lw : BitVec 2) (s : State) : Out :=
  issueS g (locS rd) (do
    examS rd
    let p ← srcP qa
    dstS rd (word (firstOne p (lanes lw)))) s

end Sys2Proof.Machine
end

