-- ==== Sys2Proof/Machine/Spire.lean ====
section
/-! DEFINITION. The spire network's instructions and events (spec/18_spire_network.md R374 to R391). -/

namespace Sys2Proof.Machine

set_option Elab.async false

/-! ## Instructions -/

def evSpTrap {α : Type} (ch : BitVec 5) (kind : Nat) : Ev α := evTrap 17 (spireTval ch.toNat kind)

/-- Kind 1: the thread's launch does not hold the channel. -/
def evHolds (ch : BitVec 5) : Ev Unit := do
  let c ← get
  if (getSpire c.s ch.toNat).holder = some (c.th.ctx, c.th.launch) then pure () else evSpTrap ch 1

/-- Kind 4: the leaf is no member. -/
def evMember (ch : BitVec 5) : Ev Unit := do
  let c ← get
  if (memberAt (getSpire c.s ch.toNat) (leafPos c.t)).isSome then pure () else evSpTrap ch 4

/-- The writes a release at scope `ln` waits for, under cause 12 (R387). -/
def evSpRelease (o : SpOrd) : Ev Unit := do
  let c ← get
  let ids := fenceWrites c.s c.t .ln
  if o = .rel ∧ ids.isEmpty = false then evWait (.requests 12 ids) else pure ()

def execSpjoin (g : Guard) (ch : BitVec 5) (sm : SOp) (s : State) : Out :=
  issueV0 g [] (do
    let w ← srcS sm
    evHolds ch
    let c ← get
    let x := getSpire c.s ch.toNat
    let pos := leafPos c.t
    if bitAt w 16 then evMember ch
    else if x.members.isEmpty && !(x.joins.any fun j => j.pos == pos && j.t != c.t) then pure ()
    else evSpTrap ch 2
    if spJoinOk w then pure () else evSpTrap ch 5
    if bitAt w 16 then evEff (.spjoin ch.toNat w 0)
    else do
      let k ← evKey
      evWait (.act (.spjoin ch.toNat w k))
      evWait (.key 12 k)) s

/-- spscan, spred and spbc (R382, R383). -/
def bodySpire (op : Nat) (o : SpOrd) (ch : BitVec 5) (vd va : VOp) (sa : SOp) (ok : EvCtx → Word → Option Nat) : Ev Unit := do
  let _ ← examV vd true
  let v ← srcV va
  let d ← srcS sa
  evHolds ch
  evMember ch
  let c ← get
  match ok c d with
  | some kind => evSpTrap ch kind
  | none => do
    evSpRelease o
    let k ← evKey
    evWait (.act (.spire ch.toNat op v d k))
    evWait (.key 12 k)
    match vd with
    | .v r => evEff (.vregOf r.toNat k c.th.pc)
    | _ => pure ()

def execSpscan (g : Guard) (o : SpOrd) (ch : BitVec 5) (vd va : VOp) (sa : SOp) (s : State) : Out :=
  issueV0 g (locV vd) (bodySpire 0 o ch vd va sa fun _ d => if spDescOk true d then none else some 5) s
def execSpred (g : Guard) (o : SpOrd) (ch : BitVec 5) (vd va : VOp) (sa : SOp) (s : State) : Out :=
  issueV0 g (locV vd) (bodySpire 1 o ch vd va sa fun _ d => if spDescOk false d then none else some 5) s
def execSpbc (g : Guard) (o : SpOrd) (ch : BitVec 5) (vd va : VOp) (sa : SOp) (s : State) : Out :=
  issueV0 g (locV vd) (bodySpire 3 o ch vd va sa fun c d =>
    if d.toNat < (getSpire c.s ch.toNat).members.length then none else some 8) s
def execSpbar (g : Guard) (o : SpOrd) (ch : BitVec 5) (s : State) : Out :=
  issueV0 g [] (do
    evHolds ch
    evMember ch
    evSpRelease o
    let k ← evKey
    evWait (.act (.spire ch.toNat 2 0 0 k))
    evWait (.key 12 k)) s

/-! ## Events (R376, R385, R388) -/

/-- A member takes its place in ascending position. -/
def placeMember (l : List SpireMember) (m : SpireMember) : List SpireMember :=
  match l with
  | [] => [m]
  | x :: t => if m.pos ≤ x.pos then m :: x :: t else x :: placeMember t m

/-- Members of a formed group in ascending position, ranks being places in the list (R375). -/
def formMembers (l : List SpireJoin) : List SpireMember := l.foldl (fun l j => placeMember l ⟨j.pos, j.t, none, 0, []⟩) []

/-- SPIRE_GROUP_FORM: when every join has crossed the network, the group forms and each join completes. -/
def spireGroupForm (s : State) (ch : Nat) : State :=
  let c := getSpire s ch
  match spireFormAt c with
  | some due =>
    if coreSees s due then
      let s := setSpire s ch { c with joins := [], members := formMembers c.joins }
      c.joins.foldl (fun s j => giveKey s j.t j.key (some [])) s
    else s
  | none => s

/-- SPIRE_RESULT_DELIVERY: every result due on the channel reaches its thread; one for a thread that has still to issue again waits
for it (R391). -/
def spireDeliver (s : State) (ch : Nat) : State :=
  let c := getSpire s ch
  let due (r : SpireRes) : Bool := r.kind.isNone && r.key != 0 && coreSees s r.due
  let s := setSpire s ch { c with results := c.results.filter (!due ·) }
  (c.results.filter due).foldl (fun s r => giveKey s r.t r.key (some (natBytes 64 r.v.toNat))) s

/-- Whether a thread is parked on a channel: it waits under one of some keys, or, before it contributes, for the writes of its release. -/
def waitsSpire (ch : Nat) (keys : List Nat) (th : Thread) : Bool :=
  th.inflight.any fun f => f.waits.any fun w => match w with
    | .key c k => c == 12 && keys.contains k
    | .act (.spire n _ _ _ _) => n == ch
    | _ => false

/-- The threads of a group that are parked on its channel. -/
def spireParked (s : State) (ch : Nat) (c : SpireChan) : List Tid :=
  let keys := c.members.flatMap fun m => m.contribs.map (·.key)
  c.members.flatMap fun m => ((List.range 8).map fun i => (⟨m.pos / 64, m.pos % 64, i⟩ : Tid)).filter fun t => waitsSpire ch keys (getThread s t)

/-- The fault that ends an instance is taken by every member parked on the channel, and the group dissolves (R389). -/
def spireDissolve (s : State) (ch : Nat) : State :=
  let c := getSpire s ch
  match c.failing with
  | some (due, kind) =>
    if coreSees s due then
      (spireParked s ch c).foldl (fun s t => failWait s t 17 (spireTval ch kind) true) (setSpire s ch { c with members := [], failing := none })
    else s
  | none => s

/-- SPIRE_FAULT_DELIVERY: the faults of joins that are due are taken by their threads, and a group whose instance has failed dissolves
(R388, R389). -/
def spireFaultDeliver (s : State) (ch : Nat) : State :=
  let c := getSpire s ch
  let due (r : SpireRes) : Bool := r.kind.isSome && coreSees s r.due
  let s := setSpire s ch { c with results := c.results.filter (!due ·) }
  spireDissolve ((c.results.filter due).foldl (fun s r =>
    if waitsSpire ch [r.key] (getThread s r.t) then failWait s r.t 17 (spireTval ch (r.kind.getD 0)) true else s) s) ch

def execSpireGroupForm (s : State) : Out := .next (spireGroupForm s s.arg.i)
def execSpireResultDelivery (s : State) : Out := .next (spireDeliver s s.arg.i)
def execSpireFaultDelivery (s : State) : Out := .next (spireFaultDeliver s s.arg.i)

end Sys2Proof.Machine
end

