-- ==== Sys2Proof/Machine/SaveImage.lean ====
section
/-! DEFINITION. The save images of a core, a cluster and a tower: what each doubleword holds, which beats a save writes, and what a
restore takes from them (spec/21 R423 to R426; spec/02 R39 to R42). -/

namespace Sys2Proof.Machine

set_option Elab.async false

/-- What is saved: a context, or the clusters of one of its regions. -/
structure SaveWho where
  ctx : Nat
  region : Option Nat
deriving DecidableEq, Repr

/-- Whether a thread belongs to what is saved. -/
def SaveWho.has (w : SaveWho) (th : Thread) : Bool :=
  hasThread th && th.ctx == w.ctx && match w.region with
    | some r => th.region == r
    | none => true

/-! ## One slot (R425) -/

/-- STATE of a slot. -/
def slotState (th : Thread) : Nat :=
  match th.run with
  | .running => 1
  | .parked => 2
  | .stopped => 3
  | _ => 0

def slotHead (th : Thread) : Nat :=
  slotState th + (parkedCause th).getD 0 * 2 ^ 4 + (if th.triggered then 2 ^ 8 else 0) + (match th.gang with
    | some g => g.k * 2 ^ 9 + if g.attached then 2 ^ 11 else 0
    | none => 0) + if th.dbg.agent.isSome then 2 ^ 12 else 0

/-- A circuit's handle, zero for none. -/
def savedHandle (s : State) (o : Option Nat) : Word :=
  match o with
  | some k => handleOf (getCircuit s k) k
  | none => 0

/-- Doubleword i of the per-slot state. -/
def slotDW (s : State) (t : Tid) (th : Thread) (i : Nat) : Word :=
  if !hasThread th then (if i = 19 then th.mcmdSeq.setWidth 64 else 0)
  else if i = 0 then word (slotHead th)
  else if i = 1 then (match th.dbg.agent with
    | some a => word (bitsAt (tidWord s a) 0 24)
    | none => 0)
  else if i < 6 then savedHandle s (getRx th (i - 2)).circ
  else if i < 10 then
    let r := getRx th (i - 6)
    if r.circ.isSome then word (r.rbase + r.rlen * 2 ^ 20) else 0
  else if i < 14 then savedHandle s (getTx th (i - 10))
  else if i < 18 then
    let r := getRx th (i - 14)
    word (r.q.length + r.rhead * 2 ^ 5 + r.rcount * 2 ^ 19 + if r.overflow then 2 ^ 33 else 0)
  else if i = 18 then
    word ((List.range 4).foldl (fun m n => m + 2 ^ (8 * n) * (match liveCirc s (getTx th n) with
      | some k => waitingBeats s k (.tx t n)
      | none => 0)) 0)
  else if i = 19 then th.mcmdSeq.setWidth 64
  else if i < 36 then
    let w := getWin th ((i - 20) / 4)
    if w.circ.isNone then 0
    else match (i - 20) % 4 with
      | 0 => savedHandle s w.circ
      | 1 => word w.wbase
      | 2 => word w.wlen
      | _ => word (w.cursor + w.tag % 2 ^ 16 * 2 ^ 16 + if w.tagen then 2 ^ 32 else 0)
  else if i = 36 then th.crot
  else if i = 37 then th.cissue
  else if i = 38 then th.cduty
  else if i = 39 then th.cstop
  else if i < 56 then vget th.cpark (i - 40) 0
  else if i = 56 then th.trcen
  else if i = 57 then th.cntirq
  else if i = 58 then th.dbg.bp0
  else if i = 59 then th.dbg.bp1
  else if i = 60 then th.dbg.wp
  else 0

/-- Doubleword i of a send queue's area. -/
def sendDW (s : State) (t : Tid) (th : Thread) (n i : Nat) : Word :=
  match liveCirc s (getTx th n) with
  | some k => word (bitsAt ((((getCircuit s k).inj.filter fun b => b.src == .tx t n)[i / 8]?.map (·.beat.data)).getD 0) (64 * (i % 8)) 64)
  | none => 0

/-- The 64 bytes, or 8 for a scalar stream, of a FIFO entry. -/
def fifoBits (e : FifoEntry) : Vec :=
  match e with
  | .val v => v
  | .poison => 0
  | .fault _ a => a.setWidth 512

/-- Doubleword i of the FIFO area of stream j. -/
def fifoDW (th : Thread) (j i : Nat) : Word :=
  let x := getStream th j
  if j < 4 then ((x.fifo[i]?).map fun e => (fifoBits e).setWidth 64).getD 0
  else word (bitsAt ((x.fifo[i / 8]?.map fifoBits).getD 0) (64 * (i % 8)) 64)

/-- Bits of the entries of a FIFO that a predicate holds of. -/
def fifoMask (l : List FifoEntry) (p : FifoEntry → Bool) : Nat := (l.zipIdx).foldl (fun m e => if p e.1 then m + 2 ^ e.2 else m) 0

/-- The R109 causes of the faulted entries, a byte each. -/
def fifoCauses (l : List FifoEntry) : Nat :=
  (l.zipIdx).foldl (fun m e => match e.1 with
    | .fault c _ => m + c % 256 * 2 ^ (8 * e.2)
    | _ => m) 0

/-- Doubleword i of the state of stream j. -/
def streamDW (th : Thread) (j i : Nat) : Word :=
  let x := getStream th j
  if i < 8 then (recWords x.rcd).getD i 0
  else if i = 8 then word x.next
  else if i = 9 then word ((if x.on then 1 else 0) + x.fifo.length * 2 + (if x.checked then 2 ^ 7 else 0) + bitsAt x.pc 4 24 * 2 ^ 8)
  else if i = 10 then word (fifoMask x.fifo (· == .poison))
  else if i = 11 then word (fifoMask x.fifo fun e => match e with
    | .fault _ _ => true
    | _ => false)
  else word (fifoCauses x.fifo / 2 ^ (64 * (i - 12)) % 2 ^ 64)

/-! ## One core (R423, R425) -/

/-- Doubleword i of the bank records, tile owners and remote request order. -/
def unitDW (c : Core) (i : Nat) : Word :=
  if i < 8 then
    let b := bankOf c (i / 2)
    if i % 2 = 1 then 0 else word ((if b.loaded then 1 else 0) + b.set.toNat * 2 ^ 4 + b.ty * 2 ^ 8 + b.k * 2 ^ 16 + b.n * 2 ^ 32)
  else if i = 8 then word ((ownerOf c 0).getD 15 + (ownerOf c 1).getD 15 * 2 ^ 4)
  else if i = 9 then word c.remote.length
  else if i < 16 then 0
  else if i < 80 then
    match c.remote[(i - 16) / 8]? with
    | none => 0
    | some m => match (i - 16) % 8 with
      | 5 => word (m.sender % 2 ^ 24 + m.seq % 2 ^ 16 * 2 ^ 24)
      | 6 => word m.at_
      | 7 => 0
      | k => word (bitsAt m.sent (64 * k) 64)
  else 0

/-- Code of a space in a landed segment's entry. -/
def segSpace (x : Space) : Nat := if x = .d then 1 else 0

/-- Doubleword i of the landed segments: number in [11:0], LEN in [28:16], then space and mode (log 42), and the image address. -/
def segDW (c : Core) (i : Nat) : Word :=
  match c.segs[i / 2]? with
  | none => 0
  | some g => if i % 2 = 0 then word (g.num + g.len * 2 ^ 16 + segSpace g.src.space * 2 ^ 32 + g.src.mode * 2 ^ 34) else word g.src.addr

/-- Doubleword at byte offset o of a core image. -/
def coreDW (s : State) (die core : Nat) (c : Core) (o : Nat) : Word :=
  let tid (n : Nat) : Tid := ⟨die, core, n⟩
  if o < 0x80000 then mWord c.tcm o
  else if o < 0xC0000 then mWord c.bankMem (o - 0x80000)
  else if o < 0xE0000 then mWord c.tiles (o - 0xC0000)
  else if o < 0xE2000 then word ((List.range 64).foldl (fun m b => if isFull c (8 * (8 * (o - 0xE0000) + b)) then m + 2 ^ b else m) 0)
  else if o < 0xE5000 then saveDW (slotOf c ((o - 0xE2000) / 0x600)) ((o - 0xE2000) % 0x600 / 8)
  else if o < 0xE6000 then slotDW s (tid ((o - 0xE5000) / 0x200)) (slotOf c ((o - 0xE5000) / 0x200)) ((o - 0xE5000) % 0x200 / 8)
  else if o < 0xE7000 then unitDW c ((o - 0xE6000) / 8)
  else if o < 0xE7400 then segDW c ((o - 0xE7000) / 8)
  else if o < 0xE8000 then 0
  else if o < 0xF0000 then
    let p := (o - 0xE8000) / 0x400
    word (bitsAt (((getRx (slotOf c (p / 4)) (p % 4)).q[o % 0x400 / 64]?).getD 0) (o % 64 * 8) 64)
  else if o < 0xF4000 then
    let p := (o - 0xF0000) / 0x200
    sendDW s (tid (p / 4)) (slotOf c (p / 4)) (p % 4) (o % 0x200 / 8)
  else if o < 0xF8000 then fifoDW (slotOf c ((o - 0xF4000) / 0x800)) ((o - 0xF4000) % 0x800 / 0x100) (o % 0x100 / 8)
  else if o < 0xFA000 then streamDW (slotOf c ((o - 0xF8000) / 0x400)) ((o - 0xF8000) % 0x400 / 0x80) (o % 0x80 / 8)
  else 0

/-! ## Clusters and dies (R425) -/

/-- Doubleword at byte offset o of a cluster image. -/
def clusterDW (c : Cluster) (o : Nat) : Word :=
  if o < 0x400000 then mWord c.scratch o
  else if o < 0x400200 then
    let h := vget c.chans ((o - 0x400000) / 64) ⟨0, 0, [], none, false⟩
    let f := h.fault.getD (0, 0, 0)
    match o % 64 / 8 with
    | 0 => word h.last
    | 1 => word h.done
    | 2 => word f.1
    | 3 => word (f.2.1 + (if h.more then 2 ^ 8 else 0) + if h.fault.isSome then 2 ^ 9 else 0)
    | 4 => f.2.2
    | _ => 0
  else 0

/-- The queued tasks of a context in the order of an image: by level from 7 down, then region, then age. -/
def savedTasks (s : State) (die ctx : Nat) : List Task :=
  (List.range 8).reverse.flatMap fun lv => (List.range 64).flatMap fun r =>
    (getDie s die).queue.filter fun k => k.ctx == ctx && taskLevel s k == lv && k.region == r

def taskDW (k : Task) (i : Nat) : Word :=
  match i with
  | 0 => word k.launch
  | 1 => if k.spawned then Config.taskHandle k.id else word k.index
  | 2 => k.entry
  | 3 => k.segaddr
  | 4 => k.arg
  | 5 => word ((k.thr - 1) + k.gang * 2 ^ 4 + k.pri * 2 ^ 8 + k.region * 2 ^ 16 + k.mode * 2 ^ 24 +
      (if k.hard then 2 ^ 25 else 0) + if k.spawned then 2 ^ 26 else 0)
  | _ => 0

/-- The sealed ranges of a context as a tower saves them. -/
def savedSeals (s : State) (die ctx : Nat) : List Seal :=
  s.seals.filter fun z => z.ctx == ctx && (z.die.isNone || z.die == some die)

/-- Doubleword at byte offset o of the die state. -/
def dieDW (s : State) (die ctx : Nat) (o : Nat) : Word :=
  let d := getDie s die
  let held (t : Nat) : Nat := mapGet 0 d.held (256 * t + ctx) % 2 ^ 32
  let tasks := savedTasks s die ctx
  if o = 0 then word (phaseCount s die ctx % 2 ^ 32)
  else if o < 0x288 then word (held (2 * ((o - 8) / 8)) + held (2 * ((o - 8) / 8) + 1) * 2 ^ 32)
  else if o < 0x688 then
    match (savedSeals s die ctx)[(o - 0x288) / 16]? with
    | none => 0
    | some z => if (o - 0x288) % 16 = 0 then word (z.base + if z.die.isSome then 2 ^ 63 else 0) else word z.len
  else if o = 0x688 then word ((List.range 8).foldl (fun m l => m + mapGet 0 d.served (8 * ctx + l) % 256 * 2 ^ (8 * l)) 0)
  else if o = 0x690 then word (min 992 tasks.length)
  else if o < 0x800 then 0
  else if o < 0x10000 then ((tasks[(o - 0x800) / 64]?).map fun k => taskDW k (o % 64 / 8)).getD 0
  else 0

/-! ## A tower's image (R424, R426) -/

/-- Offsets of the clusters and of the die state. -/
def clusterBase (cl : Nat) : Nat := 0x4000000 + 0x410000 * cl
def dieBase : Nat := 0x6080000

/-- Whether what is saved holds a core: a whole tower, or the clusters of a region's threads. -/
def SaveWho.core (w : SaveWho) (s : State) (die core : Nat) : Bool :=
  w.region.isNone || (List.range 8).any fun i => (getCore s (coreKey die (coreAt (clusterOf core) i))).slots.toList.any w.has
def SaveWho.cluster (w : SaveWho) (s : State) (die cl : Nat) : Bool := w.core s die (coreAt cl 0)

/-- Doubleword at byte offset o of a tower's image. -/
def towerDW (w : SaveWho) (s : State) (die o : Nat) : Word :=
  if o < 0x4000000 then coreDW s die (o / 0x100000) (getCore s (coreKey die (o / 0x100000))) (o % 0x100000)
  else if o < dieBase then clusterDW (getCluster s (clusterKey die ((o - 0x4000000) / 0x410000))) ((o - 0x4000000) % 0x410000)
  else dieDW s die w.ctx (o - dieBase)

/-- Whether a save writes beat i of a tower's image: the granules written, and the rest but for what R423 reserves. -/
def beatSaved (w : SaveWho) (s : State) (die i : Nat) : Bool :=
  let o := 64 * i
  if o < 0x4000000 then
    let c := getCore s (coreKey die (o / 0x100000))
    let a := o % 0x100000
    w.core s die (o / 0x100000) && (if a < 0xC0000 then c.written.contains (a / 4096) else decide (a < 0xFA000))
  else if o < dieBase then
    let cl := (o - 0x4000000) / 0x410000
    let a := (o - 0x4000000) % 0x410000
    w.cluster s die cl && (decide (0x400000 ≤ a) || (getCluster s (clusterKey die cl)).written.contains (a / 4096))
  else w.region.isNone

/-- Whether a restore reads beat i. -/
def beatRead (w : SaveWho) (cores : List Nat) (die i : Nat) : Bool :=
  let o := 64 * i
  if o < 0x4000000 then w.region.isNone || cores.contains (coreKey die (o / 0x100000))
  else if o < dieBase then w.region.isNone || cores.contains (coreKey die (coreAt ((o - 0x4000000) / 0x410000) 0))
  else w.region.isNone

/-- SAVEOFF and the towers of what is saved (R411, R424). -/
def SaveWho.off (w : SaveWho) (s : State) : Nat :=
  match w.region with
  | none => cBits s w.ctx 0x40 0 48
  | some r => ((mapFind (getCtx s w.ctx).regions r).map fun b => blkBits b 0x40 0 48).getD 0
def SaveWho.towers (w : SaveWho) (s : State) : List Nat :=
  match w.region.bind fun r => mapFind (getCtx s w.ctx).regions r with
  | some b => if regionInherits b 6 then ctxTowers s w.ctx else (List.range 160).filter (blkSet b 0x50)
  | none => ctxTowers s w.ctx

/-- Beats of a tower's image. -/
def towerBeats : Nat := towerImage / 64

/-- Whether offset o of a tower's image is a place of a thread image's predicate area after the last live predicate, where a
save writes nothing (R40; R426 speaks of the whole image: assumption log 114). -/
def predUnused (s : State) (die o : Nat) : Bool :=
  let a := o % 0x100000
  let i := (a - 0xE2000) % 0x600 / 8
  decide (o < 0x4000000) && decide (0xE2000 ≤ a) && decide (a < 0xE5000) && decide (14 ≤ i) && decide (i < 21) &&
    decide ((livePreds (slotOf (getCore s (coreKey die (o / 0x100000))) ((a - 0xE2000) / 0x600))).length ≤ i - 14)

/-- Write the beats of a tower's image to the domes beside it; a granule keeps its error mark unless all of it is written. -/
def saveTower (w : SaveWho) (s : State) (die : Nat) : State :=
  (List.range towerBeats).foldl (fun t i =>
    if beatSaved w s die i then
      let p := imageBeat (w.off s) die i
      let put := (List.range 8).filter fun j => !predUnused s die (64 * i + 8 * j)
      put.foldl (fun t j => modDome t p.1 fun x => { x with
        mem := mPut x.mem (p.2 + 8 * j) 8 (towerDW w s die (64 * i + 8 * j)).toNat
        poison := if put.length = 8 then clearPoison x.poison p.2 64 else x.poison
        latent := if put.length = 8 then clearPoison x.latent p.2 64 else x.latent }) t
    else t) s

/-- Doubleword at byte offset o of a tower's image as the domes hold it. -/
def imageWord (w : SaveWho) (s : State) (die o : Nat) : Word :=
  let p := imageBeat (w.off s) die (o / 64)
  mWord (getDome s p.1).mem (p.2 + o % 64)

/-! ## What a restore takes from an image -/

/-- A memory of n bytes read as doublewords. -/
def readMem (n : Nat) (f : Nat → Word) : Memory := (List.range (n / 8)).foldl (fun m i => mPut m (8 * i) 8 (f (8 * i)).toNat) []

/-- The circuit of a saved handle. -/
def handleCirc (h : Word) : Option Nat := if h = 0 then none else some (handleKey h)

/-- 64 bytes of an image. -/
def beatAt (f : Nat → Word) (o : Nat) : Vec := BitVec.ofNat 512 ((List.range 8).foldl (fun m j => m + (f (o + 8 * j)).toNat * 2 ^ (64 * j)) 0)

/-- A receive port from the slot state at o and its queue area at q. -/
def readRx (f : Nat → Word) (o q p : Nat) (old : Rx) : Rx :=
  match handleCirc (f (o + 0x10 + 8 * p)) with
  | none => Rx.reset
  | some k =>
    let d := f (o + 0x30 + 8 * p)
    let x := f (o + 0x70 + 8 * p)
    { circ := some k, rbase := bitsAt d 0 19, rlen := bitsAt d 20 14, q := (List.range (min 16 (bitsAt x 0 5))).map fun i => beatAt f (q + 0x400 * p + 64 * i),
      rhead := bitsAt x 5 14, rcount := bitsAt x 19 14, overflow := bitAt x 33, closing := old.closing }

/-- A window from the slot state. -/
def readWin (f : Nat → Word) (o n : Nat) : Win :=
  let a := o + 0xA0 + 32 * n
  match handleCirc (f a) with
  | none => Win.reset
  | some k =>
    let x := f (a + 24)
    ⟨some k, bitsAt (f (a + 8)) 0 19, bitsAt (f (a + 16)) 0 14, bitsAt x 0 14, bitsAt x 16 16, bitAt x 32⟩

/-- A stream from its state at o and its FIFO at q. -/
def readStream (f : Nat → Word) (o q j : Nat) : Stream :=
  let a := o + 0x80 * j
  let x := f (a + 0x48)
  let entry (e : Nat) : FifoEntry :=
    let v : Vec := if j < 4 then (f (q + 0x100 * j + 8 * e)).setWidth 512 else beatAt f (q + 0x100 * j + 64 * e)
    if bitAt (f (a + 0x50)) e then .poison
    else if bitAt (f (a + 0x58)) e then .fault (bitsAt (f (a + 0x60 + e / 8 * 8)) (8 * (e % 8)) 8) (v.setWidth 64)
    else .val v
  let w (i : Nat) : Word := f (a + 8 * i)
  ⟨bitAt x 0, ⟨w 0, w 1, w 2, w 3, w 4, w 5, w 6, w 7⟩, (f (a + 0x40)).toNat,
    (List.range (min (if j < 4 then 32 else 4) (bitsAt x 1 6))).map entry, bitAt x 7, word (bitsAt x 8 24 * 16), none⟩

/-- The waits of a bundle that is restored at step 5: an `mfence` takes its set of commands anew (R242). -/
def refence (f : Inflight) : Inflight :=
  { f with waits := f.waits.map fun w => match w with
    | .commands _ => .refence
    | w => w }

/-- How a saved thread goes on: one parked under cause 9 or 15 as it was, any other parked bundle issues again (R42, R422). -/
def goesOn (th : Thread) (head : Word) : Thread :=
  match bitsAt head 0 3 with
  | 2 => if (bitsAt head 4 4 = 9 ∨ bitsAt head 4 4 = 15) ∧ th.inflight.isSome = true then
      { th with run := .parked, park := none, inflight := th.inflight.map refence }
    else { th with run := .running, park := none, inflight := none, mwait := none }
  | 3 => { th with run := .stopped, park := none, inflight := none, mwait := none }
  | _ => { th with run := .running, park := none, inflight := none, mwait := none }

/-- A slot as its image gives it: `old` as the keep holds it, `slot` as the core has it now. A thread that ended while it was switched out
is not restored (R412). -/
def readSlot (ctx : Nat) (f : Nat → Word) (n : Nat) (old slot : Thread) : Thread :=
  let o := 0xE5000 + 0x200 * n
  let head := f o
  let seq := (f (o + 0x98)).setWidth 16
  if bitsAt head 0 3 = 0 ∨ hasThread old = false then keepH slot { Thread.reset with mcmdSeq := seq }
  else
    let th := { old with
      streams := Vector.ofFn fun j => readStream f (0xF8000 + 0x400 * n) (0xF4000 + 0x800 * n) j.val
      rx := Vector.ofFn fun p => readRx f o (0xE8000 + 0x1000 * n) p.val (getRx old p.val)
      tx := Vector.ofFn fun p => handleCirc (f (o + 0x50 + 8 * p.val))
      win := Vector.ofFn fun p => readWin f o p.val
      mcmdSeq := seq
      crot := f (o + 0x120), cissue := f (o + 0x128), cduty := f (o + 0x130), cstop := f (o + 0x138)
      cpark := Vector.ofFn fun i => f (o + 0x140 + 8 * i.val)
      trcen := f (o + 0x1C0) &&& 0x7F, cntirq := f (o + 0x1C8) &&& 0xFFF
      triggered := bitAt head 8
      used := 0
      gang := old.gang.map fun g => { g with attached := bitAt head 11 }
      dbg := { old.dbg with
        bp0 := f (o + 0x1D0) &&& 0xC00000000FFFFFF0, bp1 := f (o + 0x1D8) &&& 0xC00000000FFFFFF0, wp := f (o + 0x1E0) &&& 0xFFE0FFFFFFFFFFFF
        agent := if bitAt head 12 then tidOf (word (bitsAt (f (o + 8)) 0 18)) else none }
      ctx := ctx }
    keepH slot (goesOn (restoreThread th fun i => f (0xE2000 + 0x600 * n + 8 * i)) head)

/-- The remote request order: the commands that the keep holds, as the image names them. -/
def readRemote (f : Nat → Word) (old : List MCmd) : List MCmd :=
  (List.range (min 8 (bitsAt (f 0xE6048) 0 4))).filterMap fun i =>
    let v := (beatAt f (0xE6080 + 64 * i)).toNat % 2 ^ 320
    old.find? fun m => m.sent.toNat % 2 ^ 320 == v

/-- The number of a bank record's fields. -/
def readBank (w : Word) : Bank := ⟨bitAt w 0, BitVec.ofNat 4 (bitsAt w 4 4), bitsAt w 16 9, bitsAt w 32 9, bitsAt w 8 5⟩

/-- The owner of a tile: a slot that holds a thread. -/
def readOwner (slots : Vector Thread 8) (n : Nat) : Option Nat := if n < 8 ∧ hasThread (vget slots n Thread.reset) = true then some n else none

/-- The landed segments of an image, without their bundles. -/
def readSegs (f : Nat → Word) (ctx region : Nat) : List Segment :=
  (List.range 64).filterMap fun i =>
    let w := f (0xE7000 + 16 * i)
    if bitsAt w 16 13 = 0 then none
    else some ⟨bitsAt w 0 12, bitsAt w 16 13, ⟨if bitAt w 32 then .d else .g, ctx, region, bitsAt w 34 2, (f (0xE7008 + 16 * i)).toNat⟩, []⟩

/-- A core as its image gives it; its segments have still to land. -/
def readCore (ctx : Nat) (f : Nat → Word) (old now : Core) : Core :=
  let slots := Vector.ofFn fun (n : Fin 8) => readSlot ctx f n.val (slotOf old n.val) (slotOf now n.val)
  let remote := readRemote f old.remote
  let mq := old.mq.filter fun m => m.hold.isSome
  { now with
    slots := slots
    tcm := readMem 0x80000 f
    bankMem := readMem 0x40000 fun o => f (0x80000 + o)
    tiles := readMem 0x20000 fun o => f (0xC0000 + o)
    full := (List.range 65536).filterMap fun i => if bitAt (f (0xE0000 + i / 64 * 8)) (i % 64) then some (8 * i) else none
    banks := Vector.ofFn fun j => readBank (f (0xE6000 + 16 * j.val))
    owner := Vector.ofFn fun t => readOwner slots (bitsAt (f 0xE6040) (4 * t.val) 4)
    remote := remote
    gate := remote.map fun m => ⟨none, m.id, if m.kind = .mma then .mma else .plain, false, false⟩
    mnext := old.mnext
    segs := []
    landings := []
    heavy := (mq.filter fun m => m.kind == .mma).length + (slots.toList.map heldLeave).sum
    mq := mq
    written := []
    held := slots.toList.any hasThread }

/-- A cluster as its image gives it. -/
def readCluster (f : Nat → Word) (now : Cluster) : Cluster :=
  { now with
    scratch := readMem 0x400000 f
    written := []
    chans := Vector.ofFn fun c =>
      let w (i : Nat) : Word := f (0x400000 + 64 * c.val + 8 * i)
      ⟨(w 0).toNat, (w 1).toNat, [], if bitAt (w 3) 9 then some ((w 2).toNat, bitsAt (w 3) 0 8, w 4) else none, bitAt (w 3) 8⟩ }

/-- The published counts and the turns of the scheduler of a die as its image gives them. -/
def readDie (ctx : Nat) (f : Nat → Word) (d : Die) : Die :=
  let put (m : List (Nat × Nat)) (k v : Nat) : List (Nat × Nat) := if v = 0 then mapDel m k else mapSet m k v
  { d with
    pd := put d.pd ctx (bitsAt (f 0) 0 32)
    held := (List.range 160).foldl (fun m t => put m (256 * t + ctx) (bitsAt (f (8 + t / 2 * 8)) (32 * (t % 2)) 32)) d.held
    served := (List.range 8).foldl (fun m l => mapSet m (8 * ctx + l) (bitsAt (f 0x688) (8 * l) 8)) d.served }

end Sys2Proof.Machine
end

