-- ==== Sys2Proof/Machine/Switch.lean ====
section
/-! DEFINITION. Scheduled switches of contexts and regions: the switch registers, the warning, the drain, the save, the restore and the
rotation of contexts (spec/21 R419 to R428; spec/02 R41, R42; spec/11 R248; spec/12 R275; spec/17 R372; spec/18 R390, R391). -/

namespace Sys2Proof.Machine

set_option Elab.async false

/-! ## The switch registers (R419, R420) -/

def swArm (w : Word) : Bool := bitAt w 63
def swRev (w : Word) : Nat := bitsAt w 0 40
def swOutr (w : Word) : Nat := bitsAt w 48 6
def swInr (w : Word) : Nat := bitsAt w 40 6
def swOutc (w : Word) : Nat := bitsAt w 48 8
def swInc (w : Word) : Nat := bitsAt w 40 8

/-- WARN of a region, and of a context. -/
def regionWarn (s : State) (ctx r : Nat) : Nat := effBits s ctx r 5 0x28 32 16
def ctxWarn (s : State) (ctx : Nat) : Nat := cBits s ctx 0x28 32 16

/-- Whether a register is armed and its warning has begun. -/
def swLocked (s : State) (w : Word) (warn : Nat) : Bool := swArm w && decide ((swRev w - warn) * s.W ≤ s.wheel)

/-- REV of a write, raised to 64 revolutions ahead. -/
def swRaise (s : State) (v : Word) : Nat := max (swRev v) (revNow s + 64) % 2 ^ 40

/-- SWITCH_SCHEDULE: a write of `switch` with ARM = 1. -/
def switchSchedule (s : State) (ctx : Nat) (v : Word) : State :=
  let c := getCtx s ctx
  let has (r : Nat) : Bool := (mapFind c.regions r).isSome
  if swLocked s c.switch (regionWarn s ctx (swOutr c.switch)) || swOutr v == swInr v || !has (swOutr v) || !has (swInr v) then s
  else modCtx s ctx fun c => { c with
    switch := word (2 ^ 63 + swOutr v * 2 ^ 48 + swInr v * 2 ^ 40 + swRaise s v), warned := false }

def execSwitchSchedule (s : State) : Out := .next (switchSchedule s s.arg.ctx s.arg.v)

/-- SWITCH_CANCEL: a write of `switch` with ARM = 0 before the warning. -/
def switchCancel (s : State) (ctx : Nat) (v : Word) : State :=
  let c := getCtx s ctx
  if swLocked s c.switch (regionWarn s ctx (swOutr c.switch)) then s
  else modCtx s ctx fun c => { c with switch := word (swOutr v * 2 ^ 48 + swInr v * 2 ^ 40 + swRaise s v) }

def execSwitchCancel (s : State) : Out := .next (switchCancel s s.arg.ctx s.arg.v)

/-- Whether `hswitch` takes no write now: the warning has begun, or the write names a member of the running rotation (R428). -/
def hswitchShut (s : State) (v : Word) : Bool :=
  swLocked s s.hswitch (ctxWarn s (swOutc s.hswitch)) || s.sched.contains (swOutc v) || s.sched.contains (swInc v)

/-- Whether a context's towers meet a tower of a running context other than the outgoing one. -/
def towersTaken (s : State) (inc outc : Nat) : Bool :=
  (runningCtxs s).any fun c => c.1 != outc && c.1 != inc && (ctxTowers s inc).any (ctxTower s c.1)

/-- HSWITCH_SCHEDULE: a write of `hswitch` with ARM = 1. -/
def hswitchSchedule (s : State) (v : Word) : State :=
  if hswitchShut s v || !(getCtx s (swOutc v)).installed || !(getCtx s (swInc v)).installed ||
      (swInc v != swOutc v && towersTaken s (swInc v) (swOutc v)) then s
  else { s with hswitch := word (2 ^ 63 + swOutc v * 2 ^ 48 + swInc v * 2 ^ 40 + swRaise s v), hwarned := false }

def execHswitchSchedule (s : State) : Out := .next (hswitchSchedule s s.arg.v)

/-- HSWITCH_CANCEL: a write of `hswitch` with ARM = 0 before the warning. -/
def hswitchCancel (s : State) (v : Word) : State :=
  if hswitchShut s v then s else { s with hswitch := word (swOutc v * 2 ^ 48 + swInc v * 2 ^ 40 + swRaise s v) }

def execHswitchCancel (s : State) : Out := .next (hswitchCancel s s.arg.v)

/-! ## The warning (R420) -/

/-- Source 2 becomes pending in every thread of a set. -/
def warnThreads (s : State) (w : SaveWho) : State :=
  (threadsWhere s w.has).foldl (fun s t => modThread s t fun th => setPending th 2) s

/-- Whether the warning of `hswitch`, or of a context's `switch`, is due. -/
def hwarnDue (s : State) : Bool := !s.hwarned && swLocked s s.hswitch (ctxWarn s (swOutc s.hswitch))
def warnDue (s : State) (ctx : Nat) : Bool :=
  let c := getCtx s ctx
  !c.warned && swLocked s c.switch (regionWarn s ctx (swOutr c.switch))

/-- SWITCH_WARNING at REV − WARN. -/
def switchWarning (s : State) (ctx : Nat) : State :=
  let s := if hwarnDue s && swOutc s.hswitch == ctx then { warnThreads s ⟨ctx, none⟩ with hwarned := true } else s
  if warnDue s ctx then
    modCtx (warnThreads s ⟨ctx, some (swOutr (getCtx s ctx).switch)⟩) ctx fun c => { c with warned := true }
  else s

def execSwitchWarning (s : State) : Out := .next (switchWarning s s.arg.ctx)

/-! ## The drain (R421) -/

/-- What a switch saves. -/
def switchWho (w : Switch) : SaveWho := ⟨w.ctx, w.regions.map (·.1)⟩

/-- Whether a wait is for something that the drain of a switch completes. What follows any other wait would enter something new for
the outgoing threads: an engine takes a transfer, a send queue a beat, a leaf a contribution (R275, R390, R421). -/
def drains : Wait5 → Bool
  | .key .. | .requests .. | .transfers _ | .commands _ | .wheel _ => true
  | .drain | .channel _ | .room _ | .quota _ | .refence | .act _ => false

/-- Whether a bundle that issued earlier has still to complete step 6 or to trap. -/
def restless (s : State) (t : Tid) : Bool :=
  let th := getThread s t
  th.failed.isSome || (th.mwait.any fun m => m.leftAt.isSome) ||
    th.inflight.any fun f => f.waits.all drains && match f.waits with
      | [] => true
      | w :: _ => waitDone s t f.got w

/-- Whether a circuit is of what is saved. -/
def SaveWho.circ (w : SaveWho) (c : Circuit) : Bool :=
  c.ctx == w.ctx && c.mem.isNone && match w.region with
    | some r => c.region == r
    | none => true

/-- Whether a request is of what is saved. -/
def SaveWho.req (w : SaveWho) (ctx region : Nat) : Bool := ctx == w.ctx && (w.region.isNone || w.region == some region)

/-- Whether a launch of what is saved holds a channel. -/
def SaveWho.chan (w : SaveWho) (s : State) (c : SpireChan) : Bool :=
  match c.holder with
  | some (x, h) => x == w.ctx && (w.region.isNone || (getLaunch s x h).any fun l => some (lBits l.blk 0x08 16 6) == w.region)
  | none => false

/-- The cores of what is saved. -/
def SaveWho.cores (w : SaveWho) (s : State) : List Nat :=
  (w.towers s).flatMap fun t => ((List.range 64).filter (w.core s t)).map (coreKey t)

/-- Whether everything accepted for the outgoing threads has completed. -/
def switchDrained (s : State) (w : SaveWho) : Bool :=
  let ts := threadsWhere s w.has
  (ts.all fun t => !restless s t) &&
  (s.dies.all fun d => d.2.reqs.all fun r => !w.req r.ctx r.region || isWaiting r) &&
  ((w.cores s).all fun k => (getCore s k).landings.isEmpty && (getCore s k).mq.all fun m => m.hold.isSome) &&
  (s.clusters.all fun c => c.2.chans.toList.all fun h => h.q.all fun x => !w.req x.ctx x.region) &&
  (s.circuits.all fun c => !w.circ c.2 || ((c.2.inj.all fun b => !engineBeat b) && s.words.all fun f => f.circ != c.1)) &&
  (s.changes.all fun c => !w.circ (getCircuit s c.circ) && match c.reply with
    | some (t, _, _) => !w.has (getThread s t)
    | none => true) &&
  ((mapGet [] s.belfry w.ctx).all fun r => !w.req r.ctx r.region || r.launch.isSome) &&
  (s.spire.all fun c => (c.2.results.all fun r => !w.has (getThread s r.t)) &&
    (!w.chan s c.2 || ((spireFormAt c.2).isNone && c.2.failing.isNone)))

/-! ## The save (R248, R275, R372, R390, R421 to R427) -/

/-- What a thread has asked for and not been given is withdrawn, to be asked again after the restore (R422). -/
def withdrawThread (s : State) (t : Tid) : State :=
  let s := if ((parkedCause (getThread s t)).any fun c => c == 9 || c == 15) then s else withdrawGate s t
  let s := modDie s t.die fun d => { d with reqs := d.reqs.filter fun r => r.tid != t || !isWaiting r || ofEngine r }
  let s := modThread s t fun th => { th with streams := th.streams.map fun x => { x with asked := none } }
  match (getThread s t).mwait with
  | some m =>
    let s := modCircuit s m.circ fun c => { c with inj := c.inj.filter fun b =>
      !(b.src == .tx t m.port && bitsAt b.beat.env 0 4 == 5 && bitsAt b.beat.env 24 16 == m.seq % 2 ^ 16) }
    modThread s t fun th => { th with mwait := none, mcmdSeq := BitVec.ofNat 16 m.seq }
  | none => s

/-- Selected tasks that have not bound go back to the head of their queue. -/
def unselect (s : State) (w : SaveWho) : State :=
  { s with dies := s.dies.map fun d =>
      let mine (k : Task × Nat) : Bool := w.req k.1.ctx k.1.region
      (d.1, { d.2 with queue := (d.2.selected.filter mine).map (·.1) ++ d.2.queue, selected := d.2.selected.filter fun k => !mine k }) }

/-- Where the keep holds the core `key` of what is saved. -/
def shadowKey (w : SaveWho) (key : Nat) : Nat :=
  match w.region with
  | none => key
  | some r => 65536 * (1 + r) + key

/-- The circuits of what is saved leave the slot tables. -/
def takeTables (s : State) (w : SaveWho) : State × List (Nat × Entry) :=
  let nums := (s.circuits.filter fun c => w.circ c.2 && circOpen c.2 s.wheel).map fun c => circNum c.1
  ({ s with slotTab := s.slotTab.filter fun e => !nums.contains e.2.circ }, s.slotTab.filter fun e => nums.contains e.2.circ)

/-- What has been taken of threads that will issue their joins and operations again (R391). -/
def unkey (c : SpireChan) : SpireChan :=
  { c with
    joins := c.joins.map fun j => { j with key := 0 }
    members := c.members.map fun m => { m with contribs := m.contribs.map fun k => { k with key := 0 } } }

/-- The channels that launches of what is saved hold. -/
def takeChannels (s : State) (w : SaveWho) : State × List (Nat × SpireChan) :=
  ({ s with spire := s.spire.map fun c => if w.chan s c.2 then (c.1, { SpireChan.reset with holder := c.2.holder }) else c },
    (s.spire.filter fun c => w.chan s c.2).map fun c => (c.1, unkey c.2))

/-- The launch opens that the belfry has not begun. -/
def takeOpens (s : State) (w : SaveWho) : State × List BelReq :=
  let l := mapGet [] s.belfry w.ctx
  ({ s with belfry := mapSet s.belfry w.ctx (l.filter fun r => !w.req r.ctx r.region) }, l.filter fun r => w.req r.ctx r.region)

/-- What a set that has drained leaves behind: its images in the domes, the rest with the keep and the belfry. -/
def saveSet (s : State) (w : SaveWho) : State :=
  let s := unselect ((threadsWhere s w.has).foldl withdrawThread s) w
  let keys := w.cores s
  let towers := w.towers s
  let s := towers.foldl (saveTower w) s
  let shadows := keys.map fun k => (shadowKey w k, getCore s k)
  let (s, tabs) := takeTables s w
  let (s, chans) := takeChannels s w
  let (s, opens) := takeOpens s w
  let s := towers.foldl slotVacant (keys.foldl (fun s k => modCore s k emptyCore) s)
  let cls := (keys.map fun k => clusterKey (k / 64) (clusterOf (k % 64))).dedup
  let s := cls.foldl (fun s k => modCluster s k emptyCluster) s
  modCtx s w.ctx fun c => { c with
    savedCores := shadows.foldl (fun m x => mapSet m x.1 x.2) c.savedCores
    savedTab := tabs.foldl (fun m x => mapSet m x.1 x.2) c.savedTab
    savedSpire := chans.foldl (fun m x => mapSet m x.1 x.2) c.savedSpire
    savedChanges := c.savedChanges ++ opens
    out := if w.region.isNone then true else c.out
    outRegions := match w.region with
      | some r => setIns c.outRegions r
      | none => c.outRegions
    sinkAt := if w.region.isNone then s.wheel - c.sinkAt else c.sinkAt
    epoch := if w.region.isNone then c.epoch + 1 else c.epoch }

/-! ## How long it takes (R427) -/

/-- Service positions of a dome that two contexts may use. -/
def freePositions (s : State) (a b dome : Nat) : Nat :=
  16 * s.W - (((domeShares s dome).filter fun c => c.1 != a && c.1 != b).map (·.2)).sum

/-- Slots of a link that no other context's circuits own. -/
def freeLane (s : State) (a b link : Nat) : Nat :=
  s.W - 1 - ((s.circuits.filter fun c => circOpen c.2 s.wheel && c.2.ctx != a && c.2.ctx != b).map fun c =>
    (c.2.held.filter fun h => h / 1024 == link).length).sum

/-- The fewest free slots among the lanes of an edge of a tower, on the way to the dome or back. -/
def freeEdge (s : State) (a b die e : Nat) (back : Bool) : Nat :=
  ((List.range 8).map fun lane =>
    let out := 8 * edgeRouter (dieX die) (dieY die) e lane + e
    let link := if back then (match sitePast (dieX die) (dieY die) e with
      | some p => 8 * edgeRouter p.1 p.2 (opposite e) lane + opposite e
      | none => out) else out
    freeLane s a b link).foldl min (s.W - 1)

/-- Revolutions of a transfer between towers and domes, from the bytes of each pair (R427). -/
def transferRevs (s : State) (a b : Nat) (towers : List Nat) (bytes : Nat → Nat → Nat) (back : Bool) : Nat :=
  let domes := (towers.flatMap fun t => (towerDomes t).map (·.1)).dedup
  let byDome := domes.map fun d => ceilDiv ((towers.map fun t => bytes t d).sum) (64 * freePositions s a b d)
  let byEdge := towers.flatMap fun t => (towerDomes t).map fun d => ceilDiv (bytes t d.1) (512 * freeEdge s a b t ((d.2 + 2) % 4) back)
  (byDome ++ byEdge).foldl max 0

/-- Bytes of the beats of a tower's image that go to a dome, among those that a predicate holds of. -/
def imageBytes (die dome : Nat) (p : Nat → Bool) : Nat :=
  64 * ((List.range towerBeats).filter fun i => p i && (imageBeat 0 die i).1 == dome).length

/-- T_s of a save and T_r of a restore, in revolutions. -/
def saveRevs (s : State) (w : SaveWho) (b : Nat) : Nat :=
  transferRevs s w.ctx b (w.towers s) (fun t d => imageBytes t d (beatSaved w s t)) false
def restoreRevs (s : State) (w : SaveWho) (a : Nat) : Nat :=
  let keys := ((getCtx s w.ctx).savedCores.filter fun c => c.1 / 65536 == shadowKey w 0 / 65536).map (·.1 % 65536)
  transferRevs s a w.ctx (w.towers s) (fun t d => imageBytes t d (beatRead w keys t)) true

/-- What a switch brings in. -/
def switchIn (w : Switch) : Option SaveWho :=
  match w.regions with
  | some (_, r) => some ⟨w.ctx, some r⟩
  | none => if w.inc = w.ctx then none else some ⟨w.inc, none⟩

/-- Whether it has been switched out, and so has to be restored. -/
def waitsOut (s : State) (w : SaveWho) : Bool :=
  match w.region with
  | some r => (getCtx s w.ctx).outRegions.contains r
  | none => (getCtx s w.ctx).out

/-- Revolutions of the restore of a switch. -/
def inRevs (s : State) (w : Switch) : Nat :=
  match switchIn w with
  | some i => if waitsOut s i then restoreRevs s i w.ctx else 0
  | none => 0

/-! ## The switch count (R421) -/

/-- Whether `hswitch`, or the `switch` of a running context, is due. -/
def hswitchDue (s : State) : Bool :=
  swArm s.hswitch && decide (swRev s.hswitch * s.W ≤ s.wheel) && s.switching.all fun w => w.regions.isSome || w.ctx != swOutc s.hswitch
def switchDue (s : State) (ctx : Nat) : Bool :=
  let c := getCtx s ctx
  swArm c.switch && decide (swRev c.switch * s.W ≤ s.wheel) && !c.out && s.switching.all fun w => w.ctx != ctx

/-- A switch begins: its threads stop issuing; an outgoing set that is out already has nothing to save. -/
def beginSwitch (s : State) (w : Switch) : State :=
  if waitsOut s (switchWho w) then { s with switching := s.switching ++ [{ w with stage := .save, due := s.wheel + inRevs s w * s.W }] }
  else { s with switching := s.switching ++ [{ w with stage := .drain, due := s.wheel }] }

/-- SCHEDULED_SWITCH at wheel count REV · W: a context's switch before that of its regions. A region switch that is under way is still
armed, and so takes place during the restore of the context (R420). -/
def scheduledSwitch (s : State) (ctx : Nat) : State :=
  if hswitchDue s && swOutc s.hswitch == ctx then
    beginSwitch { s with switching := s.switching.filter fun w => w.ctx != ctx } ⟨ctx, none, swInc s.hswitch, .drain, 0⟩
  else if switchDue s ctx then
    beginSwitch s ⟨ctx, some (swOutr (getCtx s ctx).switch, swInr (getCtx s ctx).switch), ctx, .drain, 0⟩
  else s

def execScheduledSwitch (s : State) : Out := .next (scheduledSwitch s s.arg.ctx)

/-- The switch of a context that is under way. -/
def switchOf (s : State) (ctx : Nat) (stage : SwitchStage) : Option Switch := s.switching.find? fun w => w.ctx == ctx && w.stage == stage

/-- SWITCH_SAVE: the drain has ended; the images are written, and the save and the restore take their time (R427). -/
def switchSave (s : State) (ctx : Nat) : State :=
  match switchOf s ctx .drain with
  | none => s
  | some w =>
    let who := switchWho w
    if switchDrained s who then
      let due := s.wheel + (saveRevs s who w.inc + inRevs s w) * s.W
      let s := saveSet s who
      { s with switching := s.switching.map fun x => if x = w then { w with stage := .save, due := due } else x }
    else s

def execSwitchSave (s : State) : Out := .next (switchSave s s.arg.ctx)

/-! ## The restore (R198, R372, R390, R421, R422) -/

/-- A landed segment lands again from its image; one that fails is not landed (R423). -/
def relandSeg (s : State) (die core : Nat) (g : Segment) : State :=
  match readImage s die g.src 0 64 with
  | (s, .error _) => s
  | (s, .ok hdr) =>
    match landResult s die (getCore s (coreKey die core)) ⟨g.num, hdr, g.src, ⟨die, core, 0⟩, false⟩ with
    | (s, _, some g) => modCore s (coreKey die core) fun c => { c with segs := c.segs ++ [g] }
    | (s, _, none) => s

/-- Whether the image of a core is discarded: it has been quarantined or marked absent meanwhile (R422). -/
def coreGone (s : State) (k : Nat) : Bool := (getCore s k).quarantined || (getDie s (k / 64)).absent.contains (k % 64)

/-- One core is read back; the tasks of one that is gone are returned. -/
def restoreCore (w : SaveWho) (s : State) (k : Nat) : State × List (Nat × Nat) :=
  let die := k / 64
  let old := mapGet Core.reset (getCtx s w.ctx).savedCores (shadowKey w k)
  if coreGone s k then (s, coreTasks old)
  else
    let f (o : Nat) : Word := imageWord w s die (0x100000 * (k % 64) + o)
    let region := w.region.getD (((old.slots.toList.find? hasThread).map (·.region)).getD 0)
    let s := setCore s k (readCore w.ctx f old (getCore s k))
    ((readSegs f w.ctx region).foldl (fun s g => relandSeg s die (k % 64) g) s, [])

/-- The cores that a restore reads. -/
def restoreKeys (w : SaveWho) (s : State) : List Nat :=
  match w.region with
  | none => (w.towers s).flatMap fun t => (List.range 64).map (coreKey t)
  | some r => ((getCtx s w.ctx).savedCores.filter fun c => c.1 / 65536 == 1 + r).map (·.1 % 65536)

/-- What has been saved of a set is in place again; then its faulted tasks end. -/
def restoreSet (s : State) (w : SaveWho) : State :=
  let keys := restoreKeys w s
  let cls := (keys.map fun k => (k / 64, clusterOf (k % 64))).dedup
  let s := cls.foldl (fun s x => modCluster s (clusterKey x.1 x.2) fun c =>
    if c.failed then c else readCluster (fun o => imageWord w s x.1 (clusterBase x.2 + o)) c) s
  let s := if w.region.isSome then s else (w.towers s).foldl (fun s t => modDie s t fun d =>
    readDie w.ctx (fun o => imageWord w s t (dieBase + o)) d) s
  let (s, lost) := keys.foldl (fun (a : State × List (Nat × Nat)) k => let (s, l) := restoreCore w a.1 k; (s, a.2 ++ l)) (s, [])
  let c := getCtx s w.ctx
  let mine (e : Nat × Entry) : Bool := s.circuits.any fun x => w.circ x.2 && circOpen x.2 s.wheel && circNum x.1 == e.2.circ
  let s := { s with
    slotTab := (c.savedTab.filter mine).foldl (fun m e => mapSet m e.1 e.2) s.slotTab
    circuits := s.circuits.map fun x => if w.circ x.2 then (x.1, { x.2 with inj := x.2.inj.map fun b => { b with t0 := max b.t0 s.wheel } }) else x
    spire := (c.savedSpire.filter fun x => w.chan s x.2).foldl (fun m x => mapSet m x.1 x.2) s.spire
    belfry := mapSet s.belfry w.ctx ((c.savedChanges.filter fun r => w.req r.ctx r.region) ++ mapGet [] s.belfry w.ctx) }
  let s := modCtx s w.ctx fun c => { c with
    savedCores := c.savedCores.filter fun x => !(keys.map (shadowKey w)).contains x.1
    savedTab := c.savedTab.filter fun e => !mine e
    savedSpire := c.savedSpire.filter fun x => !w.chan s x.2
    savedChanges := c.savedChanges.filter fun r => !w.req r.ctx r.region
    out := if w.region.isNone then false else c.out
    outRegions := match w.region with
      | some r => setDel c.outRegions r
      | none => c.outRegions
    resumed := revNow s
    sinkAt := if w.region.isNone then s.wheel - c.sinkAt else c.sinkAt
    epoch := if w.region.isNone then c.epoch + 1 else c.epoch }
  (lost.dedup).foldl (fun s x => taskFault s x.1 x.2 1) s

/-- A region switch that was armed while its context was out takes place during the restore (R420). -/
def armedRegion (s : State) (ctx : Nat) : State :=
  let c := getCtx s ctx
  if swArm c.switch && decide (swRev c.switch * s.W ≤ s.wheel) then
    let s := if waitsOut s ⟨ctx, some (swOutr c.switch)⟩ then s else saveSet s ⟨ctx, some (swOutr c.switch)⟩
    let s := if waitsOut s ⟨ctx, some (swInr c.switch)⟩ then restoreSet s ⟨ctx, some (swInr c.switch)⟩ else s
    modCtx s ctx fun c => { c with switch := c.switch &&& ~~~(word (2 ^ 63)) }
  else s

/-- The incoming set of a switch comes in; a context adopts a level that fell due meanwhile (R468). -/
def bringIn (s : State) (w : SaveWho) : State :=
  if waitsOut s w then
    let s := restoreSet s w
    if w.region.isNone then frequencyChange (armedRegion s w.ctx) w.ctx else s
  else s

/-- SWITCH_RESTORE: the save and the restore have taken their time; ARM reads 0. -/
def switchRestore (s : State) (ctx : Nat) : State :=
  match switchOf s ctx .save with
  | none => s
  | some w =>
    if s.wheel < w.due then s
    else
      let s := { s with switching := s.switching.filter (· ≠ w) }
      let s := match switchIn w with
        | some i => bringIn s i
        | none => s
      if w.regions.isSome then modCtx s ctx fun c => { c with switch := c.switch &&& ~~~(word (2 ^ 63)) }
      else { s with hswitch := s.hswitch &&& ~~~(word (2 ^ 63)) }

def execSwitchRestore (s : State) : Out := .next (switchRestore s s.arg.ctx)

/-- Whether the rail of a core carries its context's level (R469). -/
def railCarries (s : State) (k : Nat) : Bool :=
  match (getCore s k).slots.toList.find? hasThread with
  | some th => decide (levelMv (getCtx s th.ctx).level ≤ railMv (vget s.rails (dieY (k / 64) / 2) ⟨550, 0, 550⟩) s.wheel)
  | none => true

/-- CORE_RESUME: a restored core issues again, once its rail carries its level. -/
def coreResume (s : State) (k : Nat) : State :=
  if (getCore s k).held && railCarries s k then modCore s k fun c => { c with held := false } else s

def execCoreResume (s : State) : Out := .next (coreResume s (coreKey s.arg.die s.arg.unit))

/-! ## The rotation of contexts (R428) -/

/-- The running context of the rotation, and the next one in the list. -/
def schedTurn (s : State) : Option (Nat × Nat) :=
  (s.sched.find? fun c => (getCtx s c).installed && !(getCtx s c).out).map fun c =>
    (c, (s.sched[(s.sched.idxOf c + 1) % s.sched.length]?).getD c)

/-- Whether the keep has to write `hswitch` for the rotation. -/
def quantumDue (s : State) : Bool := !swArm s.hswitch && s.switching.isEmpty && (schedTurn s).isSome

/-- SCHED_QUANTUM: the keep writes `hswitch` for the running context, with REV = its resume revolution + its QUANTUM. -/
def schedQuantum (s : State) : State :=
  if quantumDue s then
    match schedTurn s with
    | some (a, b) =>
      let rev := max ((getCtx s a).resumed + cBits s a 0x18 0 32) (revNow s)
      { s with hswitch := word (2 ^ 63 + a * 2 ^ 48 + b * 2 ^ 40 + rev % 2 ^ 40), hwarned := false }
    | none => s
  else s

def execSchedQuantum (s : State) : Out := .next (schedQuantum s)

end Sys2Proof.Machine
end

