-- ==== Sys2Proof/Machine/System.lean ====
section
/-! DEFINITION. The CSR instructions (spec/06_control_traps_and_system.md R114). -/

namespace Sys2Proof.Machine

set_option Elab.async false

/-- The check of mode and the examination of the destination; the old value (R114). -/
def evCsr (w : Option Word) (x : SOp) (n : Nat) : Ev Word := do
  let c ← get
  if mode c.th < csrMode n then evPriv w else pure ()
  examS x
  pure (csrRead c.s c.t n)

/-- Write a CSR: its RW fields take `new`, its W1C fields receive `w1c`. -/
def evCsrWrite (n : Nat) (new w1c : Word) : Ev Unit := evEff (.csr n ((new &&& ~~~csrW1C n) ||| (w1c &&& csrW1C n)))

def execCsrr (g : Guard) (x : SOp) (n : BitVec 12) (s : State) : Out :=
  issueS g (locS x) (do
    let old ← evCsr (encodeS (.csrr g x n)) x n.toNat
    dstS x old) s

def execCsrw (g : Guard) (x ra : SOp) (n : BitVec 12) (s : State) : Out :=
  issueS g (locS x) (do
    let old ← evCsr (encodeS (.csrw g x ra n)) x n.toNat
    let a ← srcS ra
    evCsrWrite n.toNat a a
    dstS x old) s

/-- csrs writes nothing with s0. -/
def execCsrs (g : Guard) (x ra : SOp) (n : BitVec 12) (s : State) : Out :=
  issueS g (locS x) (do
    let old ← evCsr (encodeS (.csrs g x ra n)) x n.toNat
    let a ← srcS ra
    if ra = .s 0 then pure () else evCsrWrite n.toNat (old ||| a) a
    dstS x old) s

/-- csrc writes nothing with s0, and gives W1C fields zero. -/
def execCsrc (g : Guard) (x ra : SOp) (n : BitVec 12) (s : State) : Out :=
  issueS g (locS x) (do
    let old ← evCsr (encodeS (.csrc g x ra n)) x n.toNat
    let a ← srcS ra
    if ra = .s 0 then pure () else evCsrWrite n.toNat (old &&& ~~~a) 0
    dstS x old) s

end Sys2Proof.Machine
end

