-- ==== Sys2Proof/Machine/Tasks.lean ====
section
/-! DEFINITION. Tasks, gangs, interprocessor interrupts, translation fences and belfry requests at issue (spec/15 R323 to R325,
spec/12 R268 to R273, spec/06 R115, R116, spec/17 R358). -/

namespace Sys2Proof.Machine

set_option Elab.async false

/-! ## spawn, lnch, trig (15 R323 to R325) -/

/-- A code address of R101's form. -/
def codeAddrOk (w : Word) : Bool := bitsAt w 28 36 == 0 && bitsAt w 0 4 == 0

def execSpawn (g : Guard) (hard : Bool) (x ra rb : SOp) (s : State) : Out :=
  issueS g (locS x) (do
    examS x
    let a ← srcS ra
    let d ← srcS rb
    let c ← get
    evNeed (bitsAt a 0 5 = 0) 4 a
    evNeed (a.toNat ≤ 0x7FFE0) 6 a
    let m := c.core.tcm
    let w3 := mWord m (a.toNat + 24)
    evNeed (bitsAt w3 7 57 == 0 && !bitAt w3 3 && codeAddrOk (mWord m a.toNat)) 6 a
    let n := bitsAt d 0 8
    evNeed (bitsAt d 8 56 == 0 && (if n = 255 then !hard else ctxTower c.s c.th.ctx n)) 6 d
    let die := if n = 255 then c.t.die else n
    if queueRoom c.s c.th.ctx c.th.region die then pure () else evWait (.quota die)
    evEff (.spawn (memRec m a.toNat) hard die x)) s

def execLnch (g : Guard) (x ra : SOp) (s : State) : Out :=
  issueS g (locS x) (do
    examS x
    let a ← srcS ra
    if bitsAt a 0 6 = 0 then pure () else evTrapAt 5 4 a
    let k ← evKey
    evPost .g .load [wholeAcc a.toNat 64 0 0, wholeAcc (a.toNat + 64) 64 512 0] .plain .th (.bundle k)
    evWait (.key 6 k)
    evEff (.launch a k x)) s

def execTrig (g : Guard) (s : State) : Out :=
  issueS g [] (do
    let c ← get
    let ids := fenceWrites c.s c.t .cx
    if ids.isEmpty then pure () else evWait (.requests 15 ids)
    evEff .trig) s

/-! ## Gangs (12 R268 to R273) -/

def execGang (g : Guard) (k : BitVec 2) (s : State) : Out :=
  issueS g [] (do
    let c ← get
    match c.th.gang with
    | none => evPark 14 (word k.toNat) (.gangForm k.toNat)
    | some x => if x.forming && x.k == k.toNat then evEff (.gang k.toNat) else evTrap 6 (word k.toNat)) s

def execSplit (g : Guard) (s : State) : Out := issueS g [] (evEff .split) s

/-- join parks a detached follower until the leader issues its bundle (R272). -/
def execJoin (g : Guard) (s : State) : Out :=
  issueS g [] (do
    let c ← get
    match c.th.gang with
    | none => pure ()
    | some x => if x.attached || gangLeader c.t x.k == c.t then pure () else evPark 14 0 .join) s

/-! ## ipi and sfence (06 R115, R116) -/

/-- The slot an `ipi` names, where every field lies in its range (R115). -/
def ipiTarget (s : State) (w : Word) : Option Tid := if bitsAt w 24 40 = 0 ∧ bitsAt w 18 6 = s.modNo then tidOf w else none

def execIpi (g : Guard) (ra : SOp) (code : BitVec 8) (s : State) : Out :=
  issueS g [] (do
    let c ← get
    if mode c.th = 0 then evPriv (encodeS (.ipi g ra code))
    else do
      let w ← srcS ra
      match ipiTarget c.s w with
      | none => evTrap 6 w
      | some u =>
        let x := getThread c.s u
        evNeed (mode c.th == 3 || (hasThread x && x.ctx == c.th.ctx)) 6 w
        evEff (.ipi w code)) s

/-- The selector of `sfence`: every region, or one (R116). -/
def sfenceOk (h : Bool) (w : Word) : Bool :=
  w == BitVec.allOnes 64 || (if h then bitsAt w 16 48 == 0 && bitsAt w 6 2 == 0 else w.toNat < 64)

def execSfence (g : Guard) (ra rb : SOp) (s : State) : Out :=
  issueS g [] (do
    let c ← get
    if mode c.th = 0 then evPriv (encodeS (.sfence g ra rb))
    else do
      let v ← srcS ra
      let w ← srcS rb
      let h := mode c.th == 3
      evNeed (sfenceOk h w) 6 w
      evFence .all .cx
      evWait (.act (.sfence v.toNat
        (if h then (if w = BitVec.allOnes 64 then 256 else bitsAt w 8 8) else c.th.ctx)
        (if w = BitVec.allOnes 64 then 64 else bitsAt w 0 6) h))) s

/-! ## cmreq (17 R358) -/

def execCmreq (g : Guard) (x ra : SOp) (s : State) : Out :=
  issueS g (locS x) (do
    examS x
    let a ← srcS ra
    if bitsAt a 0 6 = 0 then pure () else evTrapAt 5 4 a
    let c ← get
    let k ← evKey
    evPost .g .cm [wholeAcc a.toNat 64 0 0] .plain .th (.belfry k)
    evWait (.key 6 k)
    match x with
    | .s r => evEff (.sregOf r.toNat k 8 false c.th.pc)
    | .port n => evEff (.pushOf n.toNat k)) s

end Sys2Proof.Machine
end

