-- ==== Sys2Proof/Machine/Threads.lean ====
section
/-! DEFINITION. The events of one thread slot: waking, timeouts, interrupts, interprocessor interrupts, the duty gate, gangs forming,
rotation slots that issue nothing, and the debugger (spec/06 R112, R115; spec/07 R122 to R127; spec/12 R269; spec/24 R447 to R453,
R460). -/

namespace Sys2Proof.Machine

set_option Elab.async false

/-! ## The duty gate (R122, R124) -/

/-- Whether the core's current rotation is open. -/
def rotOpen (c : Core) : Bool := (c.rot % 16 + 1) * c.duty / 16 - c.rot % 16 * c.duty / 16 == 1

/-- DUTY_TAKES_EFFECT: at a rotation whose j is 0 the value of the power tree takes effect. -/
def dutyTakesEffect (s : State) (die core : Nat) : State :=
  let k := coreKey die core
  let c := getCore s k
  match c.dutyNext with
  | some d => if c.rot % 16 = 0 then setCore s k { c with duty := d, dutyNext := none } else s
  | none => s

def execDutyTakesEffect (s : State) : Out := .next (dutyTakesEffect s s.arg.die s.arg.unit)

/-! ## Waking (R123, R125, R126) -/

/-- Whether the condition that ends a park at step 4 holds (R125). -/
def wakeHolds (s : State) (t : Tid) (p : Park) : Bool :=
  let th := getThread s t
  let c := getCore s (tidKey t)
  match p.wake with
  | .sFilled r => (streamS th r).isSome || getFeS th r != .empty
  | .vFilled r => (streamV th r).isSome || getFeV th r != .empty
  | .sReplied r => getFeS th r != .pending
  | .vReplied r => getFeV th r != .pending
  | .word _ => p.woken
  | .inq n need =>
    let r := getRx th n
    r.circ.isNone || r.overflow || decide (need ≤ r.q.length + r.rcount)
  | .outq n => (match liveCirc s (getTx th n) with
    | some k => txRoom s t n k
    | none => true)
  | .outqEmpty n => (match liveCirc s (getTx th n) with
    | some k => waitingBeats s k (.tx t n) == 0
    | none => true)
  | .win n => (match liveCirc s (getWin th n).circ with
    | some k => winRoom s t n k
    | none => true)
  | .stream j need =>
    let x := getStream th j
    let tag := recTagen x.rcd && !x.checked
    !x.on || (if tag && !isFull c (tagAddr x.rcd) then false
      else (tag && !tagMatches c x.rcd) || decide (need ≤ x.fifo.length))
  | .leave => (match c.gate.find? (ofSyllable t.slot p.slotV) with
    | some g => gatePasses c t.slot p.slotV g.kind
    | none => true)
  | .event mask => pendingBits th &&& mask.toNat != 0
  | .engine ch n => decide (n ≤ (getChan s (tidCluster t) ch).done)
  | .phase die k => decide (k ≤ heldCount s t.die die th.ctx)
  | .commands ids => c.mq.all fun m => !ids.contains m.id
  | .tile i => !tileTaken c t.slot i
  | .gangForm _ => th.gang.isSome
  | .join => (match th.gang with
    | some g => g.attached
    | none => true)

/-- Whether the bundle of a thread that waits at step 5 can go on. -/
def waitGoesOn (s : State) (t : Tid) (f : Inflight) : Bool :=
  match f.waits with
  | [] => true
  | w :: _ => waitDone s t f.got w

/-- PARK_WAKE: a fault that has come is taken, a bundle at step 5 goes on, or a park at step 4 ends and the thread's bundle issues
again in this slot (R123, R193). -/
def parkWake (s : State) (t : Tid) : State :=
  let th := getThread s t
  if th.run ≠ .parked then s
  else match th.failed, th.inflight, th.park with
    | some (cause, tval, v), _, _ => takeTrap s t cause tval v 0 false
    | none, some f, _ => if waitGoesOn s t f then resumeBundle s t else s
    | none, none, some p =>
      if wakeHolds s t p then modThread (endPark s t) t fun th => { th with park := some { p with woken := true } } else s
    | none, none, none => s

def execParkWake (s : State) : Out := .next (parkWake s s.arg.t)

/-- Whether a park has timed out (R127). -/
def timedOut (th : Thread) : Bool :=
  match th.run, th.park, th.inflight with
  | .parked, some p, none =>
    (p.cause == 0 || p.cause == 2 || p.cause == 3 || p.cause == 5) && th.felimit != 0 && decide (th.felimit.toNat ≤ p.bounds)
  | _, _, _ => false

/-- FE_TIMEOUT: the trap of a park that has spanned `felimit` revolution boundaries (R127). -/
def feTimeout (s : State) (t : Tid) : State :=
  let th := getThread s t
  match th.park with
  | some p => if timedOut th then takeTrap s t 8 p.operand p.slotV 0 false else s
  | none => s

def execFeTimeout (s : State) : Out := .next (feTimeout s s.arg.t)

/-! ## Interrupts (R112, R115) -/

/-- Whether a thread may take an interrupt now: it runs, or is parked at step 4. -/
def interruptible (th : Thread) : Bool :=
  match th.run with
  | .running => true
  | .parked => th.inflight.isNone
  | _ => false

/-- INTERRUPT: the lowest due source is taken, H before S; a park is abandoned (R112). -/
def takeInterrupt (s : State) (t : Tid) : State :=
  let th := getThread s t
  match dueInterrupt th with
  | some (src, h) =>
    if interruptible th then
      let s := detachGang (withdrawGate (endPark s t) t) t
      let s := modThread s t fun th =>
        { interruptThread (countSlot th .issue) src h with
          run := .running
          park := none
          tileWait := none
          dbg := { th.dbg with skipOnce := false } }
      afterBundle (emitTrace s t th.pc 1 (src + 128) 0) t
    else s
  | none => s

def execInterrupt (s : State) : Out := .next (takeInterrupt s s.arg.t)

/-- A delivered `ipi`: the pending bit of source 0, or of 1 from H, and its code ORed into ICODE or HICODE (R115, R119). -/
def ipiThread (th : Thread) (fromH : Bool) (code : BitVec 8) : Thread :=
  let th := setPending th (if fromH then 1 else 0)
  if fromH then { th with hstatus := th.hstatus ||| word (code.toNat * 2 ^ 32) }
  else { th with status := th.status ||| word (code.toNat * 2 ^ 32) }

/-- IPI_DELIVERY of the i-th interrupt on its way, which is the oldest of its sender and target; a slot with no thread discards it. -/
def ipiDelivery (s : State) (i : Nat) : State :=
  match s.ipis[i]? with
  | none => s
  | some (a, b, h, code) =>
    if (s.ipis.take i).any fun x => x.1 == a && x.2.1 == b then s
    else
      let s := { s with ipis := s.ipis.eraseIdx i }
      if hasThread (getThread s b) ∧ (getCore s (tidKey b)).quarantined = false then modThread s b fun th => ipiThread th h code else s

def execIpiDelivery (s : State) : Out := .next (ipiDelivery s s.arg.i)

/-! ## Gangs (R269) -/

/-- The size for which a thread waits in `gang`. -/
def gangWait (th : Thread) : Option Nat :=
  match th.run, th.park with
  | .parked, some p => (match p.wake with
    | .gangForm k => if th.gang.isNone then some k else none
    | _ => none)
  | _, _ => none

/-- Whether a member's slot ends the wait of a gang: it holds no thread of the task, or waits for another size. -/
def gangOffends (s : State) (me : Thread) (k : Nat) (m : Tid) : Bool :=
  let th := getThread s m
  !hasThread th || th.ctx != me.ctx || th.task != me.task || (match gangWait th with
    | some j => j != k
    | none => false)

/-- GANG_FORM: the gang of a waiting thread forms, or its waiting members trap with the local index of the core that offends. -/
def gangForm (s : State) (t : Tid) : State :=
  let me := getThread s t
  match gangWait me with
  | none => s
  | some k =>
    let ms := gangMembers t k
    match ms.find? (gangOffends s me k) with
    | some m =>
      ms.foldl (fun s u => if (gangWait (getThread s u)).isSome then failWait s u 6 (word (localIdx m.core)) false else s) s
    | none =>
      if ms.all fun u => gangWait (getThread s u) == some k then
        ms.foldl (fun s u => modThread s u fun th => { th with gang := some ⟨k, true, true, 0⟩ }) s
      else s

def execGangForm (s : State) : Out := .next (gangForm s s.arg.t)

/-! ## Rotation slots that issue nothing (R122, R270, R460) -/

/-- Bundles that a leader has forwarded: those it has completed, and one that waits at step 5 (R270, R421). -/
def gangIssued (g : Gang) (th : Thread) : Nat := g.count + if th.inflight.isSome then 1 else 0

/-- Whether lock-step holds back a Running thread: a leader until every attached follower has completed the bundle before, a follower
until its leader has issued this one. A follower that parks holds the gang back, and one whose leader has ended the gang goes on
(R270, R273). -/
def lockHeld (s : State) (t : Tid) : Bool :=
  match (getThread s t).gang with
  | none => false
  | some g =>
    if !g.attached || g.forming then false
    else if gangLeader t g.k = t then
      (gangMembers t g.k).any fun m => m != t && match (getThread s m).gang with
        | some h => h.k == g.k && h.attached && decide (h.count < g.count)
        | none => false
    else
      let l := getThread s (gangLeader t g.k)
      match l.gang with
      | some h => h.k == g.k && decide (gangIssued h l ≤ g.count)
      | none => false

/-- ROTATION_SLOT: a slot in which its thread issues nothing adds to `crot` and to the counter of the reason (R460). -/
def rotationSlot (s : State) (t : Tid) : State :=
  let th := getThread s t
  let c := getCore s (tidKey t)
  if !hasThread th then s
  else if !rotOpen c then modThread s t fun th => countSlot th .duty
  else match th.run with
    | .stopped => modThread s t fun th => countSlot th .stop
    | .parked => (match parkedCause th with
      | some k => modThread s t fun th => countSlot th (.park k)
      | none => s)
    | _ => if lockHeld s t then modThread s t fun th => countSlot th (.park 14) else s

def execRotationSlot (s : State) : Out := .next (rotationSlot s s.arg.t)

/-! ## The debugger (R448 to R452) -/

/-- STOP (R448): a Running thread and a thread parked at step 4 stop now, one at step 5 when its bundle is done. -/
def debugStop (s : State) (u : Tid) : State :=
  let th := getThread s u
  match th.run with
  | .running => stopThreadNow s u 0 0
  | .parked => if th.inflight.isSome then modThread s u fun th => { th with dbg := { th.dbg with stopReq := some 0 } } else stopThreadNow s u 0 0
  | _ => s

/-- RESUME and STEP make a Stopped thread Running (R448, R449, R452). -/
def debugResume (s : State) (u : Tid) (stepping : Bool) : State :=
  let th := getThread s u
  if th.run = .stopped then
    emitTrace (modThread s u fun th => { th with run := .running, dbg := { th.dbg with stepping := stepping, skipOnce := true } })
      u th.pc 5 0 0
  else s

/-- A command of `dbgctl` by its agent on the thread that `dbgsel` names (R448). -/
def debugCommand (s : State) (agent : Tid) (f : State → Tid → State) : State :=
  match dbgTarget s (getThread s agent) with
  | some u => f s u
  | none => s

def execStop (s : State) : Out := .next (debugCommand s s.arg.t debugStop)
def execResume (s : State) : Out := .next (debugCommand s s.arg.t fun s u => debugResume s u false)
def execStepThread (s : State) : Out := .next (debugCommand s s.arg.t fun s u => debugResume s u true)
def execClaim (s : State) : Out :=
  .next (debugCommand s s.arg.t fun s' u => modThread s' u fun th => { th with dbg := { th.dbg with agent := some s.arg.t } })
def execRelease (s : State) : Out :=
  .next (debugCommand s s.arg.t fun s u => modThread s u fun th => { th with dbg := { th.dbg with agent := none } })

/-- DBGDATA_ACCESS: a write of a doubleword of a Stopped target; a read changes nothing (R450). -/
def debugData (s : State) (agent : Tid) (w : Option Word) : State :=
  match w with
  | none => s
  | some v => debugCommand s agent fun s u =>
      if (getThread s u).run = .stopped then
        modThread s u fun th => setDebugDW th (bitsAt (getThread s agent).dbgidx 3 8) v
      else s

def execDbgdataAccess (s : State) : Out := .next (debugData s s.arg.t s.arg.w)

/-- The breakpoint that matches at a thread's pc, with its action (R452). -/
def breakMatch (th : Thread) : Option (Nat × Bool) :=
  let hit (w : Word) : Bool := bitAt w 63 && bitsAt w 4 24 == bitsAt th.pc 4 24
  if th.dbg.skipOnce then none
  else if hit th.dbg.bp0 then some (0, bitAt th.dbg.bp0 62)
  else if hit th.dbg.bp1 then some (1, bitAt th.dbg.bp1 62)
  else none

end Sys2Proof.Machine
end

