-- ==== Sys2Proof/Machine/Dispatch.lean ====
section
/-! DEFINITION. The machine's instructions: one arm for each constructor of Instr. -/

namespace Sys2Proof.Machine

def exec (i : Instr) (s : State) : Host.Outcome State Fault Refusal :=
  match i with
  | .nop g => Sys2Proof.Machine.execNop g s
  | .plive g mask => Sys2Proof.Machine.execPlive g mask s
  | .add g rd ra b => Sys2Proof.Machine.execAdd g rd ra b s
  | .sub g rd ra b => Sys2Proof.Machine.execSub g rd ra b s
  | .mul g rd ra b => Sys2Proof.Machine.execMul g rd ra b s
  | .mulh g uns rd ra b => Sys2Proof.Machine.execMulh g uns rd ra b s
  | .div g uns rd ra b => Sys2Proof.Machine.execDiv g uns rd ra b s
  | .rem g uns rd ra b => Sys2Proof.Machine.execRem g uns rd ra b s
  | .madd g rd ra rb rc => Sys2Proof.Machine.execMadd g rd ra rb rc s
  | .and g rd ra b => Sys2Proof.Machine.execAnd g rd ra b s
  | .or g rd ra b => Sys2Proof.Machine.execOr g rd ra b s
  | .xor g rd ra b => Sys2Proof.Machine.execXor g rd ra b s
  | .andn g rd ra b => Sys2Proof.Machine.execAndn g rd ra b s
  | .orn g rd ra b => Sys2Proof.Machine.execOrn g rd ra b s
  | .xnor g rd ra b => Sys2Proof.Machine.execXnor g rd ra b s
  | .sll g rd ra b => Sys2Proof.Machine.execSll g rd ra b s
  | .srl g rd ra b => Sys2Proof.Machine.execSrl g rd ra b s
  | .sra g rd ra b => Sys2Proof.Machine.execSra g rd ra b s
  | .rol g rd ra b => Sys2Proof.Machine.execRol g rd ra b s
  | .ror g rd ra b => Sys2Proof.Machine.execRor g rd ra b s
  | .clz g rd ra => Sys2Proof.Machine.execClz g rd ra s
  | .ctz g rd ra => Sys2Proof.Machine.execCtz g rd ra s
  | .popc g rd ra => Sys2Proof.Machine.execPopc g rd ra s
  | .brev g rd ra => Sys2Proof.Machine.execBrev g rd ra s
  | .bswap g rd ra => Sys2Proof.Machine.execBswap g rd ra s
  | .abs g rd ra => Sys2Proof.Machine.execAbs g rd ra s
  | .bext g sx rd ra b => Sys2Proof.Machine.execBext g sx rd ra b s
  | .bins g rd ra b => Sys2Proof.Machine.execBins g rd ra b s
  | .sext g rd ra n => Sys2Proof.Machine.execSext g rd ra n s
  | .zext g rd ra n => Sys2Proof.Machine.execZext g rd ra n s
  | .min g uns rd ra b => Sys2Proof.Machine.execMin g uns rd ra b s
  | .max g uns rd ra b => Sys2Proof.Machine.execMax g uns rd ra b s
  | .shadd g k rd ra b => Sys2Proof.Machine.execShadd g k rd ra b s
  | .li g rd imm => Sys2Proof.Machine.execLi g rd imm s
  | .lih g rd imm => Sys2Proof.Machine.execLih g rd imm s
  | .mov g rd ra => Sys2Proof.Machine.execMov g rd ra s
  | .sel g q rd ra rb => Sys2Proof.Machine.execSel g q rd ra rb s
  | .cmp g pd pe m cond ra rb => Sys2Proof.Machine.execCmp g pd pe m cond ra rb s
  | .cmpi g pd pe m cond ra imm => Sys2Proof.Machine.execCmpi g pd pe m cond ra imm s
  | .ptt g pd pe m tt qa qb qc => Sys2Proof.Machine.execPtt g pd pe m tt qa qb qc s
  | .pmov g pd ra => Sys2Proof.Machine.execPmov g pd ra s
  | .pget g rd qa => Sys2Proof.Machine.execPget g rd qa s
  | .pany g pd pe m qa lw => Sys2Proof.Machine.execPany g pd pe m qa lw s
  | .pall g pd pe m qa lw => Sys2Proof.Machine.execPall g pd pe m qa lw s
  | .pcnt g rd qa lw => Sys2Proof.Machine.execPcnt g rd qa lw s
  | .pfirst g rd qa lw => Sys2Proof.Machine.execPfirst g rd qa lw s
  | .br g off => Sys2Proof.Machine.execBr g off s
  | .call g off => Sys2Proof.Machine.execCall g off s
  | .loop g ra off => Sys2Proof.Machine.execLoop g ra off s
  | .jmp g ra => Sys2Proof.Machine.execJmp g ra s
  | .callr g ra => Sys2Proof.Machine.execCallr g ra s
  | .ret g => Sys2Proof.Machine.execRet g s
  | .jf g seg entry => Sys2Proof.Machine.execJf g seg entry s
  | .callf g seg entry => Sys2Proof.Machine.execCallf g seg entry s
  | .trap g code => Sys2Proof.Machine.execTrap g code s
  | .brk g code => Sys2Proof.Machine.execBrk g code s
  | .eret g => Sys2Proof.Machine.execEret g s
  | .halt g => Sys2Proof.Machine.execHalt g s
  | .wfe g mask => Sys2Proof.Machine.execWfe g mask s
  | .tmark g m => Sys2Proof.Machine.execTmark g m s
  | .csrr g x csr => Sys2Proof.Machine.execCsrr g x csr s
  | .csrw g x ra csr => Sys2Proof.Machine.execCsrw g x ra csr s
  | .csrs g x ra csr => Sys2Proof.Machine.execCsrs g x ra csr s
  | .csrc g x ra csr => Sys2Proof.Machine.execCsrc g x ra csr s
  | .ipi g ra code => Sys2Proof.Machine.execIpi g ra code s
  | .sfence g ra rb => Sys2Proof.Machine.execSfence g ra rb s
  | .cfetch g sp ra seg => Sys2Proof.Machine.execCfetch g sp ra seg s
  | .ld g sp wd sx ord sco d ra m => Sys2Proof.Machine.execLd g sp wd sx ord sco d ra m s
  | .st g sp wd ord sco d ra m => Sys2Proof.Machine.execSt g sp wd ord sco d ra m s
  | .vld g sp ord sco d ra m => Sys2Proof.Machine.execVld g sp ord sco d ra m s
  | .vst g sp ord sco d ra m => Sys2Proof.Machine.execVst g sp ord sco d ra m s
  | .vlds g sp wd ord sco d ra rb => Sys2Proof.Machine.execVlds g sp wd ord sco d ra rb s
  | .vsts g sp wd ord sco d ra rb => Sys2Proof.Machine.execVsts g sp wd ord sco d ra rb s
  | .vldx g ord sco d ra rb => Sys2Proof.Machine.execVldx g ord sco d ra rb s
  | .vstx g ord sco d ra rb => Sys2Proof.Machine.execVstx g ord sco d ra rb s
  | .ldfe g ord sco d ra m => Sys2Proof.Machine.execLdfe g ord sco d ra m s
  | .ldff g ord sco d ra m => Sys2Proof.Machine.execLdff g ord sco d ra m s
  | .stef g ord sco d ra m => Sys2Proof.Machine.execStef g ord sco d ra m s
  | .stff g ord sco d ra m => Sys2Proof.Machine.execStff g ord sco d ra m s
  | .fest g f ra rb sc => Sys2Proof.Machine.execFest g f ra rb sc s
  | .amo g op sp w64 ord sco d ra rb => Sys2Proof.Machine.execAmo g op sp w64 ord sco d ra rb s
  | .cas g sp w64 ord sco d ra rb => Sys2Proof.Machine.execCas g sp w64 ord sco d ra rb s
  | .fence g k sco => Sys2Proof.Machine.execFence g k sco s
  | .seal g sp ra rb => Sys2Proof.Machine.execSeal g sp ra rb s
  | .unseal g sp d ra rb => Sys2Proof.Machine.execUnseal g sp d ra rb s
  | .publish g sp ra => Sys2Proof.Machine.execPublish g sp ra s
  | .rfill g x port tgt => Sys2Proof.Machine.execRfill g x port tgt s
  | .remp g x => Sys2Proof.Machine.execRemp g x s
  | .bind g ra rb sel => Sys2Proof.Machine.execBind g ra rb sel s
  | .unbind g sel => Sys2Proof.Machine.execUnbind g sel s
  | .winb g ra n => Sys2Proof.Machine.execWinb g ra n s
  | .sbind g x ra => Sys2Proof.Machine.execSbind g x ra s
  | .sunbind g x => Sys2Proof.Machine.execSunbind g x s
  | .mark g ra n => Sys2Proof.Machine.execMark g ra n s
  | .cpy g x ra rb ch => Sys2Proof.Machine.execCpy g x ra rb ch s
  | .cpyr g i32 x ra rb ch => Sys2Proof.Machine.execCpyr g i32 x ra rb ch s
  | .twait g ra ch => Sys2Proof.Machine.execTwait g ra ch s
  | .tstat g x ch => Sys2Proof.Machine.execTstat g x ch s
  | .mcmd g x ra rb n => Sys2Proof.Machine.execMcmd g x ra rb n s
  | .spawn g hard x ra rb => Sys2Proof.Machine.execSpawn g hard x ra rb s
  | .lnch g x ra => Sys2Proof.Machine.execLnch g x ra s
  | .trig g => Sys2Proof.Machine.execTrig g s
  | .setph g ra => Sys2Proof.Machine.execSetph g ra s
  | .waitph g ra rb => Sys2Proof.Machine.execWaitph g ra rb s
  | .gang g k => Sys2Proof.Machine.execGang g k s
  | .split g => Sys2Proof.Machine.execSplit g s
  | .join g => Sys2Proof.Machine.execJoin g s
  | .cmreq g x ra => Sys2Proof.Machine.execCmreq g x ra s
  | .vadd g ty rm sat vd va b => Sys2Proof.Machine.execVadd g ty rm sat vd va b s
  | .vsub g ty rm sat vd va b => Sys2Proof.Machine.execVsub g ty rm sat vd va b s
  | .vmul g ty rm sat vd va b => Sys2Proof.Machine.execVmul g ty rm sat vd va b s
  | .vmulh g ty vd va b => Sys2Proof.Machine.execVmulh g ty vd va b s
  | .vfma g ty rm sat vd va b vc => Sys2Proof.Machine.execVfma g ty rm sat vd va b vc s
  | .vfms g ty rm sat vd va b vc => Sys2Proof.Machine.execVfms g ty rm sat vd va b vc s
  | .vfnma g ty rm sat vd va b vc => Sys2Proof.Machine.execVfnma g ty rm sat vd va b vc s
  | .vmin g ty vd va b => Sys2Proof.Machine.execVmin g ty vd va b s
  | .vmax g ty vd va b => Sys2Proof.Machine.execVmax g ty vd va b s
  | .vabs g ty sat vd va => Sys2Proof.Machine.execVabs g ty sat vd va s
  | .vneg g ty sat vd va => Sys2Proof.Machine.execVneg g ty sat vd va s
  | .vdiv g ty rm sat vd va b => Sys2Proof.Machine.execVdiv g ty rm sat vd va b s
  | .vsqrt g ty rm sat vd va => Sys2Proof.Machine.execVsqrt g ty rm sat vd va s
  | .vrcp g ty rm sat vd va => Sys2Proof.Machine.execVrcp g ty rm sat vd va s
  | .vrsq g ty rm sat vd va => Sys2Proof.Machine.execVrsq g ty rm sat vd va s
  | .vexp2 g ty rm sat vd va => Sys2Proof.Machine.execVexp2 g ty rm sat vd va s
  | .vlog2 g ty rm sat vd va => Sys2Proof.Machine.execVlog2 g ty rm sat vd va s
  | .vsigm g ty rm sat vd va => Sys2Proof.Machine.execVsigm g ty rm sat vd va s
  | .vsilu g ty rm sat vd va => Sys2Proof.Machine.execVsilu g ty rm sat vd va s
  | .vand g ty vd va b => Sys2Proof.Machine.execVand g ty vd va b s
  | .vor g ty vd va b => Sys2Proof.Machine.execVor g ty vd va b s
  | .vxor g ty vd va b => Sys2Proof.Machine.execVxor g ty vd va b s
  | .vandn g ty vd va b => Sys2Proof.Machine.execVandn g ty vd va b s
  | .vsll g ty vd va b => Sys2Proof.Machine.execVsll g ty vd va b s
  | .vsrl g ty vd va b => Sys2Proof.Machine.execVsrl g ty vd va b s
  | .vsra g ty vd va b => Sys2Proof.Machine.execVsra g ty vd va b s
  | .vclz g ty vd va => Sys2Proof.Machine.execVclz g ty vd va s
  | .vpopc g ty vd va => Sys2Proof.Machine.execVpopc g ty vd va s
  | .vcmp g pd pe m cond ty va b => Sys2Proof.Machine.execVcmp g pd pe m cond ty va b s
  | .vclass g ty vd va => Sys2Proof.Machine.execVclass g ty vd va s
  | .vmov g vd va => Sys2Proof.Machine.execVmov g vd va s
  | .vbc g ty vd sr => Sys2Proof.Machine.execVbc g ty vd sr s
  | .vext g ty sr va imm => Sys2Proof.Machine.execVext g ty sr va imm s
  | .vins g ty vd sr imm => Sys2Proof.Machine.execVins g ty vd sr imm s
  | .vperm g ty vd va vb => Sys2Proof.Machine.execVperm g ty vd va vb s
  | .vrot g ty vd va b => Sys2Proof.Machine.execVrot g ty vd va b s
  | .vzip g ty hi vd va vb => Sys2Proof.Machine.execVzip g ty hi vd va vb s
  | .vuzp g ty hi vd va vb => Sys2Proof.Machine.execVuzp g ty hi vd va vb s
  | .vcvt g ty tys rm sat vd va q => Sys2Proof.Machine.execVcvt g ty tys rm sat vd va q s
  | .vscl g ty tys rm sat vd va vb q => Sys2Proof.Machine.execVscl g ty tys rm sat vd va vb q s
  | .vdot g ty tys rm vd va vb => Sys2Proof.Machine.execVdot g ty tys rm vd va vb s
  | .vredadd g ty rm sat vd va => Sys2Proof.Machine.execVredadd g ty rm sat vd va s
  | .vredmax g ty vd va => Sys2Proof.Machine.execVredmax g ty vd va s
  | .vredmin g ty vd va => Sys2Proof.Machine.execVredmin g ty vd va s
  | .vscan g ty vd va sr => Sys2Proof.Machine.execVscan g ty vd va sr s
  | .vrng g ty vd sr st => Sys2Proof.Machine.execVrng g ty vd sr st s
  | .vaccrd g t sa vd gr => Sys2Proof.Machine.execVaccrd g t sa vd gr s
  | .vaccwr g t sa vs gr => Sys2Proof.Machine.execVaccwr g t sa vs gr s
  | .vacczr g t => Sys2Proof.Machine.execVacczr g t s
  | .mldb g bm sa => Sys2Proof.Machine.execMldb g bm sa s
  | .mma g t bm sa => Sys2Proof.Machine.execMma g t bm sa s
  | .mclaim g t => Sys2Proof.Machine.execMclaim g t s
  | .mrel g t => Sys2Proof.Machine.execMrel g t s
  | .mfence g => Sys2Proof.Machine.execMfence g s
  | .spjoin g ch sr => Sys2Proof.Machine.execSpjoin g ch sr s
  | .spscan g ord ch vd va sr => Sys2Proof.Machine.execSpscan g ord ch vd va sr s
  | .spred g ord ch vd va sr => Sys2Proof.Machine.execSpred g ord ch vd va sr s
  | .spbar g ord ch => Sys2Proof.Machine.execSpbar g ord ch s
  | .spbc g ord ch vd va sr => Sys2Proof.Machine.execSpbc g ord ch vd va sr s
  | .lanternLdr d a imm => Sys2Proof.Machine.execLanternLdr d a imm s
  | .lanternLdi d a imm => Sys2Proof.Machine.execLanternLdi d a imm s
  | .lanternAdd d a b => Sys2Proof.Machine.execLanternAdd d a b s
  | .lanternAnd d a b => Sys2Proof.Machine.execLanternAnd d a b s
  | .lanternOr d a b => Sys2Proof.Machine.execLanternOr d a b s
  | .lanternXor d a b => Sys2Proof.Machine.execLanternXor d a b s
  | .lanternShr d a imm => Sys2Proof.Machine.execLanternShr d a imm s
  | .lanternShl d a imm => Sys2Proof.Machine.execLanternShl d a imm s
  | .lanternAndi d a imm => Sys2Proof.Machine.execLanternAndi d a imm s
  | .lanternBeq d a imm => Sys2Proof.Machine.execLanternBeq d a imm s
  | .lanternBne d a imm => Sys2Proof.Machine.execLanternBne d a imm s
  | .lanternBltu d a imm => Sys2Proof.Machine.execLanternBltu d a imm s
  | .lanternBgeu d a imm => Sys2Proof.Machine.execLanternBgeu d a imm s
  | .lanternKeep d a imm => Sys2Proof.Machine.execLanternKeep d a imm s
  | .lanternDrop d a imm => Sys2Proof.Machine.execLanternDrop d a imm s
  | .lanternCnt d a imm => Sys2Proof.Machine.execLanternCnt d a imm s
  | .lanternTrig d a imm => Sys2Proof.Machine.execLanternTrig d a imm s
  | .threadRetire => Sys2Proof.Machine.execThreadRetire s
  | .ipiDelivery => Sys2Proof.Machine.execIpiDelivery s
  | .interrupt => Sys2Proof.Machine.execInterrupt s
  | .parkWake => Sys2Proof.Machine.execParkWake s
  | .feTimeout => Sys2Proof.Machine.execFeTimeout s
  | .dutyTakesEffect => Sys2Proof.Machine.execDutyTakesEffect s
  | .leaveGrant => Sys2Proof.Machine.execLeaveGrant s
  | .segmentLanded => Sys2Proof.Machine.execSegmentLanded s
  | .coreQuarantine => Sys2Proof.Machine.execCoreQuarantine s
  | .spareShift => Sys2Proof.Machine.execSpareShift s
  | .sealEffect => Sys2Proof.Machine.execSealEffect s
  | .unsealEffect => Sys2Proof.Machine.execUnsealEffect s
  | .publishSerialise => Sys2Proof.Machine.execPublishSerialise s
  | .publishEffect => Sys2Proof.Machine.execPublishEffect s
  | .mcmdTimeout => Sys2Proof.Machine.execMcmdTimeout s
  | .gangForm => Sys2Proof.Machine.execGangForm s
  | .matrixCommandAdmit => Sys2Proof.Machine.execMatrixCommandAdmit s
  | .matrixCommandBegin => Sys2Proof.Machine.execMatrixCommandBegin s
  | .matrixCommandRetire => Sys2Proof.Machine.execMatrixCommandRetire s
  | .matrixScrub => Sys2Proof.Machine.execMatrixScrub s
  | .spireGroupForm => Sys2Proof.Machine.execSpireGroupForm s
  | .spireResultDelivery => Sys2Proof.Machine.execSpireResultDelivery s
  | .spireFaultDelivery => Sys2Proof.Machine.execSpireFaultDelivery s
  | .requestAccept => Sys2Proof.Machine.execRequestAccept s
  | .translationWalk => Sys2Proof.Machine.execTranslationWalk s
  | .walkEntryReply => Sys2Proof.Machine.execWalkEntryReply s
  | .dieSramService => Sys2Proof.Machine.execDieSramService s
  | .loadTableCompare => Sys2Proof.Machine.execLoadTableCompare s
  | .domeService => Sys2Proof.Machine.execDomeService s
  | .domeRequestComplete => Sys2Proof.Machine.execDomeRequestComplete s
  | .memoryReply => Sys2Proof.Machine.execMemoryReply s
  | .agentStateError => Sys2Proof.Machine.execAgentStateError s
  | .phasePublish => Sys2Proof.Machine.execPhasePublish s
  | .transferBegin => Sys2Proof.Machine.execTransferBegin s
  | .engineSlotService => Sys2Proof.Machine.execEngineSlotService s
  | .transferComplete => Sys2Proof.Machine.execTransferComplete s
  | .streamRefillArrival => Sys2Proof.Machine.execStreamRefillArrival s
  | .clusterFailure => Sys2Proof.Machine.execClusterFailure s
  | .inject => Sys2Proof.Machine.execInject s
  | .wordForward => Sys2Proof.Machine.execWordForward s
  | .markerPhaseStep => Sys2Proof.Machine.execMarkerPhaseStep s
  | .queueBeat => Sys2Proof.Machine.execQueueBeat s
  | .fill => Sys2Proof.Machine.execFill s
  | .windowBeat => Sys2Proof.Machine.execWindowBeat s
  | .tagWrite => Sys2Proof.Machine.execTagWrite s
  | .matrixCommand => Sys2Proof.Machine.execMatrixCommand s
  | .commandReply => Sys2Proof.Machine.execCommandReply s
  | .openCircuit => Sys2Proof.Machine.execOpenCircuit s
  | .resizeCircuit => Sys2Proof.Machine.execResizeCircuit s
  | .closeCircuit => Sys2Proof.Machine.execCloseCircuit s
  | .joinMember => Sys2Proof.Machine.execJoinMember s
  | .leaveMember => Sys2Proof.Machine.execLeaveMember s
  | .queryCircuit => Sys2Proof.Machine.execQueryCircuit s
  | .circuitChangeEffect => Sys2Proof.Machine.execCircuitChangeEffect s
  | .receivePortCloseUnbind => Sys2Proof.Machine.execReceivePortCloseUnbind s
  | .configBeat => Sys2Proof.Machine.execConfigBeat s
  | .launchReady => Sys2Proof.Machine.execLaunchReady s
  | .taskSelect => Sys2Proof.Machine.execTaskSelect s
  | .taskBind => Sys2Proof.Machine.execTaskBind s
  | .taskFaultEnd => Sys2Proof.Machine.execTaskFaultEnd s
  | .launchComplete => Sys2Proof.Machine.execLaunchComplete s
  | .completionRecordWrite => Sys2Proof.Machine.execCompletionRecordWrite s
  | .stealRequestSend => Sys2Proof.Machine.execStealRequestSend s
  | .stealRequest => Sys2Proof.Machine.execStealRequest s
  | .sinkWatchdog => Sys2Proof.Machine.execSinkWatchdog s
  | .doorbell => Sys2Proof.Machine.execDoorbell s
  | .cqheadWrite => Sys2Proof.Machine.execCqheadWrite s
  | .registerWrite => Sys2Proof.Machine.execRegisterWrite s
  | .vfAbsentRequest => Sys2Proof.Machine.execVfAbsentRequest s
  | .launchCmd => Sys2Proof.Machine.execLaunchCmd s
  | .regset => Sys2Proof.Machine.execRegset s
  | .regdrop => Sys2Proof.Machine.execRegdrop s
  | .ctxset => Sys2Proof.Machine.execCtxset s
  | .ctxdrop => Sys2Proof.Machine.execCtxdrop s
  | .switchCmd => Sys2Proof.Machine.execSwitchCmd s
  | .sched => Sys2Proof.Machine.execSched s
  | .hostSplit => Sys2Proof.Machine.execHostSplit s
  | .power => Sys2Proof.Machine.execPower s
  | .telem => Sys2Proof.Machine.execTelem s
  | .patch => Sys2Proof.Machine.execPatch s
  | .attest => Sys2Proof.Machine.execAttest s
  | .serviceQuarantine => Sys2Proof.Machine.execServiceQuarantine s
  | .serviceRetest => Sys2Proof.Machine.execServiceRetest s
  | .serviceRetrain => Sys2Proof.Machine.execServiceRetrain s
  | .retrainComplete => Sys2Proof.Machine.execRetrainComplete s
  | .serviceRetireDome => Sys2Proof.Machine.execServiceRetireDome s
  | .fabric => Sys2Proof.Machine.execFabric s
  | .blockChangeEffect => Sys2Proof.Machine.execBlockChangeEffect s
  | .switchSchedule => Sys2Proof.Machine.execSwitchSchedule s
  | .switchCancel => Sys2Proof.Machine.execSwitchCancel s
  | .hswitchSchedule => Sys2Proof.Machine.execHswitchSchedule s
  | .hswitchCancel => Sys2Proof.Machine.execHswitchCancel s
  | .switchWarning => Sys2Proof.Machine.execSwitchWarning s
  | .scheduledSwitch => Sys2Proof.Machine.execScheduledSwitch s
  | .switchSave => Sys2Proof.Machine.execSwitchSave s
  | .switchRestore => Sys2Proof.Machine.execSwitchRestore s
  | .coreResume => Sys2Proof.Machine.execCoreResume s
  | .schedQuantum => Sys2Proof.Machine.execSchedQuantum s
  | .fcmdWrite => Sys2Proof.Machine.execFcmdWrite s
  | .frequencyChange => Sys2Proof.Machine.execFrequencyChange s
  | .powerEpoch => Sys2Proof.Machine.execPowerEpoch s
  | .telemetryRead => Sys2Proof.Machine.execTelemetryRead s
  | .powerOn => Sys2Proof.Machine.execPowerOn s
  | .stop => Sys2Proof.Machine.execStop s
  | .resume => Sys2Proof.Machine.execResume s
  | .stepThread => Sys2Proof.Machine.execStepThread s
  | .claim => Sys2Proof.Machine.execClaim s
  | .release => Sys2Proof.Machine.execRelease s
  | .dbgdataAccess => Sys2Proof.Machine.execDbgdataAccess s
  | .lanternEnable => Sys2Proof.Machine.execLanternEnable s
  | .lanternFilter => Sys2Proof.Machine.execLanternFilter s
  | .lanternWriteback => Sys2Proof.Machine.execLanternWriteback s
  | .bellArm => Sys2Proof.Machine.execBellArm s
  | .bellPulse => Sys2Proof.Machine.execBellPulse s
  | .cntpolWrite => Sys2Proof.Machine.execCntpolWrite s
  | .viewLoRead => Sys2Proof.Machine.execViewLoRead s
  | .viewHiRead => Sys2Proof.Machine.execViewHiRead s
  | .ptpMessage => Sys2Proof.Machine.execPtpMessage s
  | .portOffsetSuspend => Sys2Proof.Machine.execPortOffsetSuspend s
  | .portOffsetResume => Sys2Proof.Machine.execPortOffsetResume s
  | .fabricCellReceive => Sys2Proof.Machine.execFabricCellReceive s
  | .tgtShed => Sys2Proof.Machine.execTgtShed s
  | .tgtRetrain => Sys2Proof.Machine.execTgtRetrain s
  | .laneFailure => Sys2Proof.Machine.execLaneFailure s
  | .portDown => Sys2Proof.Machine.execPortDown s
  | .rotationSlot => Sys2Proof.Machine.execRotationSlot s
  | .replicaFill => Sys2Proof.Machine.execReplicaFill s
  | .laneRepair => Sys2Proof.Machine.execLaneRepair s

end Sys2Proof.Machine
end

