-- ==== Sys2Proof/Machine/Slot.lean ====
section
/-! DEFINITION. What a step does next: an event of the agenda, a word of a running filter, or the rotation slot of the thread whose turn it
is (spec/02 R35, R43; spec/06 R101, R111, R112; spec/07 R122, R123, R133; spec/24 R452, R457; spec/21 R421; log 3). -/

namespace Sys2Proof.Machine

set_option Elab.async false

/-! ## Plans -/

/-- What a step does. -/
inductive Plan where
  /-- An event of the agenda. -/
  | agenda (e : Event) (rest : List Event)
  /-- A word of the filter that runs. -/
  | word (i : Instr)
  /-- A bundle with one syllable beside a NOP, and one with two. -/
  | syllable (i : Instr)
  | bundle (a b : Instr)
  /-- An event that takes the slot of the current thread, and one that leaves the slot to the thread's bundle. -/
  | slot (e : Event)
  | wake (e : Event)
  /-- The slot leads straight to a state: nothing issues, or a trap or a stop comes before any syllable. -/
  | passed (t : State)
  /-- The filter ends without a word. -/
  | quiet (t : State)

/-- An event of a thread. -/
def threadEvent (i : Instr) (t : Tid) : Event := ⟨i, { EvArg.none with t := t, die := t.die }⟩

/-! ## Fetching (R101, R111, R133, R270) -/

/-- A bundle that cannot be fetched: the trap of its address. On the first bundle of an S handler a segment-miss goes to H, on the first
bundle of an H handler it ends the thread with a fault completion (R111). A pc with one of bits [63:28] set, which only a vector can give, takes access-fault
with tval the pc (R101; DESIGN CHOICE, log 118). -/
def fetchMiss (s : State) (t : Tid) : Plan :=
  let th := getThread s t
  let cause := if th.ranOff then 12 else (checkTarget (codeCore s t) th.pc th.pc .register).getD 12
  if cause = 12 ∧ th.fresh = 2 then .slot ⟨.taskFaultEnd, { EvArg.none with ctx := th.ctx, i := th.task }⟩
  else .passed (takeTrap s t cause th.pc false 0 (cause == 12 && th.fresh == 1))

/-- An illegal syllable (R44, R56, R109). -/
def illegal (s : State) (t : Tid) (w : BitVec 64) (slotV : Bool) : Plan := .passed (takeTrap s t 1 w slotV 0 false)

/-- A fetched bundle: its syllables are decoded, S first; a NOP leaves the other alone (R43, R58). -/
def bundlePlan (s : State) (t : Tid) (b : Bundle) : Plan :=
  match decodeS (bundleS b), decodeV (bundleV b) with
  | .error _, _ => illegal s t (bundleS b) false
  | .ok _, .error _ => illegal s t (bundleV b) true
  | .ok a, .ok (.nop _) => .syllable a
  | .ok (.nop _), .ok v => .syllable v
  | .ok a, .ok v => .bundle a v

/-- The bundle at a thread's pc. -/
def fetchPlan (s : State) (t : Tid) : Plan :=
  match if (getThread s t).ranOff then none else fetchBundle (codeCore s t) (getThread s t).pc with
  | some b => bundlePlan s t b
  | none => fetchMiss s t

/-- A breakpoint at the pc: ACT 1 takes breakpoint, ACT 0 stops with WHY 2 or 3 (R452). -/
def breakPlan (s : State) (t : Tid) (n : Nat) (act : Bool) : Plan :=
  if act then .passed (takeTrap s t 15 (getThread s t).pc false 0 false) else .passed (stopThreadNow s t (2 + n) 0)

/-! ## A slot (R112, R122, R123, R127, R460) -/

/-- A Running thread whose rotation is open. -/
def runningPlan (s : State) (t : Tid) : Plan :=
  let th := getThread s t
  if (dueInterrupt th).isSome then .slot (threadEvent .interrupt t)
  else if lockHeld s t then .slot (threadEvent .rotationSlot t)
  else match breakMatch th with
    | some (n, act) => breakPlan s t n act
    | none => fetchPlan s t

/-- A parked thread whose rotation is open. -/
def parkedPlan (s : State) (t : Tid) : Plan :=
  let th := getThread s t
  if th.failed.isSome then .slot (threadEvent .parkWake t)
  else match th.inflight, th.park with
    | some f, _ =>
      if waitGoesOn s t f then .slot (threadEvent .parkWake t)
      else if f.waits.head? = some .drain ∧ drained s t = true then .slot (threadEvent .threadRetire t)
      else .slot (threadEvent .rotationSlot t)
    | none, some p =>
      if (dueInterrupt th).isSome then .slot (threadEvent .interrupt t)
      else if wakeHolds s t p then .wake (threadEvent .parkWake t)
      else if timedOut th then .slot (threadEvent .feTimeout t)
      else .slot (threadEvent .rotationSlot t)
    | none, none => .passed s

/-- The slot of a thread at a switch, or restored and not resumed: only a bundle that had issued goes on (R421). -/
def frozenPlan (s : State) (t : Tid) : Plan :=
  if (getThread s t).run = .parked ∧ restless s t = true then .slot (threadEvent .parkWake t) else .passed s

/-- The rotation slot of a thread. -/
def slotPlan (s : State) (t : Tid) : Plan :=
  let th := getThread s t
  let c := getCore s (tidKey t)
  if !hasThread th then .passed s
  else if c.held || ctxFrozen s th.ctx th.region then frozenPlan s t
  else if !rotOpen c then .slot (threadEvent .rotationSlot t)
  else match th.run with
    | .running => runningPlan s t
    | .parked => parkedPlan s t
    | _ => .slot (threadEvent .rotationSlot t)

/-! ## The filter (R457) -/

/-- The next word of a run; past the code the run ends. -/
def filterPlan (s : State) (f : FilterRun) : Plan :=
  match (getLantern s f.die).code[f.index]? with
  | some w => (match decodeLantern w with
    | .ok i => .word i
    | .error _ => .quiet { s with lanRun := none })
  | none => .quiet { s with lanRun := none }

/-- What the next step does. -/
def plan (s : State) : Plan :=
  match s.agenda, s.lanRun with
  | e :: l, _ => .agenda e l
  | [], some f => filterPlan s f
  | [], none => slotPlan s s.cur

/-! ## After a slot (R122, R470) -/

/-- The thread slots of a core that hold a thread. -/
def threadSlots (c : Core) : List Nat := (List.range 8).filter fun i => hasThread (slotOf c i)

/-- The first slot with a thread after a place, in order of core and slot. -/
def nextSlot (s : State) (k slot : Nat) : Option Tid :=
  s.cores.findSome? fun c =>
    if c.1 < k then none
    else ((threadSlots c.2).find? fun i => decide (k < c.1) || decide (slot < i)).map fun i => ⟨c.1 / 64, c.1 % 64, i⟩

/-- The first slot with a thread. -/
def firstSlot (s : State) : Tid :=
  (s.cores.findSome? fun c => (threadSlots c.2).head?.map fun i => (⟨c.1 / 64, c.1 % 64, i⟩ : Tid)).getD Tid.zero

/-- What the power tree's measure of a core notes of a slot: a bundle or trap entry, or a Running thread at a closed rotation (R470). -/
def noteSlot (s : State) (t : Tid) (u : State) : State :=
  let a := getThread s t
  let b := getThread u t
  let u := if a.cissue.toNat < b.cissue.toNat then modCore u (tidKey t) fun c => { c with issuedNow := true } else u
  if a.run = .running ∧ rotOpen (getCore s (tidKey t)) = false then modCore u (tidKey t) fun c => { c with epochClosed := true } else u

/-- A core at the end of a rotation. -/
def endCore (c : Core) : Core :=
  { c with
    rot := c.rot + 1
    epochRot := c.epochRot + 1
    epochIssued := c.epochIssued + (if c.issuedNow then 1 else 0)
    issuedNow := false }

/-- A park at step 4 spans revolution boundaries (R127). -/
def spanPark (n : Nat) (th : Thread) : Thread :=
  match th.run, th.inflight, th.park with
  | .parked, none, some p => { th with park := some { p with bounds := p.bounds + n } }
  | _, _, _ => th

/-- Parks of the threads that no switch holds. -/
def spanCore (s : State) (n : Nat) (c : Core) : Core :=
  { c with slots := c.slots.map fun th => if (c.held || ctxFrozen s th.ctx th.region) = true then th else spanPark n th }
def spanParks (s : State) (n : Nat) : State := { s with cores := s.cores.map fun k => (k.1, spanCore s n k.2) }

/-- A context at a revolution boundary: the raw counters are read, and a policy written takes effect (R463). -/
def boundaryCtx (rev : Nat) (c : Ctx) : Ctx :=
  { c with
    rawAt := if (c.rawAt.head?.map (·.2)).getD (Vector.replicate 5 0) = c.raw then c.rawAt else (rev, c.raw) :: c.rawAt
    cntpol := c.cntpolNext.getD c.cntpol
    cntpolNext := none }

/-- A rotation ends: the wheel goes on, and where it passes a revolution boundary parks and contexts see it. -/
def turnWheel (s : State) : State :=
  let w := s.wheel + s.slotsPerRotation
  let n := w / s.W - s.wheel / s.W
  let s := { s with wheel := w, cores := s.cores.map fun c => (c.1, endCore c.2) }
  if n = 0 then s else { spanParks s n with ctxs := s.ctxs.map fun c => (c.1, boundaryCtx (w / s.W) c.2) }

/-! ## Placing an instruction where the next step fetches (log 5) -/

/-- A bundle of an S syllable beside a NOP. -/
def soloBundle (w : BitVec 64) : Bundle := bundleOf w 0

/-- A thread that issues the bundle at address 0 in its slot: running, with no interrupt pending and no gang. -/
def readyThread (th : Thread) : Thread :=
  { th with
    run := .running, pc := 0, ranOff := false, park := none, inflight := none, failed := none, gang := none, dbg := Dbg.reset
    status := setBits th.status 16 8 0, hstatus := setBits th.hstatus 16 8 0 }

/-- The core of the current thread with a bundle as its landed segment 0, and every rotation open. -/
def placeBundle (s : State) (b : Bundle) : State :=
  let s : State := { s with agenda := [], lanRun := none, switching := [], pair := .alone }
  modCore s (tidKey s.cur) fun c =>
    let c := setSlot c s.cur.slot (readyThread (slotOf c s.cur.slot))
    { c with held := false, duty := 16, segs := [⟨0, 1, ⟨.g, 0, 0, 0, 0⟩, [b]⟩] }

/-- Tower 0's filter with one word, at work on an empty record. -/
def placeFilter (s : State) (w : BitVec 32) : State :=
  { modLantern s 0 fun l => { l with code := [w] } with
    agenda := [], lanRun := some ⟨0, [], 0, Vector.replicate 16 0⟩ }

end Sys2Proof.Machine
end

