-- ==== Sys2Proof/Machine/Due.lean ====
section
/-! DEFINITION. The events that are due when a rotation ends, and those that take place at a wheel count of their own (log 3): each
list names events whose conditions hold or may hold; an event whose condition is not met changes nothing (log 16). -/

namespace Sys2Proof.Machine

set_option Elab.async false

def evDie (i : Instr) (die n : Nat) : Event := ⟨i, { EvArg.none with die := die, i := n }⟩
def evUnit (i : Instr) (die unit n : Nat) : Event := ⟨i, { EvArg.none with die := die, unit := unit, i := n }⟩
def evEngine (i : Instr) (die unit : Nat) (ld : Bool) : Event := ⟨i, { EvArg.none with die := die, unit := unit, ok := ld }⟩
def evCtx (i : Instr) (ctx n : Nat) : Event := ⟨i, { EvArg.none with ctx := ctx, i := n }⟩
def evDieCtx (i : Instr) (die ctx : Nat) : Event := ⟨i, { EvArg.none with die := die, ctx := ctx }⟩
def evIdx (i : Instr) (n : Nat) : Event := ⟨i, { EvArg.none with i := n }⟩

/-- An event where a condition holds. -/
def evIf (b : Bool) (e : Event) : List Event := if b then [e] else []

/-- The indices of a list's elements that a predicate holds of, each less the number of those before it: the events take the elements
out one by one. -/
def dueIdx {α : Type} (p : α → Bool) (l : List α) : List Nat :=
  (((l.zipIdx).filter fun x => p x.1).zipIdx).map fun x => x.1.2 - x.2

/-! ## Cores (07, 11, 12) -/

/-- Whether an `mcmd` waits for room in its send queue. -/
def atRoom (th : Thread) : Bool :=
  match th.inflight.bind fun f => f.waits.head? with
  | some (.room _) => true
  | _ => false

/-- Events of one thread beside its slot. -/
def dueThread (t : Tid) (th : Thread) : List Event :=
  evIf (gangWait th).isSome (threadEvent .gangForm t) ++ evIf (th.mwait.isSome || atRoom th) (threadEvent .mcmdTimeout t) ++
  ((List.range 4).filter fun p => (getRx th p).closing).map fun p => ⟨.receivePortCloseUnbind, { EvArg.none with t := t, unit := p }⟩

def dueEngine (s : State) (c : Core) (die core : Nat) (ld : Bool) : List Event :=
  evIf (mRetiring s c ld).isSome (evEngine .matrixCommandRetire die core ld) ++
  evIf (mBeginning c ld).isSome (evEngine .matrixCommandBegin die core ld)

def dueCore (s : State) (k : Nat) (c : Core) : List Event :=
  let die := k / 64
  let core := k % 64
  evIf (c.dutyNext.isSome && c.rot % 16 == 0) (evUnit .dutyTakesEffect die core 0) ++
  evIf (c.held && railCarries s k) (evUnit .coreResume die core 0) ++
  evIf (gateHead c).isSome (evUnit .leaveGrant die core 0) ++ evIf (gateHead c).isSome (evUnit .matrixCommandAdmit die core 0) ++
  dueEngine s c die core true ++ dueEngine s c die core false ++
  c.landings.map (fun l => evUnit .segmentLanded die core l.seg) ++
  evIf (c.quarantined && newRevolution s) (evDie .spareShift die (coreY core)) ++
  (coreTids die core).flatMap fun t => dueThread t (slotOf c t.slot)

/-! ## Clusters (12 R262, R267) -/

/-- Clusters with a transfer, or with a core that has a bound stream. -/
def busyClusters (s : State) : List Nat :=
  (s.clusters.map (·.1) ++ (s.cores.filter fun c => c.2.slots.toList.any fun th => th.streams.toList.any (·.on)).map fun c =>
    clusterKey (c.1 / 64) (clusterOf (c.1 % 64))).dedup

def dueChan (s : State) (cl ch : Nat) : List Event :=
  let fresh := match (getChan s cl ch).q with
    | x :: _ => !x.begun
    | [] => false
  let ended := match chanHead s cl ch with
    | some x => xferDone x && !beatsLeft s cl ch x.id
    | none => false
  evIf fresh (evUnit .transferBegin (cl / 8) (cl % 8) ch) ++ evIf ended (evUnit .transferComplete (cl / 8) (cl % 8) ch)

def dueCluster (s : State) (cl : Nat) : List Event :=
  (List.range 8).flatMap (dueChan s cl) ++
  List.replicate (if (nextRequester s cl).isSome then s.slotsPerRotation else 0) (evUnit .engineSlotService (cl / 8) (cl % 8) 0)

/-! ## Towers (13, 15, 24) -/

def dueReq (s : State) (die : Nat) (r : Req) : List Event :=
  match r.stage with
  | .waiting => [evDie .requestAccept die r.id, evDie .translationWalk die r.id]
  | .walking _ _ .toSend _ => [evDie .walkEntryReply die r.id]
  | .walking _ _ .sent _ => []
  | .walking _ _ now _ => evIf (now.endsBy s.wheel) (evDie .walkEntryReply die r.id)
  | .accepted | .held _ =>
    (match r.kind with
    | .seal => [evDie .sealEffect die r.id]
    | .unseal => [evDie .unsealEffect die r.id]
    | .publish => [evDie .publishSerialise die r.id]
    | _ => evIf (isRead r.kind && !isWrite r.kind) (evDie .loadTableCompare die r.id))
  | .performed due =>
    if r.kind = .publish then evIf (decide (due ≤ s.wheel)) (evDie .publishEffect die r.id)
    else if coreSees s due then
      (match r.who with
      | .stream j => if (getStream (getThread s r.tid) j).asked.any fun a => a.1 == r.id then
          [⟨.streamRefillArrival, { EvArg.none with t := r.tid, i := j }⟩]
        else [evDie .memoryReply die r.id]
      | _ => [evDie .memoryReply die r.id])
    else []

/-- Whether a tower's service has anything to do: a request in its own SRAM, or a write that has still to be sent. -/
def sramDue (d : Die) : Bool :=
  !(sramWaiting d).isEmpty || (pendingWrites d).any fun r => r.space == .g && r.accs.any fun x => !x.queued && !x.done

def dueDieCtx (s : State) (die : Nat) (d : Die) (ctx : Nat) : List Event :=
  evIf ((newRevolution s || d.pick.contains ctx) && (d.queue.any fun k => k.ctx == ctx) && d.selected.all fun k => k.1.ctx != ctx)
    (evDieCtx .taskSelect die ctx) ++
  evIf (d.selected.any fun k => k.1.ctx == ctx) (evDieCtx .taskBind die ctx) ++
  evIf (newRevolution s && phaseCount s die ctx != mapGet 0 d.pd ctx) (evDieCtx .phasePublish die ctx)

def dueEdge (s : State) (die : Nat) (d : Die) (e : Nat) : List Event :=
  let x := vget d.edges e Edge.reset
  evIf (x.begun && !x.failed && match x.suspended with
    | some w => decide (w + s.W ≤ s.wheel)
    | none => false) (evDie .retrainComplete die e)

def dueDie (s : State) (die : Nat) (d : Die) : List Event :=
  d.reqs.flatMap (dueReq s die) ++ evIf (sramDue d) (evDie .dieSramService die 0) ++
  (s.ctxs.map (·.1)).flatMap (dueDieCtx s die d) ++ d.steals.map (fun _ => evDie .stealRequest die 0) ++
  evIf (lanEn d.lantern && (lanternCore s die).isSome) (evDie .lanternFilter die 0) ++
  evIf (lanEn d.lantern && newRevolution s) (evDie .lanternWriteback die 0) ++ (List.range 4).flatMap (dueEdge s die d)

/-! ## Domes (17 R367) -/

def dueDome (s : State) (k : Nat) (d : Dome) : List Event :=
  d.fifo.flatMap (fun q => List.replicate (servedBy s k q.1 (mapGet 0 d.used q.1) q.2) ⟨.domeService, { EvArg.none with unit := k, ctx := q.1 }⟩) ++
  (dueIdx (fun x => decide (x.1 ≤ s.wheel)) d.serving).map fun i => ⟨.domeRequestComplete, { EvArg.none with unit := k, i := i }⟩

/-! ## Contexts (15, 17, 21, 25) -/

def dueLaunch (ctx : Nat) (h : Nat) (l : Launch) : List Event :=
  match l.stage with
  | .waiting => [evCtx .launchReady ctx h]
  | .running => evIf (l.left == 0 && l.spawned == 0) (evCtx .launchComplete ctx h)
  | _ => []

/-- The belfry's event for the request that it handles now (R359). -/
def belEvent (r : BelReq) : Instr :=
  match bCmd r.blk with
  | 0 => .openCircuit
  | 1 => .resizeCircuit
  | 2 => .closeCircuit
  | 3 => .joinMember
  | 4 => .leaveMember
  | _ => .queryCircuit

def dueSwitch (s : State) (ctx : Nat) : List Event :=
  evIf (warnDue s ctx || (hwarnDue s && swOutc s.hswitch == ctx)) (evCtx .switchWarning ctx 0) ++
  evIf (switchDue s ctx || (hswitchDue s && swOutc s.hswitch == ctx)) (evCtx .scheduledSwitch ctx 0) ++
  evIf (switchOf s ctx .drain).isSome (evCtx .switchSave ctx 0) ++
  evIf (match switchOf s ctx .save with
    | some w => decide (w.due ≤ s.wheel)
    | none => false) (evCtx .switchRestore ctx 0)

def dueCtx (s : State) (ctx : Nat) (c : Ctx) : List Event :=
  c.launches.flatMap (fun l => dueLaunch ctx l.1 l.2) ++
  evIf (!c.records.isEmpty || (nextRecord s ctx).isSome) (evCtx .completionRecordWrite ctx 0) ++
  evIf (watchdogDue s ctx) (evCtx .sinkWatchdog ctx 0) ++
  evIf (fcmdDue s ctx) (evCtx .frequencyChange ctx 0) ++ dueSwitch s ctx

def dueBelfry (s : State) : List Event :=
  (s.belfry.map (·.1)).flatMap fun ctx => match belReady s ctx with
    | some r => [evCtx (belEvent r) ctx 0]
    | none => []

/-- Once per revolution an idle tower asks its neighbours for tasks of a context that has bound or queued work (R331). -/
def dueSteals (s : State) : List Event :=
  if newRevolution s then
    (runningCtxs s).flatMap fun c =>
      ((ctxTowers s c.1).filter fun t => dieIdle s t c.1 && (diagonals s t c.1).any fun n => (getDie s n).queue.any fun k => k.ctx == c.1).map
        fun t => evDieCtx .stealRequestSend t c.1
  else []

/-! ## Spire, host and keep (18, 21, 23 to 26) -/

def dueSpire (s : State) (ch : Nat) (c : SpireChan) : List Event :=
  evIf (match spireFormAt c with
    | some d => coreSees s d
    | none => false) (evIdx .spireGroupForm ch) ++
  evIf (c.results.any fun r => r.kind.isNone && r.key != 0 && coreSees s r.due) (evIdx .spireResultDelivery ch) ++
  evIf ((c.results.any fun r => r.kind.isSome && coreSees s r.due) || c.failing.any fun f => coreSees s f.1) (evIdx .spireFaultDelivery ch)

/-- The event of a host command (R417, R473, R477). -/
def cmdEvent (opc kind : Nat) : Instr :=
  match opc with
  | 0x02 => .regset
  | 0x03 => .regdrop
  | 0x10 => .ctxset
  | 0x11 => .ctxdrop
  | 0x12 => .switchCmd
  | 0x13 => .sched
  | 0x14 => .hostSplit
  | 0x15 => .power
  | 0x16 => .telem
  | 0x17 => .patch
  | 0x18 => .attest
  | 0x19 => (match kind with
    | 2 => .serviceRetest
    | 3 => .serviceRetrain
    | 4 => .serviceRetireDome
    | _ => .serviceQuarantine)
  | 0x1A => .fabric
  | _ => .launchCmd

def dueFunc (s : State) (k : Nat) : List Event :=
  let port := k / 512
  let fn := k % 512
  let ev (i : Instr) : Event := ⟨i, { EvArg.none with port := port, fn := fn }⟩
  if (edgeWaiting s k).isSome then [ev .serviceRetrain]
  else evIf (hostReady s port fn) (ev (cmdEvent (entryOpc s port fn) (swKind (entryArg s port fn 0))))

def duePort (s : State) (p : Nat) (x : FabPort) : List Event :=
  let ev (i : Instr) (n : Nat) : Event := ⟨i, { EvArg.none with port := p, n := n }⟩
  evIf (x.up && offsExpired s) (ev .portDown 0) ++
  (match x.failAt with
  | some (e, n) => evIf (decide (e ≤ s.wheel)) (ev (if n = 0 then .portDown else .laneFailure) 0)
  | none => []) ++
  (match x.next with
  | some (n, e) => evIf (decide (e ≤ s.wheel)) (ev (if n < x.lanes then .tgtShed else .tgtRetrain) n)
  | none => [])

def dueDevice (s : State) : List Event :=
  evIf (decide (6 ≤ s.boot) && newEpoch s) (evIdx .powerEpoch 0) ++
  evIf (decide (6 ≤ s.boot) && decide (s.telemAt ≤ s.wheel))
    ⟨.telemetryRead, { EvArg.none with n := Config.modulePower s.wheel }⟩ ++
  evIf (fcmdDue s 255) (evCtx .frequencyChange 255 0) ++
  evIf (quantumDue s) (evIdx .schedQuantum 0) ++
  evIf (bitAt s.bell 63 && decide (bitsAt s.bell 0 40 * s.W ≤ s.wheel)) (evIdx .bellPulse 0) ++
  evIf (decide (500 < s.offs.natAbs) && s.offsSince.isNone) (evIdx .portOffsetSuspend 0) ++
  evIf (s.offsSince.isSome && offsSettled s) (evIdx .portOffsetResume 0) ++
  (dueIdx (fun c => decide (c.e ≤ s.wheel)) s.blkChanges).map (evIdx .blockChangeEffect) ++
  s.ipis.map fun _ => evIdx .ipiDelivery 0

/-- The events due at the end of a rotation. -/
def dueOnce (s : State) : List Event :=
  dueDevice s ++ s.ports.flatMap (fun p => duePort s p.1 p.2) ++ s.funcs.flatMap (fun f => dueFunc s f.1) ++
  s.ctxs.flatMap (fun c => dueCtx s c.1 c.2) ++ dueBelfry s ++ s.dies.flatMap (fun d => dueDie s d.1 d.2) ++ dueSteals s ++
  s.domes.flatMap (fun d => dueDome s d.1 d.2) ++ s.cores.flatMap (fun c => dueCore s c.1 c.2) ++
  (busyClusters s).flatMap (dueCluster s) ++ s.spire.flatMap fun c => dueSpire s c.1 c.2

/-! ## Events at a wheel count of their own: the network (17) -/

/-- What a word on its way comes to. -/
def wordEvent (s : State) (i : Nat) (f : Flight) : Option Instr :=
  let k := beatKind f.beat
  if !f.eject then some (if k = 1 then .markerPhaseStep else .wordForward)
  else match k with
    | 0 | 1 => some .queueBeat
    | 2 => some .fill
    | 3 => some .windowBeat
    | 4 => some .tagWrite
    | 5 =>
      let c := getCore s f.port
      (match f.grant with
      | some g => if !c.quarantined && (earlierCommand s i f || (decideRemote c g f.beat.data).1 == .hold) then none else some .matrixCommand
      | none => some .matrixCommand)
    | 6 => some .commandReply
    | _ => some .wordForward

/-- An event of the network with the wheel count at which it takes place and its rank among those of one count. -/
structure Timed where
  at_ : Nat
  rank : Nat
  ev : Event

def Timed.before (a b : Timed) : Bool := decide (a.at_ < b.at_) || (a.at_ == b.at_ && decide (a.rank < b.rank))

/-- Everything of the network due by now: table writes, changes, configuration beats, words, injections. -/
def timedAll (s : State) : List Timed :=
  s.tabWrites.map (fun w => ⟨w.at_, 0, ⟨.circuitChangeEffect, { EvArg.none with i := s.changes.length, n := w.at_ }⟩⟩) ++
  s.changes.zipIdx.map (fun c => ⟨c.1.e, 1, ⟨.circuitChangeEffect, { EvArg.none with i := c.2, n := c.1.e }⟩⟩) ++
  s.cfgBeats.zipIdx.map (fun b => ⟨b.1.at_, 2, evIdx .configBeat b.2⟩) ++
  s.words.zipIdx.filterMap (fun w => (wordEvent s w.2 w.1).map fun i => ⟨if w.1.eject then w.1.at_ + 2 else w.1.at_, 3, evIdx i w.2⟩) ++
  s.circuits.filterMap fun c => (injectDue s c.2).map fun t => ⟨t, 4, ⟨.inject, { EvArg.none with n := c.1 }⟩⟩

/-- The earliest event of the network, if it is due. -/
def dueTimed (s : State) : List Event :=
  match (timedAll s).foldl (fun (m : Option Timed) x => match m with
    | none => some x
    | some y => if x.before y then some x else some y) none with
  | some x => if x.at_ ≤ s.wheel then [x.ev] else []
  | none => []

/-- Where nothing is left on the agenda the network goes on. -/
def refill (s : State) : State := if s.agenda.isEmpty then { s with agenda := dueTimed s } else s

/-- A rotation ends. -/
def endRotation (s : State) : State :=
  let s := turnWheel s
  refill { s with agenda := s.agenda ++ dueOnce s }

/-- After a slot of the current thread: the turn passes to the next slot with a thread, and a rotation ends with the last. -/
def afterSlot (s u : State) : State :=
  let u := noteSlot s s.cur u
  match nextSlot u (tidKey s.cur) s.cur.slot with
  | some t => { u with cur := t }
  | none => endRotation { u with cur := firstSlot u }

end Sys2Proof.Machine
end

