-- ==== Sys2Proof/Machine/Step.lean ====
section
/-! DEFINITION. One step of the machine, and the state in which the next step runs a given instruction (logs 3 to 5). -/

namespace Sys2Proof.Machine

set_option Elab.async false

/-- Run an instruction and go on from the state it leaves. -/
def onNext (o : Host.Outcome State Fault Refusal) (k : State → State) : Host.Outcome State Fault Refusal :=
  match o with
  | .next t => .next (k t)
  | .fault f => .fault f
  | .refused r => .refused r

/-- One step: the next event of the agenda, the next word of a running filter, or the rotation slot of the thread whose turn it is. -/
def step (s : State) : Host.Outcome State Fault Refusal :=
  match plan s with
  | .agenda e l => onNext (exec e.what { s with agenda := l, arg := e.arg }) refill
  | .word i => exec i s
  | .syllable i => onNext (exec i { s with pair := .alone }) (afterSlot s)
  | .bundle a b =>
    match exec a { s with pair := .first } with
    | .next t => onNext (exec b t) (afterSlot s)
    | .fault f => .fault f
    | .refused r => .refused r
  | .slot e => onNext (exec e.what { s with arg := e.arg }) (afterSlot s)
  | .wake e => exec e.what { s with arg := e.arg }
  | .passed t => .next (afterSlot s t)
  | .quiet t => .next t

/-- `s` with the bundle `b` as the first of a landed segment 0 at the current thread's core, and that thread about to issue it. -/
def State.withBundle (s : State) (b : Bundle) : State := placeBundle s b

/-- `s` with an instruction of at most 32 bits as the only word of tower 0's filter, which runs; with a longer one as a bundle of the
current thread, an S syllable beside a NOP where it has at most 64 bits. -/
def State.withFetchWord (s : State) (nbits w : Nat) : State :=
  if nbits ≤ 32 then placeFilter s (BitVec.ofNat 32 w)
  else if nbits ≤ 64 then s.withBundle (soloBundle (BitVec.ofNat 64 w))
  else s.withBundle (BitVec.ofNat 128 w)

end Sys2Proof.Machine
end

