-- ==== Sys2Proof/WellFormed.lean ====
section
/-! DEFINITION. Well-formed instructions: the terms of Instr that stay inside every decode limit (R56). -/

namespace Sys2Proof

set_option Elab.async false

/-- A term of Instr that the decode limits of R56 allow; the limits themselves are Machine.limits. -/
def Instr.wellFormed (i : Instr) : Bool := Machine.limits i

end Sys2Proof
end

