-- ==== Sys2Proof/Laws/Encode.lean ====
section
/-! SUPPORT. Laws of the formats and of the operand fields: a format read from the bits it was written to is the format, and a field read
from the code of an operand is the operand. -/

set_option Elab.async false

namespace Sys2Proof.Machine

@[simp] theorem unpackHead_packHead (f : FmtHead) : unpackHead (packHead f) = f := by
  obtain ⟨a0, a1, a2, a3, a4, a5⟩ := f
  simp only [unpackHead, packHead, FmtHead.mk.injEq]
  refine ⟨?_, ?_, ?_, ?_, ?_, ?_⟩ <;>
  (repeat first
    | rw [BitVec.extractLsb'_append_eq_of_le (by decide)]
    | rw [BitVec.extractLsb'_append_eq_of_add_le (by decide)]) <;> simp

@[simp] theorem unpackSA_packSA (f : FmtSA) : unpackSA (packSA f) = f := by
  obtain ⟨a0, a1, a2, a3, a4⟩ := f
  simp only [unpackSA, packSA, FmtSA.mk.injEq]
  refine ⟨?_, ?_, ?_, ?_, ?_⟩ <;>
  (repeat first
    | rw [BitVec.extractLsb'_append_eq_of_le (by decide)]
    | rw [BitVec.extractLsb'_append_eq_of_add_le (by decide)]) <;> simp

@[simp] theorem unpackSL_packSL (f : FmtSL) : unpackSL (packSL f) = f := by
  obtain ⟨a0, a1⟩ := f
  simp only [unpackSL, packSL, FmtSL.mk.injEq]
  refine ⟨?_, ?_⟩ <;>
  (repeat first
    | rw [BitVec.extractLsb'_append_eq_of_le (by decide)]
    | rw [BitVec.extractLsb'_append_eq_of_add_le (by decide)]) <;> simp

@[simp] theorem unpackSC_packSC (f : FmtSC) : unpackSC (packSC f) = f := by
  obtain ⟨a0, a1, a2, a3, a4, a5⟩ := f
  simp only [unpackSC, packSC, FmtSC.mk.injEq]
  refine ⟨?_, ?_, ?_, ?_, ?_, ?_⟩ <;>
  (repeat first
    | rw [BitVec.extractLsb'_append_eq_of_le (by decide)]
    | rw [BitVec.extractLsb'_append_eq_of_add_le (by decide)]) <;> simp

@[simp] theorem unpackSP_packSP (f : FmtSP) : unpackSP (packSP f) = f := by
  obtain ⟨a0, a1, a2, a3, a4, a5, a6, a7, a8, a9⟩ := f
  simp only [unpackSP, packSP, FmtSP.mk.injEq]
  refine ⟨?_, ?_, ?_, ?_, ?_, ?_, ?_, ?_, ?_, ?_⟩ <;>
  (repeat first
    | rw [BitVec.extractLsb'_append_eq_of_le (by decide)]
    | rw [BitVec.extractLsb'_append_eq_of_add_le (by decide)]) <;> simp

@[simp] theorem unpackSF_packSF (f : FmtSF) : unpackSF (packSF f) = f := by
  obtain ⟨a0, a1, a2⟩ := f
  simp only [unpackSF, packSF, FmtSF.mk.injEq]
  refine ⟨?_, ?_, ?_⟩ <;>
  (repeat first
    | rw [BitVec.extractLsb'_append_eq_of_le (by decide)]
    | rw [BitVec.extractLsb'_append_eq_of_add_le (by decide)]) <;> simp

@[simp] theorem unpackSM_packSM (f : FmtSM) : unpackSM (packSM f) = f := by
  obtain ⟨a0, a1, a2, a3, a4, a5, a6, a7, a8⟩ := f
  simp only [unpackSM, packSM, FmtSM.mk.injEq]
  refine ⟨?_, ?_, ?_, ?_, ?_, ?_, ?_, ?_, ?_⟩ <;>
  (repeat first
    | rw [BitVec.extractLsb'_append_eq_of_le (by decide)]
    | rw [BitVec.extractLsb'_append_eq_of_add_le (by decide)]) <;> simp

@[simp] theorem unpackSG_packSG (f : FmtSG) : unpackSG (packSG f) = f := by
  obtain ⟨a0, a1, a2, a3, a4, a5⟩ := f
  simp only [unpackSG, packSG, FmtSG.mk.injEq]
  refine ⟨?_, ?_, ?_, ?_, ?_, ?_⟩ <;>
  (repeat first
    | rw [BitVec.extractLsb'_append_eq_of_le (by decide)]
    | rw [BitVec.extractLsb'_append_eq_of_add_le (by decide)]) <;> simp

@[simp] theorem unpackVA_packVA (f : FmtVA) : unpackVA (packVA f) = f := by
  obtain ⟨a0, a1, a2, a3, a4, a5, a6, a7, a8, a9⟩ := f
  simp only [unpackVA, packVA, FmtVA.mk.injEq]
  refine ⟨?_, ?_, ?_, ?_, ?_, ?_, ?_, ?_, ?_, ?_⟩ <;>
  (repeat first
    | rw [BitVec.extractLsb'_append_eq_of_le (by decide)]
    | rw [BitVec.extractLsb'_append_eq_of_add_le (by decide)]) <;> simp

@[simp] theorem unpackVC_packVC (f : FmtVC) : unpackVC (packVC f) = f := by
  obtain ⟨a0, a1, a2, a3, a4, a5, a6, a7, a8, a9⟩ := f
  simp only [unpackVC, packVC, FmtVC.mk.injEq]
  refine ⟨?_, ?_, ?_, ?_, ?_, ?_, ?_, ?_, ?_, ?_⟩ <;>
  (repeat first
    | rw [BitVec.extractLsb'_append_eq_of_le (by decide)]
    | rw [BitVec.extractLsb'_append_eq_of_add_le (by decide)]) <;> simp

@[simp] theorem unpackVS_packVS (f : FmtVS) : unpackVS (packVS f) = f := by
  obtain ⟨a0, a1, a2, a3, a4, a5⟩ := f
  simp only [unpackVS, packVS, FmtVS.mk.injEq]
  refine ⟨?_, ?_, ?_, ?_, ?_, ?_⟩ <;>
  (repeat first
    | rw [BitVec.extractLsb'_append_eq_of_le (by decide)]
    | rw [BitVec.extractLsb'_append_eq_of_add_le (by decide)]) <;> simp

@[simp] theorem unpackVM_packVM (f : FmtVM) : unpackVM (packVM f) = f := by
  obtain ⟨a0, a1, a2, a3, a4, a5, a6⟩ := f
  simp only [unpackVM, packVM, FmtVM.mk.injEq]
  refine ⟨?_, ?_, ?_, ?_, ?_, ?_, ?_⟩ <;>
  (repeat first
    | rw [BitVec.extractLsb'_append_eq_of_le (by decide)]
    | rw [BitVec.extractLsb'_append_eq_of_add_le (by decide)]) <;> simp

@[simp] theorem unpackVP_packVP (f : FmtVP) : unpackVP (packVP f) = f := by
  obtain ⟨a0, a1, a2, a3, a4, a5⟩ := f
  simp only [unpackVP, packVP, FmtVP.mk.injEq]
  refine ⟨?_, ?_, ?_, ?_, ?_, ?_⟩ <;>
  (repeat first
    | rw [BitVec.extractLsb'_append_eq_of_le (by decide)]
    | rw [BitVec.extractLsb'_append_eq_of_add_le (by decide)]) <;> simp

@[simp] theorem unpackLan_packLan (f : FmtLan) : unpackLan (packLan f) = f := by
  obtain ⟨a0, a1, a2, a3⟩ := f
  simp only [unpackLan, packLan, FmtLan.mk.injEq]
  refine ⟨?_, ?_, ?_, ?_⟩ <;>
  (repeat first
    | rw [BitVec.extractLsb'_append_eq_of_le (by decide)]
    | rw [BitVec.extractLsb'_append_eq_of_add_le (by decide)]) <;> simp

end Sys2Proof.Machine

namespace Sys2Proof

open Machine

/-! ## Operand fields -/

@[simp] theorem dSop_eSop (o : SOp) : dSop (eSop o) = .ok o := by
  cases o with
  | s r => revert r; decide
  | port n => revert n; decide

@[simp] theorem dVop_eVop5 (o : VOp) : dVop (eVop5 o) = .ok o := by
  cases o with
  | v r => revert r; decide
  | port n => revert n; decide
  | win n => revert n; decide

@[simp] theorem dVop_eVop6 (o : VOp) : dVop (eVop6 o) = .ok o := by
  cases o with
  | v r => revert r; decide
  | port n => revert n; decide
  | win n => revert n; decide

@[simp] theorem code_some {α : Type} (n : Nat) (a : α) : code n (some a) = .ok a := rfl

@[simp] theorem dTy_eTy (t : Ty) : dTy (eTy t) = .ok t := by cases t <;> rfl
@[simp] theorem rmOf_eRm (r : Rm) : rmOf (eRm r).toNat = some r := by cases r <;> rfl
@[simp] theorem condOf_code (c : Cond) : condOf (condCode c % 16) = some c := by cases c <;> rfl
@[simp] theorem pmodeOf_code (m : PMode) : pmodeOf (pmodeCode m % 4) = m := by cases m <;> rfl
@[simp] theorem spaceOf_eSp (s : Space) : spaceOf (eSp s).toNat = s := by cases s <;> rfl
@[simp] theorem ordOf_code (o : MOrd) : ordOf (ordCode o % 4) = o := by cases o <;> rfl
@[simp] theorem scopeOf_code (c : Scope) : scopeOf (scopeCode c % 16) = some c := by cases c <;> rfl
@[simp] theorem fenceOf_code (k : FenceKind) : fenceOf (fenceCode k % 4) = k := by cases k <;> rfl
@[simp] theorem scaleOf_code (c : Scale) : scaleOf (scaleCode c % 4) = some c := by cases c <;> rfl
@[simp] theorem amoOf_code (a : AmoOp) : amoOf (amoCode a % 16) = some a := by cases a <;> rfl
@[simp] theorem tileOf_eT (t : TileSel) : tileOf (eT t).toNat = some t := by cases t <;> rfl
@[simp] theorem spOrdOf_code (o : SpOrd) : spOrdOf (spOrdCode o % 4) = some o := by cases o <;> rfl
@[simp] theorem one1_eBit (b : Bool) : one1 (eBit b) = b := by cases b <;> rfl
@[simp] theorem eBit_false : eBit false = 0#1 := rfl
@[simp] theorem eBit_true : eBit true = 1#1 := rfl
@[simp] theorem eRm_rne : eRm .rne = 0#3 := rfl
@[simp] theorem ord_plain : BitVec.ofNat 2 (ordCode .plain) = 0#2 := rfl
@[simp] theorem scope_th : BitVec.ofNat 4 (scopeCode .th) = 0#4 := rfl
@[simp] theorem spOrd_plain : BitVec.ofNat 2 (spOrdCode .plain) = 0#2 := rfl
@[simp] theorem one1_zero : one1 0#1 = false := rfl
@[simp] theorem one1_one : one1 1#1 = true := rfl
@[simp] theorem zero_zero {w : Nat} : zero 0#w = .ok () := by simp [zero, need]

@[simp] theorem extract_setWidth {v n : Nat} (x : BitVec v) (h : v ≤ n) : (x.setWidth n).extractLsb' 0 v = x := by
  apply BitVec.eq_of_getLsbD_eq
  intro i hi
  simp [hi, show i < n by omega]
theorem extract_setWidth_above {v n s l : Nat} (x : BitVec v) (h : v ≤ s) : (x.setWidth n).extractLsb' s l = 0#l := by
  ext i hi
  simp [BitVec.getLsbD_of_ge x (s + i) (by omega)]
theorem low2_of4 (k : BitVec 2) : k.toNat % 16 < 4 := by have := k.isLt; omega
theorem low3_of4 (k : BitVec 3) : k.toNat % 16 < 8 := by have := k.isLt; omega
theorem low2_of3 (k : BitVec 2) : k.toNat % 8 < 4 := by have := k.isLt; omega

@[simp] theorem scLow_field (x : BitVec 6) : (x ++ 0#16).extractLsb' 16 6 = x := by
  rw [BitVec.extractLsb'_append_eq_of_le (by decide)]; simp
@[simp] theorem scLow_zero (x : BitVec 6) : (x ++ 0#16).extractLsb' 0 16 = 0#16 := by
  rw [BitVec.extractLsb'_append_eq_of_add_le (by decide)]; simp
section
variable (t : BitVec 6) (p : BitVec 2)
@[simp] theorem fillLow_port : (0#3 ++ t ++ 0#6 ++ p).extractLsb' 0 2 = p := by
  rw [BitVec.extractLsb'_append_eq_of_add_le (by decide)]; simp
@[simp] theorem fillLow_mid : (0#3 ++ t ++ 0#6 ++ p).extractLsb' 2 6 = 0#6 := by
  rw [BitVec.extractLsb'_append_eq_of_le (by decide), BitVec.extractLsb'_append_eq_of_add_le (by decide)]; simp
@[simp] theorem fillLow_target : (0#3 ++ t ++ 0#6 ++ p).extractLsb' 8 6 = t := by
  rw [BitVec.extractLsb'_append_eq_of_le (by decide), BitVec.extractLsb'_append_eq_of_le (by decide),
    BitVec.extractLsb'_append_eq_of_add_le (by decide)]
  simp
@[simp] theorem fillLow_top : (0#3 ++ t ++ 0#6 ++ p).extractLsb' 14 3 = 0#3 := by
  rw [BitVec.extractLsb'_append_eq_of_le (by decide), BitVec.extractLsb'_append_eq_of_le (by decide),
    BitVec.extractLsb'_append_eq_of_le (by decide)]
  simp
end

/-! ## Parts of a format -/

@[simp] theorem saRb_low (a b : BitVec 6) (x y : BitVec 6) (z : BitVec 4) (i : BitVec 1) : saRb ⟨x, y, z, i, saLow a b⟩ = a := by
  simp only [saRb, saLow]
  rw [BitVec.extractLsb'_append_eq_of_le (by decide), BitVec.extractLsb'_append_eq_of_le (by decide)]
  simp
@[simp] theorem saRc_low (a b : BitVec 6) (x y : BitVec 6) (z : BitVec 4) (i : BitVec 1) : saRc ⟨x, y, z, i, saLow a b⟩ = b := by
  simp only [saRc, saLow]
  rw [BitVec.extractLsb'_append_eq_of_le (by decide), BitVec.extractLsb'_append_eq_of_add_le (by decide)]
  simp
@[simp] theorem saZ_low (a b : BitVec 6) (x y : BitVec 6) (z : BitVec 4) (i : BitVec 1) : saZ ⟨x, y, z, i, saLow a b⟩ = 0#11 := by
  simp only [saZ, saLow]
  rw [BitVec.extractLsb'_append_eq_of_add_le (by decide)]
  simp

section
variable (d ra x : BitVec 6) (sp wd ord c : BitVec 2) (sx i : BitVec 1) (sco y : BitVec 4)
@[simp] theorem smRb_low : smRb ⟨d, ra, sp, wd, sx, ord, sco, i, smLow x c y⟩ = x := by
  simp only [smRb, smLow]
  rw [BitVec.extractLsb'_append_eq_of_le (by decide), BitVec.extractLsb'_append_eq_of_le (by decide),
    BitVec.extractLsb'_append_eq_of_le (by decide)]
  simp
@[simp] theorem smSc_low : smSc ⟨d, ra, sp, wd, sx, ord, sco, i, smLow x c y⟩ = c := by
  simp only [smSc, smLow]
  rw [BitVec.extractLsb'_append_eq_of_le (by decide), BitVec.extractLsb'_append_eq_of_le (by decide),
    BitVec.extractLsb'_append_eq_of_add_le (by decide)]
  simp
@[simp] theorem smAux_low : smAux ⟨d, ra, sp, wd, sx, ord, sco, i, smLow x c y⟩ = y := by
  simp only [smAux, smLow]
  rw [BitVec.extractLsb'_append_eq_of_le (by decide), BitVec.extractLsb'_append_eq_of_add_le (by decide)]
  simp
@[simp] theorem smZ_low : smZ ⟨d, ra, sp, wd, sx, ord, sco, i, smLow x c y⟩ = 0#4 := by
  simp only [smZ, smLow]
  rw [BitVec.extractLsb'_append_eq_of_add_le (by decide)]
  simp
end

/-! ## Syllables -/

/-- A word with a head decodes as its body does under its opcode, within the limits. -/
theorem decodeS_syl (g : Guard) (op : BitVec 7) (b : BitVec 40) : decodeS (syl g op b) = (decSBody op.toNat g b).bind checked := by
  cases g; simp [decodeS, syl, headGuard]; rfl

theorem decodeV_syl (g : Guard) (op : BitVec 7) (b : BitVec 40) : decodeV (syl g op b) = (decVBody op.toNat g b).bind checked := by
  cases g; simp [decodeV, syl, headGuard]; rfl

theorem checked_of_wellFormed {i : Instr} (h : i.wellFormed = true) : checked i = .ok i := if_pos h

theorem dSrcB_imm (a b : BitVec 6) (n : BitVec 4) (i : BitVec 23) : dSrcB ⟨a, b, n, 1#1, i⟩ = .ok (.imm i) := rfl

theorem dSrcB_reg (a b : BitVec 6) (n : BitVec 4) (o : SOp) : dSrcB ⟨a, b, n, 0#1, saLow (eSop o) 0#6⟩ = .ok (.reg o) := by
  simp [dSrcB]; rfl

/-- Any format SA with two operands and a second source, as eSA3 writes it. -/
theorem unpackSA_eSA3 (rd ra : SOp) (n : BitVec 4) (b : SrcB) : ∃ f, unpackSA (eSA3 rd ra n b) = f ∧ f.fn = n ∧ f.rd = eSop rd ∧ f.ra = eSop ra ∧
    dSrcB f = .ok b := by
  cases b with
  | reg o => exact ⟨_, rfl, by simp [eSA3], by simp [eSA3], by simp [eSA3], by simp [eSA3, dSrcB_reg]⟩
  | imm i => exact ⟨_, rfl, by simp [eSA3], by simp [eSA3], by simp [eSA3], by simp [eSA3, dSrcB_imm]⟩

end Sys2Proof
end

