-- ==== Sys2Proof/Laws/PerInstr.lean ====
section
/-! SUPPORT. The statement made for each instruction as syntax: its encoding decodes to it, with one lemma per constructor of Instr. -/

set_option Elab.async false

namespace Sys2Proof.Laws.RoundTrip

open Machine

/-- What a well-formed instruction is encoded to, as an S syllable, a V syllable or a filter word, decodes to it (R44 to R58, R457). -/
def Statement (i : Instr) : Prop :=
  i.wellFormed = true →
    (∀ w, encodeS i = some w → decodeS w = .ok i) ∧ (∀ w, encodeV i = some w → decodeV w = .ok i) ∧
    (∀ w, encodeLantern i = some w → decodeLantern w = .ok i)

theorem noWord {i : Instr} (hs : encodeS i = none) (hv : encodeV i = none) (hl : encodeLantern i = none) : Statement i := by
  intro _; simp [hs, hv, hl]

theorem ofS {i : Instr} {w : BitVec 64} (hs : encodeS i = some w) (hv : encodeV i = none) (hl : encodeLantern i = none)
    (hd : checked i = .ok i → decodeS w = .ok i) : Statement i := by
  intro h; simpa [hs, hv, hl] using hd (checked_of_wellFormed h)

theorem ofV {i : Instr} {w : BitVec 64} (hs : encodeS i = none) (hv : encodeV i = some w) (hl : encodeLantern i = none)
    (hd : checked i = .ok i → decodeV w = .ok i) : Statement i := by
  intro h; simpa [hs, hv, hl] using hd (checked_of_wellFormed h)

theorem ofL {i : Instr} {w : BitVec 32} (hs : encodeS i = none) (hv : encodeV i = none) (hl : encodeLantern i = some w)
    (hd : checked i = .ok i → decodeLantern w = .ok i) : Statement i := by
  intro h; simpa [hs, hv, hl] using hd (checked_of_wellFormed h)

theorem bindOk {α β : Type} (a : α) (f : α → Except DecodeErr β) : (Except.ok a >>= f) = f a := rfl
theorem exceptBindOk {α β : Type} (a : α) (f : α → Except DecodeErr β) : (Except.ok a).bind f = f a := rfl

end Sys2Proof.Laws.RoundTrip

namespace Sys2Proof.Laws

open Machine

theorem RoundTrip.nop (g : Guard) : RoundTrip.Statement (.nop g) :=
  fun h => by
    simp [encodeS, encodeV, encodeLantern, decodeS_syl, decodeV_syl, decSBody, decVBody, decSG, eSG, sgOnly, need, RoundTrip.bindOk, RoundTrip.exceptBindOk,
      checked_of_wellFormed h]
theorem RoundTrip.plive (g : Guard) (mask : BitVec 8) : RoundTrip.Statement (.plive g mask) :=
  RoundTrip.ofS rfl rfl rfl fun h => by
    simp [decodeS_syl, decSBody, need, extract_setWidth_above, decSG, eSG, sgOnly, RoundTrip.bindOk, RoundTrip.exceptBindOk, h]
theorem RoundTrip.add (g : Guard) (rd : SOp) (ra : SOp) (b : SrcB) : RoundTrip.Statement (.add g rd ra b) :=
  RoundTrip.ofS rfl rfl rfl fun h => by
    cases b <;> simp [decodeS_syl, decSBody, need, decSA, dSA3, eSA3, dSrcB_imm, dSrcB_reg, RoundTrip.bindOk, RoundTrip.exceptBindOk,
      h]
theorem RoundTrip.sub (g : Guard) (rd : SOp) (ra : SOp) (b : SrcB) : RoundTrip.Statement (.sub g rd ra b) :=
  RoundTrip.ofS rfl rfl rfl fun h => by
    cases b <;> simp [decodeS_syl, decSBody, need, decSA, dSA3, eSA3, dSrcB_imm, dSrcB_reg, RoundTrip.bindOk, RoundTrip.exceptBindOk,
      h]
theorem RoundTrip.mul (g : Guard) (rd : SOp) (ra : SOp) (b : SrcB) : RoundTrip.Statement (.mul g rd ra b) :=
  RoundTrip.ofS rfl rfl rfl fun h => by
    cases b <;> simp [decodeS_syl, decSBody, need, decSA, dSA3, eSA3, dSrcB_imm, dSrcB_reg, RoundTrip.bindOk, RoundTrip.exceptBindOk,
      h]
theorem RoundTrip.mulh (g : Guard) (uns : Bool) (rd : SOp) (ra : SOp) (b : SrcB) : RoundTrip.Statement (.mulh g uns rd ra b) :=
  RoundTrip.ofS rfl rfl rfl fun h => by
    cases uns <;> cases b <;> simp [decodeS_syl, decSBody, need, decSA, dSA3fn, eSA3, eFn, dSrcB_imm, dSrcB_reg, RoundTrip.bindOk,
      RoundTrip.exceptBindOk, h]
theorem RoundTrip.div (g : Guard) (uns : Bool) (rd : SOp) (ra : SOp) (b : SrcB) : RoundTrip.Statement (.div g uns rd ra b) :=
  RoundTrip.ofS rfl rfl rfl fun h => by
    cases uns <;> cases b <;> simp [decodeS_syl, decSBody, need, decSA, dSA3fn, eSA3, eFn, dSrcB_imm, dSrcB_reg, RoundTrip.bindOk,
      RoundTrip.exceptBindOk, h]
theorem RoundTrip.rem (g : Guard) (uns : Bool) (rd : SOp) (ra : SOp) (b : SrcB) : RoundTrip.Statement (.rem g uns rd ra b) :=
  RoundTrip.ofS rfl rfl rfl fun h => by
    cases uns <;> cases b <;> simp [decodeS_syl, decSBody, need, decSA, dSA3fn, eSA3, eFn, dSrcB_imm, dSrcB_reg, RoundTrip.bindOk,
      RoundTrip.exceptBindOk, h]
theorem RoundTrip.madd (g : Guard) (rd : SOp) (ra : SOp) (rb : SOp) (rc : SOp) : RoundTrip.Statement (.madd g rd ra rb rc) :=
  RoundTrip.ofS rfl rfl rfl fun h => by simp [decodeS_syl, decSBody, need, decSA, RoundTrip.bindOk, RoundTrip.exceptBindOk, h]
theorem RoundTrip.and (g : Guard) (rd : SOp) (ra : SOp) (b : SrcB) : RoundTrip.Statement (.and g rd ra b) :=
  RoundTrip.ofS rfl rfl rfl fun h => by
    cases b <;> simp [decodeS_syl, decSBody, need, decSA, dSA3, eSA3, dSrcB_imm, dSrcB_reg, RoundTrip.bindOk, RoundTrip.exceptBindOk,
      h]
theorem RoundTrip.or (g : Guard) (rd : SOp) (ra : SOp) (b : SrcB) : RoundTrip.Statement (.or g rd ra b) :=
  RoundTrip.ofS rfl rfl rfl fun h => by
    cases b <;> simp [decodeS_syl, decSBody, need, decSA, dSA3, eSA3, dSrcB_imm, dSrcB_reg, RoundTrip.bindOk, RoundTrip.exceptBindOk,
      h]
theorem RoundTrip.xor (g : Guard) (rd : SOp) (ra : SOp) (b : SrcB) : RoundTrip.Statement (.xor g rd ra b) :=
  RoundTrip.ofS rfl rfl rfl fun h => by
    cases b <;> simp [decodeS_syl, decSBody, need, decSA, dSA3, eSA3, dSrcB_imm, dSrcB_reg, RoundTrip.bindOk, RoundTrip.exceptBindOk,
      h]
theorem RoundTrip.andn (g : Guard) (rd : SOp) (ra : SOp) (b : SrcB) : RoundTrip.Statement (.andn g rd ra b) :=
  RoundTrip.ofS rfl rfl rfl fun h => by
    cases b <;> simp [decodeS_syl, decSBody, need, decSA, dSA3, eSA3, dSrcB_imm, dSrcB_reg, RoundTrip.bindOk, RoundTrip.exceptBindOk,
      h]
theorem RoundTrip.orn (g : Guard) (rd : SOp) (ra : SOp) (b : SrcB) : RoundTrip.Statement (.orn g rd ra b) :=
  RoundTrip.ofS rfl rfl rfl fun h => by
    cases b <;> simp [decodeS_syl, decSBody, need, decSA, dSA3, eSA3, dSrcB_imm, dSrcB_reg, RoundTrip.bindOk, RoundTrip.exceptBindOk,
      h]
theorem RoundTrip.xnor (g : Guard) (rd : SOp) (ra : SOp) (b : SrcB) : RoundTrip.Statement (.xnor g rd ra b) :=
  RoundTrip.ofS rfl rfl rfl fun h => by
    cases b <;> simp [decodeS_syl, decSBody, need, decSA, dSA3, eSA3, dSrcB_imm, dSrcB_reg, RoundTrip.bindOk, RoundTrip.exceptBindOk,
      h]
theorem RoundTrip.sll (g : Guard) (rd : SOp) (ra : SOp) (b : SrcB) : RoundTrip.Statement (.sll g rd ra b) :=
  RoundTrip.ofS rfl rfl rfl fun h => by
    cases b <;> simp [decodeS_syl, decSBody, need, decSA, dSA3, eSA3, dSrcB_imm, dSrcB_reg, RoundTrip.bindOk, RoundTrip.exceptBindOk,
      h]
theorem RoundTrip.srl (g : Guard) (rd : SOp) (ra : SOp) (b : SrcB) : RoundTrip.Statement (.srl g rd ra b) :=
  RoundTrip.ofS rfl rfl rfl fun h => by
    cases b <;> simp [decodeS_syl, decSBody, need, decSA, dSA3, eSA3, dSrcB_imm, dSrcB_reg, RoundTrip.bindOk, RoundTrip.exceptBindOk,
      h]
theorem RoundTrip.sra (g : Guard) (rd : SOp) (ra : SOp) (b : SrcB) : RoundTrip.Statement (.sra g rd ra b) :=
  RoundTrip.ofS rfl rfl rfl fun h => by
    cases b <;> simp [decodeS_syl, decSBody, need, decSA, dSA3, eSA3, dSrcB_imm, dSrcB_reg, RoundTrip.bindOk, RoundTrip.exceptBindOk,
      h]
theorem RoundTrip.rol (g : Guard) (rd : SOp) (ra : SOp) (b : SrcB) : RoundTrip.Statement (.rol g rd ra b) :=
  RoundTrip.ofS rfl rfl rfl fun h => by
    cases b <;> simp [decodeS_syl, decSBody, need, decSA, dSA3, eSA3, dSrcB_imm, dSrcB_reg, RoundTrip.bindOk, RoundTrip.exceptBindOk,
      h]
theorem RoundTrip.ror (g : Guard) (rd : SOp) (ra : SOp) (b : SrcB) : RoundTrip.Statement (.ror g rd ra b) :=
  RoundTrip.ofS rfl rfl rfl fun h => by
    cases b <;> simp [decodeS_syl, decSBody, need, decSA, dSA3, eSA3, dSrcB_imm, dSrcB_reg, RoundTrip.bindOk, RoundTrip.exceptBindOk,
      h]
theorem RoundTrip.clz (g : Guard) (rd : SOp) (ra : SOp) : RoundTrip.Statement (.clz g rd ra) :=
  RoundTrip.ofS rfl rfl rfl fun h => by simp [decodeS_syl, decSBody, decSA, dSA2, eSA2, RoundTrip.bindOk, RoundTrip.exceptBindOk, h]
theorem RoundTrip.ctz (g : Guard) (rd : SOp) (ra : SOp) : RoundTrip.Statement (.ctz g rd ra) :=
  RoundTrip.ofS rfl rfl rfl fun h => by simp [decodeS_syl, decSBody, decSA, dSA2, eSA2, RoundTrip.bindOk, RoundTrip.exceptBindOk, h]
theorem RoundTrip.popc (g : Guard) (rd : SOp) (ra : SOp) : RoundTrip.Statement (.popc g rd ra) :=
  RoundTrip.ofS rfl rfl rfl fun h => by simp [decodeS_syl, decSBody, decSA, dSA2, eSA2, RoundTrip.bindOk, RoundTrip.exceptBindOk, h]
theorem RoundTrip.brev (g : Guard) (rd : SOp) (ra : SOp) : RoundTrip.Statement (.brev g rd ra) :=
  RoundTrip.ofS rfl rfl rfl fun h => by simp [decodeS_syl, decSBody, decSA, dSA2, eSA2, RoundTrip.bindOk, RoundTrip.exceptBindOk, h]
theorem RoundTrip.bswap (g : Guard) (rd : SOp) (ra : SOp) : RoundTrip.Statement (.bswap g rd ra) :=
  RoundTrip.ofS rfl rfl rfl fun h => by simp [decodeS_syl, decSBody, decSA, dSA2, eSA2, RoundTrip.bindOk, RoundTrip.exceptBindOk, h]
theorem RoundTrip.abs (g : Guard) (rd : SOp) (ra : SOp) : RoundTrip.Statement (.abs g rd ra) :=
  RoundTrip.ofS rfl rfl rfl fun h => by simp [decodeS_syl, decSBody, decSA, dSA2, eSA2, RoundTrip.bindOk, RoundTrip.exceptBindOk, h]
theorem RoundTrip.bext (g : Guard) (sx : Bool) (rd : SOp) (ra : SOp) (b : SrcB) : RoundTrip.Statement (.bext g sx rd ra b) :=
  RoundTrip.ofS rfl rfl rfl fun h => by
    cases sx <;> cases b <;> simp [decodeS_syl, decSBody, need, decSA, dSA3fn, eSA3, eFn, dSrcB_imm, dSrcB_reg, RoundTrip.bindOk,
      RoundTrip.exceptBindOk, h]
theorem RoundTrip.bins (g : Guard) (rd : SOp) (ra : SOp) (b : SrcB) : RoundTrip.Statement (.bins g rd ra b) :=
  RoundTrip.ofS rfl rfl rfl fun h => by
    cases b <;> simp [decodeS_syl, decSBody, need, decSA, dSA3, eSA3, dSrcB_imm, dSrcB_reg, RoundTrip.bindOk, RoundTrip.exceptBindOk,
      h]
theorem RoundTrip.sext (g : Guard) (rd : SOp) (ra : SOp) (n : BitVec 23) : RoundTrip.Statement (.sext g rd ra n) :=
  RoundTrip.ofS rfl rfl rfl fun h => by simp [decodeS_syl, decSBody, need, decSA, RoundTrip.bindOk, RoundTrip.exceptBindOk, h]
theorem RoundTrip.zext (g : Guard) (rd : SOp) (ra : SOp) (n : BitVec 23) : RoundTrip.Statement (.zext g rd ra n) :=
  RoundTrip.ofS rfl rfl rfl fun h => by simp [decodeS_syl, decSBody, need, decSA, RoundTrip.bindOk, RoundTrip.exceptBindOk, h]
theorem RoundTrip.min (g : Guard) (uns : Bool) (rd : SOp) (ra : SOp) (b : SrcB) : RoundTrip.Statement (.min g uns rd ra b) :=
  RoundTrip.ofS rfl rfl rfl fun h => by
    cases uns <;> cases b <;> simp [decodeS_syl, decSBody, need, decSA, dSA3fn, eSA3, eFn, dSrcB_imm, dSrcB_reg, RoundTrip.bindOk,
      RoundTrip.exceptBindOk, h]
theorem RoundTrip.max (g : Guard) (uns : Bool) (rd : SOp) (ra : SOp) (b : SrcB) : RoundTrip.Statement (.max g uns rd ra b) :=
  RoundTrip.ofS rfl rfl rfl fun h => by
    cases uns <;> cases b <;> simp [decodeS_syl, decSBody, need, decSA, dSA3fn, eSA3, eFn, dSrcB_imm, dSrcB_reg, RoundTrip.bindOk,
      RoundTrip.exceptBindOk, h]
theorem RoundTrip.shadd (g : Guard) (k : BitVec 2) (rd : SOp) (ra : SOp) (b : SrcB) : RoundTrip.Statement (.shadd g k rd ra b) :=
  RoundTrip.ofS rfl rfl rfl fun h => by
    cases b <;> simp [decodeS_syl, decSBody, need, low2_of4, decSA, eSA3, dSrcB_imm, dSrcB_reg, RoundTrip.bindOk,
      RoundTrip.exceptBindOk, h]
theorem RoundTrip.li (g : Guard) (rd : SOp) (i : BitVec 34) : RoundTrip.Statement (.li g rd i) :=
  RoundTrip.ofS rfl rfl rfl fun h => by simp [decodeS_syl, decSBody, RoundTrip.bindOk, RoundTrip.exceptBindOk, h]
theorem RoundTrip.lih (g : Guard) (rd : SOp) (i : BitVec 30) : RoundTrip.Statement (.lih g rd i) :=
  RoundTrip.ofS rfl rfl rfl fun h => by simp [decodeS_syl, decSBody, extract_setWidth_above, RoundTrip.bindOk, RoundTrip.exceptBindOk, h]
theorem RoundTrip.mov (g : Guard) (rd : SOp) (ra : SOp) : RoundTrip.Statement (.mov g rd ra) :=
  RoundTrip.ofS rfl rfl rfl fun h => by simp [decodeS_syl, decSBody, need, decSA, dSA2, eSA2, RoundTrip.bindOk, RoundTrip.exceptBindOk, h]
theorem RoundTrip.sel (g : Guard) (q : BitVec 3) (rd : SOp) (ra : SOp) (rb : SOp) : RoundTrip.Statement (.sel g q rd ra rb) :=
  RoundTrip.ofS rfl rfl rfl fun h => by simp [decodeS_syl, decSBody, need, low3_of4, decSA, RoundTrip.bindOk, RoundTrip.exceptBindOk, h]
theorem RoundTrip.cmp (g : Guard) (pd : BitVec 3) (pe : BitVec 3) (m : PMode) (cond : Cond) (ra : SOp) (rb : SOp) :
    RoundTrip.Statement (.cmp g pd pe m cond ra rb) :=
  RoundTrip.ofS rfl rfl rfl fun h => by simp [decodeS_syl, decSBody, decSC, pmodeOf_code, RoundTrip.bindOk, RoundTrip.exceptBindOk, h]
theorem RoundTrip.cmpi (g : Guard) (pd : BitVec 3) (pe : BitVec 3) (m : PMode) (cond : Cond) (ra : SOp) (i : BitVec 22) :
    RoundTrip.Statement (.cmpi g pd pe m cond ra i) :=
  RoundTrip.ofS rfl rfl rfl fun h => by simp [decodeS_syl, decSBody, decSC, pmodeOf_code, RoundTrip.bindOk, RoundTrip.exceptBindOk, h]
theorem RoundTrip.ptt (g : Guard) (pd : BitVec 3) (pe : BitVec 3) (m : PMode) (tt : BitVec 8) (qa : BitVec 3) (qb : BitVec 3) (qc : BitVec 3) :
    RoundTrip.Statement (.ptt g pd pe m tt qa qb qc) :=
  RoundTrip.ofS rfl rfl rfl fun h => by simp [decodeS_syl, decSBody, decSP, RoundTrip.bindOk, RoundTrip.exceptBindOk, h]
theorem RoundTrip.pmov (g : Guard) (pd : BitVec 3) (ra : SOp) : RoundTrip.Statement (.pmov g pd ra) :=
  RoundTrip.ofS rfl rfl rfl fun h => by simp [decodeS_syl, decSBody, decSP, RoundTrip.bindOk, RoundTrip.exceptBindOk, h]
theorem RoundTrip.pget (g : Guard) (rd : SOp) (qa : BitVec 3) : RoundTrip.Statement (.pget g rd qa) :=
  RoundTrip.ofS rfl rfl rfl fun h => by simp [decodeS_syl, decSBody, decSP, RoundTrip.bindOk, RoundTrip.exceptBindOk, h]
theorem RoundTrip.pany (g : Guard) (pd : BitVec 3) (pe : BitVec 3) (m : PMode) (qa : BitVec 3) (lw : BitVec 2) :
    RoundTrip.Statement (.pany g pd pe m qa lw) :=
  RoundTrip.ofS rfl rfl rfl fun h => by simp [decodeS_syl, decSBody, need, low2_of3, decSP, RoundTrip.bindOk, RoundTrip.exceptBindOk, h]
theorem RoundTrip.pall (g : Guard) (pd : BitVec 3) (pe : BitVec 3) (m : PMode) (qa : BitVec 3) (lw : BitVec 2) :
    RoundTrip.Statement (.pall g pd pe m qa lw) :=
  RoundTrip.ofS rfl rfl rfl fun h => by simp [decodeS_syl, decSBody, need, low2_of3, decSP, RoundTrip.bindOk, RoundTrip.exceptBindOk, h]
theorem RoundTrip.pcnt (g : Guard) (rd : SOp) (qa : BitVec 3) (lw : BitVec 2) : RoundTrip.Statement (.pcnt g rd qa lw) :=
  RoundTrip.ofS rfl rfl rfl fun h => by simp [decodeS_syl, decSBody, need, low2_of3, decSP, RoundTrip.bindOk, RoundTrip.exceptBindOk, h]
theorem RoundTrip.pfirst (g : Guard) (rd : SOp) (qa : BitVec 3) (lw : BitVec 2) : RoundTrip.Statement (.pfirst g rd qa lw) :=
  RoundTrip.ofS rfl rfl rfl fun h => by simp [decodeS_syl, decSBody, need, low2_of3, decSP, RoundTrip.bindOk, RoundTrip.exceptBindOk, h]
theorem RoundTrip.br (g : Guard) (off : BitVec 40) : RoundTrip.Statement (.br g off) :=
  RoundTrip.ofS rfl rfl rfl fun h => by simp [decodeS_syl, decSBody, RoundTrip.exceptBindOk, h]
theorem RoundTrip.call (g : Guard) (off : BitVec 40) : RoundTrip.Statement (.call g off) :=
  RoundTrip.ofS rfl rfl rfl fun h => by simp [decodeS_syl, decSBody, RoundTrip.exceptBindOk, h]
theorem RoundTrip.loop (g : Guard) (ra : SOp) (off : BitVec 34) : RoundTrip.Statement (.loop g ra off) :=
  RoundTrip.ofS rfl rfl rfl fun h => by simp [decodeS_syl, decSBody, RoundTrip.bindOk, RoundTrip.exceptBindOk, h]
theorem RoundTrip.jmp (g : Guard) (ra : SOp) : RoundTrip.Statement (.jmp g ra) :=
  RoundTrip.ofS rfl rfl rfl fun h => by simp [decodeS_syl, decSBody, need, decSG, eSG, sgOnly, RoundTrip.bindOk, RoundTrip.exceptBindOk, h]
theorem RoundTrip.callr (g : Guard) (ra : SOp) : RoundTrip.Statement (.callr g ra) :=
  RoundTrip.ofS rfl rfl rfl fun h => by simp [decodeS_syl, decSBody, need, decSG, eSG, sgOnly, RoundTrip.bindOk, RoundTrip.exceptBindOk, h]
theorem RoundTrip.ret (g : Guard) : RoundTrip.Statement (.ret g) :=
  RoundTrip.ofS rfl rfl rfl fun h => by simp [decodeS_syl, decSBody, need, decSG, eSG, sgOnly, RoundTrip.bindOk, RoundTrip.exceptBindOk, h]
theorem RoundTrip.jf (g : Guard) (seg : BitVec 12) (entry : BitVec 12) : RoundTrip.Statement (.jf g seg entry) :=
  RoundTrip.ofS rfl rfl rfl fun h => by simp [decodeS_syl, decSBody, RoundTrip.bindOk, RoundTrip.exceptBindOk, h]
theorem RoundTrip.callf (g : Guard) (seg : BitVec 12) (entry : BitVec 12) : RoundTrip.Statement (.callf g seg entry) :=
  RoundTrip.ofS rfl rfl rfl fun h => by simp [decodeS_syl, decSBody, RoundTrip.bindOk, RoundTrip.exceptBindOk, h]
theorem RoundTrip.trap (g : Guard) (code : BitVec 16) : RoundTrip.Statement (.trap g code) :=
  RoundTrip.ofS rfl rfl rfl fun h => by
    simp [decodeS_syl, decSBody, need, extract_setWidth_above, decSG, eSG, sgOnly, RoundTrip.bindOk, RoundTrip.exceptBindOk, h]
theorem RoundTrip.brk (g : Guard) (code : BitVec 16) : RoundTrip.Statement (.brk g code) :=
  RoundTrip.ofS rfl rfl rfl fun h => by
    simp [decodeS_syl, decSBody, need, extract_setWidth_above, decSG, eSG, sgOnly, RoundTrip.bindOk, RoundTrip.exceptBindOk, h]
theorem RoundTrip.eret (g : Guard) : RoundTrip.Statement (.eret g) :=
  RoundTrip.ofS rfl rfl rfl fun h => by simp [decodeS_syl, decSBody, need, decSG, eSG, sgOnly, RoundTrip.bindOk, RoundTrip.exceptBindOk, h]
theorem RoundTrip.halt (g : Guard) : RoundTrip.Statement (.halt g) :=
  RoundTrip.ofS rfl rfl rfl fun h => by simp [decodeS_syl, decSBody, need, decSG, eSG, sgOnly, RoundTrip.bindOk, RoundTrip.exceptBindOk, h]
theorem RoundTrip.wfe (g : Guard) (mask : BitVec 8) : RoundTrip.Statement (.wfe g mask) :=
  RoundTrip.ofS rfl rfl rfl fun h => by
    simp [decodeS_syl, decSBody, need, extract_setWidth_above, decSG, eSG, sgOnly, RoundTrip.bindOk, RoundTrip.exceptBindOk, h]
theorem RoundTrip.tmark (g : Guard) (m : BitVec 16) : RoundTrip.Statement (.tmark g m) :=
  RoundTrip.ofS rfl rfl rfl fun h => by
    simp [decodeS_syl, decSBody, need, extract_setWidth_above, decSG, eSG, sgOnly, RoundTrip.bindOk, RoundTrip.exceptBindOk, h]
theorem RoundTrip.csrr (g : Guard) (x : SOp) (csr : BitVec 12) : RoundTrip.Statement (.csrr g x csr) :=
  RoundTrip.ofS rfl rfl rfl fun h => by
    simp [decodeS_syl, decSBody, need, extract_setWidth_above, decSG, eSG, sgOnly, RoundTrip.bindOk, RoundTrip.exceptBindOk, h]
theorem RoundTrip.csrw (g : Guard) (x : SOp) (ra : SOp) (csr : BitVec 12) : RoundTrip.Statement (.csrw g x ra csr) :=
  RoundTrip.ofS rfl rfl rfl fun h => by
    simp [decodeS_syl, decSBody, need, extract_setWidth_above, decSG, eSG, sgOnly, decSG.dCsr, RoundTrip.bindOk,
      RoundTrip.exceptBindOk, h]
theorem RoundTrip.csrs (g : Guard) (x : SOp) (ra : SOp) (csr : BitVec 12) : RoundTrip.Statement (.csrs g x ra csr) :=
  RoundTrip.ofS rfl rfl rfl fun h => by
    simp [decodeS_syl, decSBody, need, extract_setWidth_above, decSG, eSG, sgOnly, decSG.dCsr, RoundTrip.bindOk,
      RoundTrip.exceptBindOk, h]
theorem RoundTrip.csrc (g : Guard) (x : SOp) (ra : SOp) (csr : BitVec 12) : RoundTrip.Statement (.csrc g x ra csr) :=
  RoundTrip.ofS rfl rfl rfl fun h => by
    simp [decodeS_syl, decSBody, need, extract_setWidth_above, decSG, eSG, sgOnly, decSG.dCsr, RoundTrip.bindOk,
      RoundTrip.exceptBindOk, h]
theorem RoundTrip.ipi (g : Guard) (ra : SOp) (code : BitVec 8) : RoundTrip.Statement (.ipi g ra code) :=
  RoundTrip.ofS rfl rfl rfl fun h => by
    simp [decodeS_syl, decSBody, need, extract_setWidth_above, decSG, eSG, sgOnly, RoundTrip.bindOk, RoundTrip.exceptBindOk, h]
theorem RoundTrip.sfence (g : Guard) (ra : SOp) (rb : SOp) : RoundTrip.Statement (.sfence g ra rb) :=
  RoundTrip.ofS rfl rfl rfl fun h => by simp [decodeS_syl, decSBody, need, decSG, eSG, sgOnly, RoundTrip.bindOk, RoundTrip.exceptBindOk, h]
theorem RoundTrip.cfetch (g : Guard) (sp : Space) (ra : SOp) (seg : BitVec 12) : RoundTrip.Statement (.cfetch g sp ra seg) :=
  RoundTrip.ofS rfl rfl rfl fun h => by
    simp [decodeS_syl, decSBody, need, extract_setWidth_above, decSM, decSM.dSealFields, RoundTrip.bindOk, RoundTrip.exceptBindOk, h]
theorem RoundTrip.ld (g : Guard) (sp : Space) (wd : BitVec 2) (sx : Bool) (ord : MOrd) (sco : Scope) (d : SOp) (ra : SOp) (m : MemOff) :
    RoundTrip.Statement (.ld g sp wd sx ord sco d ra m) :=
  RoundTrip.ofS rfl rfl rfl fun h => by
    cases sx <;> cases m <;> simp [decodeS_syl, decSBody, decSM, eSM, dScope, dMemOff, RoundTrip.bindOk, RoundTrip.exceptBindOk, h]
theorem RoundTrip.st (g : Guard) (sp : Space) (wd : BitVec 2) (ord : MOrd) (sco : Scope) (d : SOp) (ra : SOp) (m : MemOff) :
    RoundTrip.Statement (.st g sp wd ord sco d ra m) :=
  RoundTrip.ofS rfl rfl rfl fun h => by
    cases m <;> simp [decodeS_syl, decSBody, decSM, eSM, dScope, dMemOff, RoundTrip.bindOk, RoundTrip.exceptBindOk, h]
theorem RoundTrip.vld (g : Guard) (sp : Space) (ord : MOrd) (sco : Scope) (d : VOp) (ra : SOp) (m : MemOff) :
    RoundTrip.Statement (.vld g sp ord sco d ra m) :=
  RoundTrip.ofS rfl rfl rfl fun h => by
    cases m <;> simp [decodeS_syl, decSBody, decSM, eSM, dScope, dMemOff, RoundTrip.bindOk, RoundTrip.exceptBindOk, h]
theorem RoundTrip.vst (g : Guard) (sp : Space) (ord : MOrd) (sco : Scope) (d : VOp) (ra : SOp) (m : MemOff) :
    RoundTrip.Statement (.vst g sp ord sco d ra m) :=
  RoundTrip.ofS rfl rfl rfl fun h => by
    cases m <;> simp [decodeS_syl, decSBody, decSM, eSM, dScope, dMemOff, RoundTrip.bindOk, RoundTrip.exceptBindOk, h]
theorem RoundTrip.vlds (g : Guard) (sp : Space) (wd : BitVec 2) (ord : MOrd) (sco : Scope) (d : VOp) (ra : SOp) (rb : SOp) :
    RoundTrip.Statement (.vlds g sp wd ord sco d ra rb) :=
  RoundTrip.ofS rfl rfl rfl fun h => by
    simp [decodeS_syl, decSBody, decSM, eSMrb, dScope, dSmRb, RoundTrip.bindOk, RoundTrip.exceptBindOk, h]
theorem RoundTrip.vsts (g : Guard) (sp : Space) (wd : BitVec 2) (ord : MOrd) (sco : Scope) (d : VOp) (ra : SOp) (rb : SOp) :
    RoundTrip.Statement (.vsts g sp wd ord sco d ra rb) :=
  RoundTrip.ofS rfl rfl rfl fun h => by
    simp [decodeS_syl, decSBody, decSM, eSMrb, dScope, dSmRb, RoundTrip.bindOk, RoundTrip.exceptBindOk, h]
theorem RoundTrip.vldx (g : Guard) (ord : MOrd) (sco : Scope) (d : VOp) (ra : SOp) (rb : SOp) :
    RoundTrip.Statement (.vldx g ord sco d ra rb) :=
  RoundTrip.ofS rfl rfl rfl fun h => by
    simp [decodeS_syl, decSBody, decSM, eSMrb, dScope, dSmRb, RoundTrip.bindOk, RoundTrip.exceptBindOk, h]
theorem RoundTrip.vstx (g : Guard) (ord : MOrd) (sco : Scope) (d : VOp) (ra : SOp) (rb : SOp) :
    RoundTrip.Statement (.vstx g ord sco d ra rb) :=
  RoundTrip.ofS rfl rfl rfl fun h => by
    simp [decodeS_syl, decSBody, decSM, eSMrb, dScope, dSmRb, RoundTrip.bindOk, RoundTrip.exceptBindOk, h]
theorem RoundTrip.ldfe (g : Guard) (ord : MOrd) (sco : Scope) (d : SOp) (ra : SOp) (m : MemOff) :
    RoundTrip.Statement (.ldfe g ord sco d ra m) :=
  RoundTrip.ofS rfl rfl rfl fun h => by
    cases m <;> simp [decodeS_syl, decSBody, need, decSM, eSM, dScope, dMemOff, decSM.dFe, RoundTrip.bindOk, RoundTrip.exceptBindOk,
      h]
theorem RoundTrip.ldff (g : Guard) (ord : MOrd) (sco : Scope) (d : SOp) (ra : SOp) (m : MemOff) :
    RoundTrip.Statement (.ldff g ord sco d ra m) :=
  RoundTrip.ofS rfl rfl rfl fun h => by
    cases m <;> simp [decodeS_syl, decSBody, need, decSM, eSM, dScope, dMemOff, decSM.dFe, RoundTrip.bindOk, RoundTrip.exceptBindOk,
      h]
theorem RoundTrip.stef (g : Guard) (ord : MOrd) (sco : Scope) (d : SOp) (ra : SOp) (m : MemOff) :
    RoundTrip.Statement (.stef g ord sco d ra m) :=
  RoundTrip.ofS rfl rfl rfl fun h => by
    cases m <;> simp [decodeS_syl, decSBody, need, decSM, eSM, dScope, dMemOff, decSM.dFe, RoundTrip.bindOk, RoundTrip.exceptBindOk,
      h]
theorem RoundTrip.stff (g : Guard) (ord : MOrd) (sco : Scope) (d : SOp) (ra : SOp) (m : MemOff) :
    RoundTrip.Statement (.stff g ord sco d ra m) :=
  RoundTrip.ofS rfl rfl rfl fun h => by
    cases m <;> simp [decodeS_syl, decSBody, need, decSM, eSM, dScope, dMemOff, decSM.dFe, RoundTrip.bindOk, RoundTrip.exceptBindOk,
      h]
theorem RoundTrip.fest (g : Guard) (f : Bool) (ra : SOp) (rb : SOp) (sc : Scale) : RoundTrip.Statement (.fest g f ra rb sc) :=
  RoundTrip.ofS rfl rfl rfl fun h => by
    cases f <;> simp [decodeS_syl, decSBody, need, decSM, eFn, RoundTrip.bindOk, RoundTrip.exceptBindOk, h]
theorem RoundTrip.amo (g : Guard) (op : AmoOp) (sp : Space) (w64 : Bool) (ord : MOrd) (sco : Scope) (d : SOp) (ra : SOp) (rb : SOp) :
    RoundTrip.Statement (.amo g op sp w64 ord sco d ra rb) :=
  RoundTrip.ofS rfl rfl rfl fun h => by
    cases w64 <;> simp [decodeS_syl, decSBody, need, decSM, eSMrb, dScope, RoundTrip.bindOk, RoundTrip.exceptBindOk, h]
theorem RoundTrip.cas (g : Guard) (sp : Space) (w64 : Bool) (ord : MOrd) (sco : Scope) (d : SOp) (ra : SOp) (rb : SOp) :
    RoundTrip.Statement (.cas g sp w64 ord sco d ra rb) :=
  RoundTrip.ofS rfl rfl rfl fun h => by
    cases w64 <;> simp [decodeS_syl, decSBody, need, decSM, eSMrb, dScope, dSmRb, RoundTrip.bindOk, RoundTrip.exceptBindOk, h]
theorem RoundTrip.fence (g : Guard) (k : FenceKind) (sco : Scope) : RoundTrip.Statement (.fence g k sco) :=
  RoundTrip.ofS rfl rfl rfl fun h => by simp [decodeS_syl, decSBody, decSM, dScope, RoundTrip.bindOk, RoundTrip.exceptBindOk, h]
theorem RoundTrip.seal (g : Guard) (sp : Space) (ra : SOp) (rb : SOp) : RoundTrip.Statement (.seal g sp ra rb) :=
  RoundTrip.ofS rfl rfl rfl fun h => by
    simp [decodeS_syl, decSBody, decSM, eSMrb, dSmRb, decSM.dSealFields, RoundTrip.bindOk, RoundTrip.exceptBindOk, h]
theorem RoundTrip.unseal (g : Guard) (sp : Space) (d : SOp) (ra : SOp) (rb : SOp) : RoundTrip.Statement (.unseal g sp d ra rb) :=
  RoundTrip.ofS rfl rfl rfl fun h => by
    simp [decodeS_syl, decSBody, decSM, eSMrb, dSmRb, decSM.dSealFields, RoundTrip.bindOk, RoundTrip.exceptBindOk, h]
theorem RoundTrip.publish (g : Guard) (sp : Space) (ra : SOp) : RoundTrip.Statement (.publish g sp ra) :=
  RoundTrip.ofS rfl rfl rfl fun h => by simp [decodeS_syl, decSBody, decSM, decSM.dSealFields, RoundTrip.bindOk, RoundTrip.exceptBindOk, h]
theorem RoundTrip.rfill (g : Guard) (x : XOp) (port : BitVec 2) (tgt : BitVec 6) : RoundTrip.Statement (.rfill g x port tgt) :=
  RoundTrip.ofS rfl rfl rfl fun h => by
    cases x <;> simp [decodeS_syl, decSBody, need, decSG, eSG, sgOnly, dXop, eX, eK, RoundTrip.bindOk, RoundTrip.exceptBindOk, h]
theorem RoundTrip.remp (g : Guard) (x : XOp) : RoundTrip.Statement (.remp g x) :=
  RoundTrip.ofS rfl rfl rfl fun h => by
    cases x <;> simp [decodeS_syl, decSBody, need, decSG, eSG, sgOnly, dXop, eX, eK, RoundTrip.bindOk, RoundTrip.exceptBindOk, h]
theorem RoundTrip.bind (g : Guard) (ra : SOp) (rb : SOp) (sel : BitVec 3) : RoundTrip.Statement (.bind g ra rb sel) :=
  RoundTrip.ofS rfl rfl rfl fun h => by
    simp [decodeS_syl, decSBody, need, extract_setWidth_above, decSG, eSG, sgOnly, RoundTrip.bindOk, RoundTrip.exceptBindOk, h]
theorem RoundTrip.unbind (g : Guard) (sel : BitVec 3) : RoundTrip.Statement (.unbind g sel) :=
  RoundTrip.ofS rfl rfl rfl fun h => by
    simp [decodeS_syl, decSBody, need, extract_setWidth_above, decSG, eSG, sgOnly, RoundTrip.bindOk, RoundTrip.exceptBindOk, h]
theorem RoundTrip.winb (g : Guard) (ra : SOp) (n : BitVec 2) : RoundTrip.Statement (.winb g ra n) :=
  RoundTrip.ofS rfl rfl rfl fun h => by
    simp [decodeS_syl, decSBody, need, extract_setWidth_above, decSG, eSG, sgOnly, RoundTrip.bindOk, RoundTrip.exceptBindOk, h]
theorem RoundTrip.sbind (g : Guard) (x : XOp) (ra : SOp) : RoundTrip.Statement (.sbind g x ra) :=
  RoundTrip.ofS rfl rfl rfl fun h => by
    cases x <;> simp [decodeS_syl, decSBody, need, decSG, eSG, sgOnly, dXop, eX, eK, RoundTrip.bindOk, RoundTrip.exceptBindOk, h]
theorem RoundTrip.sunbind (g : Guard) (x : XOp) : RoundTrip.Statement (.sunbind g x) :=
  RoundTrip.ofS rfl rfl rfl fun h => by
    cases x <;> simp [decodeS_syl, decSBody, need, decSG, eSG, sgOnly, dXop, eX, eK, RoundTrip.bindOk, RoundTrip.exceptBindOk, h]
theorem RoundTrip.mark (g : Guard) (ra : SOp) (n : BitVec 2) : RoundTrip.Statement (.mark g ra n) :=
  RoundTrip.ofS rfl rfl rfl fun h => by
    simp [decodeS_syl, decSBody, need, extract_setWidth_above, decSG, eSG, sgOnly, RoundTrip.bindOk, RoundTrip.exceptBindOk, h]
theorem RoundTrip.cpy (g : Guard) (x : SOp) (ra : SOp) (rb : SOp) (ch : BitVec 3) : RoundTrip.Statement (.cpy g x ra rb ch) :=
  RoundTrip.ofS rfl rfl rfl fun h => by
    simp [decodeS_syl, decSBody, need, extract_setWidth_above, decSG, eSG, sgOnly, RoundTrip.bindOk, RoundTrip.exceptBindOk, h]
theorem RoundTrip.cpyr (g : Guard) (i32 : Bool) (x : SOp) (ra : SOp) (rb : SOp) (ch : BitVec 3) :
    RoundTrip.Statement (.cpyr g i32 x ra rb ch) :=
  RoundTrip.ofS rfl rfl rfl fun h => by
    cases i32 <;> simp [decodeS_syl, decSBody, need, extract_setWidth_above, decSG, eSG, sgOnly, eFn, RoundTrip.bindOk,
      RoundTrip.exceptBindOk, h]
theorem RoundTrip.twait (g : Guard) (ra : SOp) (ch : BitVec 3) : RoundTrip.Statement (.twait g ra ch) :=
  RoundTrip.ofS rfl rfl rfl fun h => by
    simp [decodeS_syl, decSBody, need, extract_setWidth_above, decSG, eSG, sgOnly, RoundTrip.bindOk, RoundTrip.exceptBindOk, h]
theorem RoundTrip.tstat (g : Guard) (x : SOp) (ch : BitVec 3) : RoundTrip.Statement (.tstat g x ch) :=
  RoundTrip.ofS rfl rfl rfl fun h => by
    simp [decodeS_syl, decSBody, need, extract_setWidth_above, decSG, eSG, sgOnly, RoundTrip.bindOk, RoundTrip.exceptBindOk, h]
theorem RoundTrip.mcmd (g : Guard) (x : SOp) (ra : SOp) (rb : SOp) (n : BitVec 2) : RoundTrip.Statement (.mcmd g x ra rb n) :=
  RoundTrip.ofS rfl rfl rfl fun h => by
    simp [decodeS_syl, decSBody, need, extract_setWidth_above, decSG, eSG, sgOnly, RoundTrip.bindOk, RoundTrip.exceptBindOk, h]
theorem RoundTrip.spawn (g : Guard) (hard : Bool) (x : SOp) (ra : SOp) (rb : SOp) : RoundTrip.Statement (.spawn g hard x ra rb) :=
  RoundTrip.ofS rfl rfl rfl fun h => by
    cases hard <;> simp [decodeS_syl, decSBody, need, decSG, eSG, sgOnly, eFn, RoundTrip.bindOk, RoundTrip.exceptBindOk, h]
theorem RoundTrip.lnch (g : Guard) (x : SOp) (ra : SOp) : RoundTrip.Statement (.lnch g x ra) :=
  RoundTrip.ofS rfl rfl rfl fun h => by simp [decodeS_syl, decSBody, need, decSG, eSG, sgOnly, RoundTrip.bindOk, RoundTrip.exceptBindOk, h]
theorem RoundTrip.trig (g : Guard) : RoundTrip.Statement (.trig g) :=
  RoundTrip.ofS rfl rfl rfl fun h => by simp [decodeS_syl, decSBody, need, decSG, eSG, sgOnly, RoundTrip.bindOk, RoundTrip.exceptBindOk, h]
theorem RoundTrip.setph (g : Guard) (ra : SOp) : RoundTrip.Statement (.setph g ra) :=
  RoundTrip.ofS rfl rfl rfl fun h => by simp [decodeS_syl, decSBody, need, decSG, eSG, sgOnly, RoundTrip.bindOk, RoundTrip.exceptBindOk, h]
theorem RoundTrip.waitph (g : Guard) (ra : SOp) (rb : SOp) : RoundTrip.Statement (.waitph g ra rb) :=
  RoundTrip.ofS rfl rfl rfl fun h => by simp [decodeS_syl, decSBody, need, decSG, eSG, sgOnly, RoundTrip.bindOk, RoundTrip.exceptBindOk, h]
theorem RoundTrip.gang (g : Guard) (k : BitVec 2) : RoundTrip.Statement (.gang g k) :=
  RoundTrip.ofS rfl rfl rfl fun h => by
    simp [decodeS_syl, decSBody, need, extract_setWidth_above, decSG, eSG, sgOnly, RoundTrip.bindOk, RoundTrip.exceptBindOk, h]
theorem RoundTrip.split (g : Guard) : RoundTrip.Statement (.split g) :=
  RoundTrip.ofS rfl rfl rfl fun h => by simp [decodeS_syl, decSBody, need, decSG, eSG, sgOnly, RoundTrip.bindOk, RoundTrip.exceptBindOk, h]
theorem RoundTrip.join (g : Guard) : RoundTrip.Statement (.join g) :=
  RoundTrip.ofS rfl rfl rfl fun h => by simp [decodeS_syl, decSBody, need, decSG, eSG, sgOnly, RoundTrip.bindOk, RoundTrip.exceptBindOk, h]
theorem RoundTrip.cmreq (g : Guard) (x : SOp) (ra : SOp) : RoundTrip.Statement (.cmreq g x ra) :=
  RoundTrip.ofS rfl rfl rfl fun h => by simp [decodeS_syl, decSBody, need, decSG, eSG, sgOnly, RoundTrip.bindOk, RoundTrip.exceptBindOk, h]
theorem RoundTrip.vadd (g : Guard) (ty : Ty) (rm : Rm) (sat : Bool) (vd : VOp) (va : VOp) (b : VSrcB) :
    RoundTrip.Statement (.vadd g ty rm sat vd va b) :=
  RoundTrip.ofV rfl rfl rfl fun h => by
    cases sat <;> cases b <;> simp [decodeV_syl, decVBody, need, decVA, dVA3rs, vaOnly, dRm, dVSrcB, eVA3, eVA, RoundTrip.bindOk,
      RoundTrip.exceptBindOk, h]
theorem RoundTrip.vsub (g : Guard) (ty : Ty) (rm : Rm) (sat : Bool) (vd : VOp) (va : VOp) (b : VSrcB) :
    RoundTrip.Statement (.vsub g ty rm sat vd va b) :=
  RoundTrip.ofV rfl rfl rfl fun h => by
    cases sat <;> cases b <;> simp [decodeV_syl, decVBody, need, decVA, dVA3rs, vaOnly, dRm, dVSrcB, eVA3, eVA, RoundTrip.bindOk,
      RoundTrip.exceptBindOk, h]
theorem RoundTrip.vmul (g : Guard) (ty : Ty) (rm : Rm) (sat : Bool) (vd : VOp) (va : VOp) (b : VSrcB) :
    RoundTrip.Statement (.vmul g ty rm sat vd va b) :=
  RoundTrip.ofV rfl rfl rfl fun h => by
    cases sat <;> cases b <;> simp [decodeV_syl, decVBody, need, decVA, dVA3rs, vaOnly, dRm, dVSrcB, eVA3, eVA, RoundTrip.bindOk,
      RoundTrip.exceptBindOk, h]
theorem RoundTrip.vmulh (g : Guard) (ty : Ty) (vd : VOp) (va : VOp) (b : VSrcB) : RoundTrip.Statement (.vmulh g ty vd va b) :=
  RoundTrip.ofV rfl rfl rfl fun h => by
    cases b <;> simp [decodeV_syl, decVBody, need, decVA, dVA3, vaOnly, dVSrcB, eVA3, eVA, RoundTrip.bindOk, RoundTrip.exceptBindOk,
      h]
theorem RoundTrip.vfma (g : Guard) (ty : Ty) (rm : Rm) (sat : Bool) (vd : VOp) (va : VOp) (b : VSrcB) (vc : VOp) :
    RoundTrip.Statement (.vfma g ty rm sat vd va b vc) :=
  RoundTrip.ofV rfl rfl rfl fun h => by
    cases sat <;> cases b <;> simp [decodeV_syl, decVBody, need, decVA, dVA4rs, vaOnly, dRm, dVSrcB, eVA, RoundTrip.bindOk,
      RoundTrip.exceptBindOk, h]
theorem RoundTrip.vfms (g : Guard) (ty : Ty) (rm : Rm) (sat : Bool) (vd : VOp) (va : VOp) (b : VSrcB) (vc : VOp) :
    RoundTrip.Statement (.vfms g ty rm sat vd va b vc) :=
  RoundTrip.ofV rfl rfl rfl fun h => by
    cases sat <;> cases b <;> simp [decodeV_syl, decVBody, need, decVA, dVA4rs, vaOnly, dRm, dVSrcB, eVA, RoundTrip.bindOk,
      RoundTrip.exceptBindOk, h]
theorem RoundTrip.vfnma (g : Guard) (ty : Ty) (rm : Rm) (sat : Bool) (vd : VOp) (va : VOp) (b : VSrcB) (vc : VOp) :
    RoundTrip.Statement (.vfnma g ty rm sat vd va b vc) :=
  RoundTrip.ofV rfl rfl rfl fun h => by
    cases sat <;> cases b <;> simp [decodeV_syl, decVBody, need, decVA, dVA4rs, vaOnly, dRm, dVSrcB, eVA, RoundTrip.bindOk,
      RoundTrip.exceptBindOk, h]
theorem RoundTrip.vmin (g : Guard) (ty : Ty) (vd : VOp) (va : VOp) (b : VSrcB) : RoundTrip.Statement (.vmin g ty vd va b) :=
  RoundTrip.ofV rfl rfl rfl fun h => by
    cases b <;> simp [decodeV_syl, decVBody, need, decVA, dVA3, vaOnly, dVSrcB, eVA3, eVA, RoundTrip.bindOk, RoundTrip.exceptBindOk,
      h]
theorem RoundTrip.vmax (g : Guard) (ty : Ty) (vd : VOp) (va : VOp) (b : VSrcB) : RoundTrip.Statement (.vmax g ty vd va b) :=
  RoundTrip.ofV rfl rfl rfl fun h => by
    cases b <;> simp [decodeV_syl, decVBody, need, decVA, dVA3, vaOnly, dVSrcB, eVA3, eVA, RoundTrip.bindOk, RoundTrip.exceptBindOk,
      h]
theorem RoundTrip.vabs (g : Guard) (ty : Ty) (sat : Bool) (vd : VOp) (va : VOp) : RoundTrip.Statement (.vabs g ty sat vd va) :=
  RoundTrip.ofV rfl rfl rfl fun h => by
    cases sat <;> simp [decodeV_syl, decVBody, need, decVA, dVA2s, vaOnly, vaNoB, eVA2, RoundTrip.bindOk, RoundTrip.exceptBindOk, h]
theorem RoundTrip.vneg (g : Guard) (ty : Ty) (sat : Bool) (vd : VOp) (va : VOp) : RoundTrip.Statement (.vneg g ty sat vd va) :=
  RoundTrip.ofV rfl rfl rfl fun h => by
    cases sat <;> simp [decodeV_syl, decVBody, need, decVA, dVA2s, vaOnly, vaNoB, eVA2, RoundTrip.bindOk, RoundTrip.exceptBindOk, h]
theorem RoundTrip.vdiv (g : Guard) (ty : Ty) (rm : Rm) (sat : Bool) (vd : VOp) (va : VOp) (b : VSrcB) :
    RoundTrip.Statement (.vdiv g ty rm sat vd va b) :=
  RoundTrip.ofV rfl rfl rfl fun h => by
    cases sat <;> cases b <;> simp [decodeV_syl, decVBody, need, decVA, dVA3rs, vaOnly, dRm, dVSrcB, eVA3, eVA, RoundTrip.bindOk,
      RoundTrip.exceptBindOk, h]
theorem RoundTrip.vsqrt (g : Guard) (ty : Ty) (rm : Rm) (sat : Bool) (vd : VOp) (va : VOp) :
    RoundTrip.Statement (.vsqrt g ty rm sat vd va) :=
  RoundTrip.ofV rfl rfl rfl fun h => by
    cases sat <;> simp [decodeV_syl, decVBody, need, decVA, dVA2rs, vaOnly, vaNoB, dRm, eVA2, RoundTrip.bindOk,
      RoundTrip.exceptBindOk, h]
theorem RoundTrip.vrcp (g : Guard) (ty : Ty) (rm : Rm) (sat : Bool) (vd : VOp) (va : VOp) : RoundTrip.Statement (.vrcp g ty rm sat vd va) :=
  RoundTrip.ofV rfl rfl rfl fun h => by
    cases sat <;> simp [decodeV_syl, decVBody, need, decVA, dVA2rs, vaOnly, vaNoB, dRm, eVA2, RoundTrip.bindOk,
      RoundTrip.exceptBindOk, h]
theorem RoundTrip.vrsq (g : Guard) (ty : Ty) (rm : Rm) (sat : Bool) (vd : VOp) (va : VOp) : RoundTrip.Statement (.vrsq g ty rm sat vd va) :=
  RoundTrip.ofV rfl rfl rfl fun h => by
    cases sat <;> simp [decodeV_syl, decVBody, need, decVA, dVA2rs, vaOnly, vaNoB, dRm, eVA2, RoundTrip.bindOk,
      RoundTrip.exceptBindOk, h]
theorem RoundTrip.vexp2 (g : Guard) (ty : Ty) (rm : Rm) (sat : Bool) (vd : VOp) (va : VOp) :
    RoundTrip.Statement (.vexp2 g ty rm sat vd va) :=
  RoundTrip.ofV rfl rfl rfl fun h => by
    cases sat <;> simp [decodeV_syl, decVBody, need, decVA, dVA2rs, vaOnly, vaNoB, dRm, eVA2, RoundTrip.bindOk,
      RoundTrip.exceptBindOk, h]
theorem RoundTrip.vlog2 (g : Guard) (ty : Ty) (rm : Rm) (sat : Bool) (vd : VOp) (va : VOp) :
    RoundTrip.Statement (.vlog2 g ty rm sat vd va) :=
  RoundTrip.ofV rfl rfl rfl fun h => by
    cases sat <;> simp [decodeV_syl, decVBody, need, decVA, dVA2rs, vaOnly, vaNoB, dRm, eVA2, RoundTrip.bindOk,
      RoundTrip.exceptBindOk, h]
theorem RoundTrip.vsigm (g : Guard) (ty : Ty) (rm : Rm) (sat : Bool) (vd : VOp) (va : VOp) :
    RoundTrip.Statement (.vsigm g ty rm sat vd va) :=
  RoundTrip.ofV rfl rfl rfl fun h => by
    cases sat <;> simp [decodeV_syl, decVBody, need, decVA, dVA2rs, vaOnly, vaNoB, dRm, eVA2, RoundTrip.bindOk,
      RoundTrip.exceptBindOk, h]
theorem RoundTrip.vsilu (g : Guard) (ty : Ty) (rm : Rm) (sat : Bool) (vd : VOp) (va : VOp) :
    RoundTrip.Statement (.vsilu g ty rm sat vd va) :=
  RoundTrip.ofV rfl rfl rfl fun h => by
    cases sat <;> simp [decodeV_syl, decVBody, need, decVA, dVA2rs, vaOnly, vaNoB, dRm, eVA2, RoundTrip.bindOk,
      RoundTrip.exceptBindOk, h]
theorem RoundTrip.vand (g : Guard) (ty : Ty) (vd : VOp) (va : VOp) (b : VSrcB) : RoundTrip.Statement (.vand g ty vd va b) :=
  RoundTrip.ofV rfl rfl rfl fun h => by
    cases b <;> simp [decodeV_syl, decVBody, need, decVA, dVA3, vaOnly, dVSrcB, eVA3, eVA, RoundTrip.bindOk, RoundTrip.exceptBindOk,
      h]
theorem RoundTrip.vor (g : Guard) (ty : Ty) (vd : VOp) (va : VOp) (b : VSrcB) : RoundTrip.Statement (.vor g ty vd va b) :=
  RoundTrip.ofV rfl rfl rfl fun h => by
    cases b <;> simp [decodeV_syl, decVBody, need, decVA, dVA3, vaOnly, dVSrcB, eVA3, eVA, RoundTrip.bindOk, RoundTrip.exceptBindOk,
      h]
theorem RoundTrip.vxor (g : Guard) (ty : Ty) (vd : VOp) (va : VOp) (b : VSrcB) : RoundTrip.Statement (.vxor g ty vd va b) :=
  RoundTrip.ofV rfl rfl rfl fun h => by
    cases b <;> simp [decodeV_syl, decVBody, need, decVA, dVA3, vaOnly, dVSrcB, eVA3, eVA, RoundTrip.bindOk, RoundTrip.exceptBindOk,
      h]
theorem RoundTrip.vandn (g : Guard) (ty : Ty) (vd : VOp) (va : VOp) (b : VSrcB) : RoundTrip.Statement (.vandn g ty vd va b) :=
  RoundTrip.ofV rfl rfl rfl fun h => by
    cases b <;> simp [decodeV_syl, decVBody, need, decVA, dVA3, vaOnly, dVSrcB, eVA3, eVA, RoundTrip.bindOk, RoundTrip.exceptBindOk,
      h]
theorem RoundTrip.vsll (g : Guard) (ty : Ty) (vd : VOp) (va : VOp) (b : VSrcB) : RoundTrip.Statement (.vsll g ty vd va b) :=
  RoundTrip.ofV rfl rfl rfl fun h => by
    cases b <;> simp [decodeV_syl, decVBody, need, decVA, dVA3, vaOnly, dVSrcB, eVA3, eVA, RoundTrip.bindOk, RoundTrip.exceptBindOk,
      h]
theorem RoundTrip.vsrl (g : Guard) (ty : Ty) (vd : VOp) (va : VOp) (b : VSrcB) : RoundTrip.Statement (.vsrl g ty vd va b) :=
  RoundTrip.ofV rfl rfl rfl fun h => by
    cases b <;> simp [decodeV_syl, decVBody, need, decVA, dVA3, vaOnly, dVSrcB, eVA3, eVA, RoundTrip.bindOk, RoundTrip.exceptBindOk,
      h]
theorem RoundTrip.vsra (g : Guard) (ty : Ty) (vd : VOp) (va : VOp) (b : VSrcB) : RoundTrip.Statement (.vsra g ty vd va b) :=
  RoundTrip.ofV rfl rfl rfl fun h => by
    cases b <;> simp [decodeV_syl, decVBody, need, decVA, dVA3, vaOnly, dVSrcB, eVA3, eVA, RoundTrip.bindOk, RoundTrip.exceptBindOk,
      h]
theorem RoundTrip.vclz (g : Guard) (ty : Ty) (vd : VOp) (va : VOp) : RoundTrip.Statement (.vclz g ty vd va) :=
  RoundTrip.ofV rfl rfl rfl fun h => by
    simp [decodeV_syl, decVBody, need, decVA, dVA2, vaOnly, vaNoB, eVA2, RoundTrip.bindOk, RoundTrip.exceptBindOk, h]
theorem RoundTrip.vpopc (g : Guard) (ty : Ty) (vd : VOp) (va : VOp) : RoundTrip.Statement (.vpopc g ty vd va) :=
  RoundTrip.ofV rfl rfl rfl fun h => by
    simp [decodeV_syl, decVBody, need, decVA, dVA2, vaOnly, vaNoB, eVA2, RoundTrip.bindOk, RoundTrip.exceptBindOk, h]
theorem RoundTrip.vcmp (g : Guard) (pd : BitVec 3) (pe : BitVec 3) (m : PMode) (cond : Cond) (ty : Ty) (va : VOp) (b : VSrcB) :
    RoundTrip.Statement (.vcmp g pd pe m cond ty va b) :=
  RoundTrip.ofV rfl rfl rfl fun h => by cases b <;> simp [decodeV_syl, decVBody, decVC, RoundTrip.bindOk, RoundTrip.exceptBindOk, h]
theorem RoundTrip.vclass (g : Guard) (ty : Ty) (vd : VOp) (va : VOp) : RoundTrip.Statement (.vclass g ty vd va) :=
  RoundTrip.ofV rfl rfl rfl fun h => by
    simp [decodeV_syl, decVBody, need, decVA, dVA2, vaOnly, vaNoB, eVA2, RoundTrip.bindOk, RoundTrip.exceptBindOk, h]
theorem RoundTrip.vmov (g : Guard) (vd : VOp) (va : VOp) : RoundTrip.Statement (.vmov g vd va) :=
  RoundTrip.ofV rfl rfl rfl fun h => by
    simp [decodeV_syl, decVBody, need, decVA, vaOnly, vaNoB, RoundTrip.bindOk, RoundTrip.exceptBindOk, h]
theorem RoundTrip.vbc (g : Guard) (ty : Ty) (vd : VOp) (s : SOp) : RoundTrip.Statement (.vbc g ty vd s) :=
  RoundTrip.ofV rfl rfl rfl fun h => by simp [decodeV_syl, decVBody, decVS, eVS, RoundTrip.bindOk, RoundTrip.exceptBindOk, h]
theorem RoundTrip.vext (g : Guard) (ty : Ty) (s : SOp) (va : VOp) (i : BitVec 8) : RoundTrip.Statement (.vext g ty s va i) :=
  RoundTrip.ofV rfl rfl rfl fun h => by simp [decodeV_syl, decVBody, decVS, eVS, RoundTrip.bindOk, RoundTrip.exceptBindOk, h]
theorem RoundTrip.vins (g : Guard) (ty : Ty) (vd : VOp) (s : SOp) (i : BitVec 8) : RoundTrip.Statement (.vins g ty vd s i) :=
  RoundTrip.ofV rfl rfl rfl fun h => by simp [decodeV_syl, decVBody, decVS, eVS, RoundTrip.bindOk, RoundTrip.exceptBindOk, h]
theorem RoundTrip.vperm (g : Guard) (ty : Ty) (vd : VOp) (va : VOp) (vb : VOp) : RoundTrip.Statement (.vperm g ty vd va vb) :=
  RoundTrip.ofV rfl rfl rfl fun h => by simp [decodeV_syl, decVBody, need, decVA, vaOnly, eVAq, RoundTrip.bindOk, RoundTrip.exceptBindOk, h]
theorem RoundTrip.vrot (g : Guard) (ty : Ty) (vd : VOp) (va : VOp) (b : VSrcB) : RoundTrip.Statement (.vrot g ty vd va b) :=
  RoundTrip.ofV rfl rfl rfl fun h => by
    cases b <;> simp [decodeV_syl, decVBody, need, decVA, dVA3, vaOnly, dVSrcB, eVA3, eVA, RoundTrip.bindOk, RoundTrip.exceptBindOk,
      h]
theorem RoundTrip.vzip (g : Guard) (ty : Ty) (hi : Bool) (vd : VOp) (va : VOp) (vb : VOp) : RoundTrip.Statement (.vzip g ty hi vd va vb) :=
  RoundTrip.ofV rfl rfl rfl fun h => by
    cases hi <;> simp [decodeV_syl, decVBody, need, decVA, dVAhalf, vaOnly, eVAq, eHalf, RoundTrip.bindOk, RoundTrip.exceptBindOk, h]
theorem RoundTrip.vuzp (g : Guard) (ty : Ty) (hi : Bool) (vd : VOp) (va : VOp) (vb : VOp) : RoundTrip.Statement (.vuzp g ty hi vd va vb) :=
  RoundTrip.ofV rfl rfl rfl fun h => by
    cases hi <;> simp [decodeV_syl, decVBody, need, decVA, dVAhalf, vaOnly, eVAq, eHalf, RoundTrip.bindOk, RoundTrip.exceptBindOk, h]
theorem RoundTrip.vcvt (g : Guard) (ty : Ty) (tys : Ty) (rm : Rm) (sat : Bool) (vd : VOp) (va : VOp) (q : BitVec 8) :
    RoundTrip.Statement (.vcvt g ty tys rm sat vd va q) :=
  RoundTrip.ofV rfl rfl rfl fun h => by
    cases sat <;> simp [decodeV_syl, decVBody, need, decVA, vaOnly, dRm, eVAq, RoundTrip.bindOk, RoundTrip.exceptBindOk, h]
theorem RoundTrip.vscl (g : Guard) (ty : Ty) (tys : Ty) (rm : Rm) (sat : Bool) (vd : VOp) (va : VOp) (vb : VOp) (q : BitVec 8) :
    RoundTrip.Statement (.vscl g ty tys rm sat vd va vb q) :=
  RoundTrip.ofV rfl rfl rfl fun h => by
    cases sat <;> simp [decodeV_syl, decVBody, need, decVA, vaOnly, dRm, eVAq, RoundTrip.bindOk, RoundTrip.exceptBindOk, h]
theorem RoundTrip.vdot (g : Guard) (ty : Ty) (tys : Ty) (rm : Rm) (vd : VOp) (va : VOp) (vb : VOp) :
    RoundTrip.Statement (.vdot g ty tys rm vd va vb) :=
  RoundTrip.ofV rfl rfl rfl fun h => by
    simp [decodeV_syl, decVBody, need, decVA, vaOnly, dRm, eVAq, RoundTrip.bindOk, RoundTrip.exceptBindOk, h]
theorem RoundTrip.vredadd (g : Guard) (ty : Ty) (rm : Rm) (sat : Bool) (vd : VOp) (va : VOp) :
    RoundTrip.Statement (.vredadd g ty rm sat vd va) :=
  RoundTrip.ofV rfl rfl rfl fun h => by
    cases sat <;> simp [decodeV_syl, decVBody, need, decVA, dVA2rs, vaOnly, vaNoB, dRm, eVA2, RoundTrip.bindOk,
      RoundTrip.exceptBindOk, h]
theorem RoundTrip.vredmax (g : Guard) (ty : Ty) (vd : VOp) (va : VOp) : RoundTrip.Statement (.vredmax g ty vd va) :=
  RoundTrip.ofV rfl rfl rfl fun h => by
    simp [decodeV_syl, decVBody, need, decVA, dVA2, vaOnly, vaNoB, eVA2, RoundTrip.bindOk, RoundTrip.exceptBindOk, h]
theorem RoundTrip.vredmin (g : Guard) (ty : Ty) (vd : VOp) (va : VOp) : RoundTrip.Statement (.vredmin g ty vd va) :=
  RoundTrip.ofV rfl rfl rfl fun h => by
    simp [decodeV_syl, decVBody, need, decVA, dVA2, vaOnly, vaNoB, eVA2, RoundTrip.bindOk, RoundTrip.exceptBindOk, h]
theorem RoundTrip.vscan (g : Guard) (ty : Ty) (vd : VOp) (va : VOp) (s : SOp) : RoundTrip.Statement (.vscan g ty vd va s) :=
  RoundTrip.ofV rfl rfl rfl fun h => by simp [decodeV_syl, decVBody, decVS, eVS, RoundTrip.bindOk, RoundTrip.exceptBindOk, h]
theorem RoundTrip.vrng (g : Guard) (ty : Ty) (vd : VOp) (s : SOp) (st : BitVec 8) : RoundTrip.Statement (.vrng g ty vd s st) :=
  RoundTrip.ofV rfl rfl rfl fun h => by simp [decodeV_syl, decVBody, decVS, eVS, RoundTrip.bindOk, RoundTrip.exceptBindOk, h]
theorem RoundTrip.vaccrd (g : Guard) (t : TileSel) (sa : SOp) (vd : VOp) (gr : BitVec 8) : RoundTrip.Statement (.vaccrd g t sa vd gr) :=
  RoundTrip.ofV rfl rfl rfl fun h => by simp [decodeV_syl, decVBody, decVM, decVM.dT, RoundTrip.bindOk, RoundTrip.exceptBindOk, h]
theorem RoundTrip.vaccwr (g : Guard) (t : TileSel) (sa : SOp) (vs : VOp) (gr : BitVec 8) : RoundTrip.Statement (.vaccwr g t sa vs gr) :=
  RoundTrip.ofV rfl rfl rfl fun h => by simp [decodeV_syl, decVBody, decVM, decVM.dT, RoundTrip.bindOk, RoundTrip.exceptBindOk, h]
theorem RoundTrip.vacczr (g : Guard) (t : TileSel) : RoundTrip.Statement (.vacczr g t) :=
  RoundTrip.ofV rfl rfl rfl fun h => by
    simp [decodeV_syl, decVBody, need, decVM, decVM.dT, decVM.vmOnly, RoundTrip.bindOk, RoundTrip.exceptBindOk, h]
theorem RoundTrip.mldb (g : Guard) (bm : BitVec 4) (sa : SOp) : RoundTrip.Statement (.mldb g bm sa) :=
  RoundTrip.ofV rfl rfl rfl fun h => by simp [decodeV_syl, decVBody, need, decVM, decVM.vmOnly, RoundTrip.bindOk, RoundTrip.exceptBindOk, h]
theorem RoundTrip.mma (g : Guard) (t : TileSel) (bm : BitVec 4) (sa : SOp) : RoundTrip.Statement (.mma g t bm sa) :=
  RoundTrip.ofV rfl rfl rfl fun h => by
    simp [decodeV_syl, decVBody, need, decVM, decVM.dT, decVM.vmOnly, RoundTrip.bindOk, RoundTrip.exceptBindOk, h]
theorem RoundTrip.mclaim (g : Guard) (t : TileSel) : RoundTrip.Statement (.mclaim g t) :=
  RoundTrip.ofV rfl rfl rfl fun h => by
    simp [decodeV_syl, decVBody, need, decVM, decVM.dT, decVM.vmOnly, RoundTrip.bindOk, RoundTrip.exceptBindOk, h]
theorem RoundTrip.mrel (g : Guard) (t : TileSel) : RoundTrip.Statement (.mrel g t) :=
  RoundTrip.ofV rfl rfl rfl fun h => by
    simp [decodeV_syl, decVBody, need, decVM, decVM.dT, decVM.vmOnly, RoundTrip.bindOk, RoundTrip.exceptBindOk, h]
theorem RoundTrip.mfence (g : Guard) : RoundTrip.Statement (.mfence g) :=
  RoundTrip.ofV rfl rfl rfl fun h => by simp [decodeV_syl, decVBody, need, decVM, decVM.vmOnly, RoundTrip.bindOk, RoundTrip.exceptBindOk, h]
theorem RoundTrip.spjoin (g : Guard) (ch : BitVec 5) (s : SOp) : RoundTrip.Statement (.spjoin g ch s) :=
  RoundTrip.ofV rfl rfl rfl fun h => by simp [decodeV_syl, decVBody, decVP, eVP, RoundTrip.bindOk, RoundTrip.exceptBindOk, h]
theorem RoundTrip.spscan (g : Guard) (ord : SpOrd) (ch : BitVec 5) (vd : VOp) (va : VOp) (s : SOp) :
    RoundTrip.Statement (.spscan g ord ch vd va s) :=
  RoundTrip.ofV rfl rfl rfl fun h => by simp [decodeV_syl, decVBody, decVP, decVP.full, eVP, RoundTrip.bindOk, RoundTrip.exceptBindOk, h]
theorem RoundTrip.spred (g : Guard) (ord : SpOrd) (ch : BitVec 5) (vd : VOp) (va : VOp) (s : SOp) :
    RoundTrip.Statement (.spred g ord ch vd va s) :=
  RoundTrip.ofV rfl rfl rfl fun h => by simp [decodeV_syl, decVBody, decVP, decVP.full, eVP, RoundTrip.bindOk, RoundTrip.exceptBindOk, h]
theorem RoundTrip.spbar (g : Guard) (ord : SpOrd) (ch : BitVec 5) : RoundTrip.Statement (.spbar g ord ch) :=
  RoundTrip.ofV rfl rfl rfl fun h => by simp [decodeV_syl, decVBody, decVP, eVP, RoundTrip.bindOk, RoundTrip.exceptBindOk, h]
theorem RoundTrip.spbc (g : Guard) (ord : SpOrd) (ch : BitVec 5) (vd : VOp) (va : VOp) (s : SOp) :
    RoundTrip.Statement (.spbc g ord ch vd va s) :=
  RoundTrip.ofV rfl rfl rfl fun h => by simp [decodeV_syl, decVBody, decVP, decVP.full, eVP, RoundTrip.bindOk, RoundTrip.exceptBindOk, h]
theorem RoundTrip.lanternLdr (d : BitVec 4) (a : BitVec 4) (i : BitVec 18) : RoundTrip.Statement (.lanternLdr d a i) :=
  RoundTrip.ofL rfl rfl rfl fun h => by simp [decodeLantern, decLan, RoundTrip.bindOk, h]
theorem RoundTrip.lanternLdi (d : BitVec 4) (a : BitVec 4) (i : BitVec 18) : RoundTrip.Statement (.lanternLdi d a i) :=
  RoundTrip.ofL rfl rfl rfl fun h => by simp [decodeLantern, decLan, RoundTrip.bindOk, h]
theorem RoundTrip.lanternAdd (d : BitVec 4) (a : BitVec 4) (b : BitVec 4) : RoundTrip.Statement (.lanternAdd d a b) :=
  RoundTrip.ofL rfl rfl rfl fun h => by simp [decodeLantern, decLan, dLan3, extract_setWidth_above, RoundTrip.bindOk, h]
theorem RoundTrip.lanternAnd (d : BitVec 4) (a : BitVec 4) (b : BitVec 4) : RoundTrip.Statement (.lanternAnd d a b) :=
  RoundTrip.ofL rfl rfl rfl fun h => by simp [decodeLantern, decLan, dLan3, extract_setWidth_above, RoundTrip.bindOk, h]
theorem RoundTrip.lanternOr (d : BitVec 4) (a : BitVec 4) (b : BitVec 4) : RoundTrip.Statement (.lanternOr d a b) :=
  RoundTrip.ofL rfl rfl rfl fun h => by simp [decodeLantern, decLan, dLan3, extract_setWidth_above, RoundTrip.bindOk, h]
theorem RoundTrip.lanternXor (d : BitVec 4) (a : BitVec 4) (b : BitVec 4) : RoundTrip.Statement (.lanternXor d a b) :=
  RoundTrip.ofL rfl rfl rfl fun h => by simp [decodeLantern, decLan, dLan3, extract_setWidth_above, RoundTrip.bindOk, h]
theorem RoundTrip.lanternShr (d : BitVec 4) (a : BitVec 4) (i : BitVec 18) : RoundTrip.Statement (.lanternShr d a i) :=
  RoundTrip.ofL rfl rfl rfl fun h => by simp [decodeLantern, decLan, RoundTrip.bindOk, h]
theorem RoundTrip.lanternShl (d : BitVec 4) (a : BitVec 4) (i : BitVec 18) : RoundTrip.Statement (.lanternShl d a i) :=
  RoundTrip.ofL rfl rfl rfl fun h => by simp [decodeLantern, decLan, RoundTrip.bindOk, h]
theorem RoundTrip.lanternAndi (d : BitVec 4) (a : BitVec 4) (i : BitVec 18) : RoundTrip.Statement (.lanternAndi d a i) :=
  RoundTrip.ofL rfl rfl rfl fun h => by simp [decodeLantern, decLan, RoundTrip.bindOk, h]
theorem RoundTrip.lanternBeq (d : BitVec 4) (a : BitVec 4) (i : BitVec 18) : RoundTrip.Statement (.lanternBeq d a i) :=
  RoundTrip.ofL rfl rfl rfl fun h => by simp [decodeLantern, decLan, RoundTrip.bindOk, h]
theorem RoundTrip.lanternBne (d : BitVec 4) (a : BitVec 4) (i : BitVec 18) : RoundTrip.Statement (.lanternBne d a i) :=
  RoundTrip.ofL rfl rfl rfl fun h => by simp [decodeLantern, decLan, RoundTrip.bindOk, h]
theorem RoundTrip.lanternBltu (d : BitVec 4) (a : BitVec 4) (i : BitVec 18) : RoundTrip.Statement (.lanternBltu d a i) :=
  RoundTrip.ofL rfl rfl rfl fun h => by simp [decodeLantern, decLan, RoundTrip.bindOk, h]
theorem RoundTrip.lanternBgeu (d : BitVec 4) (a : BitVec 4) (i : BitVec 18) : RoundTrip.Statement (.lanternBgeu d a i) :=
  RoundTrip.ofL rfl rfl rfl fun h => by simp [decodeLantern, decLan, RoundTrip.bindOk, h]
theorem RoundTrip.lanternKeep (d : BitVec 4) (a : BitVec 4) (i : BitVec 18) : RoundTrip.Statement (.lanternKeep d a i) :=
  RoundTrip.ofL rfl rfl rfl fun h => by simp [decodeLantern, decLan, RoundTrip.bindOk, h]
theorem RoundTrip.lanternDrop (d : BitVec 4) (a : BitVec 4) (i : BitVec 18) : RoundTrip.Statement (.lanternDrop d a i) :=
  RoundTrip.ofL rfl rfl rfl fun h => by simp [decodeLantern, decLan, RoundTrip.bindOk, h]
theorem RoundTrip.lanternCnt (d : BitVec 4) (a : BitVec 4) (i : BitVec 18) : RoundTrip.Statement (.lanternCnt d a i) :=
  RoundTrip.ofL rfl rfl rfl fun h => by simp [decodeLantern, decLan, RoundTrip.bindOk, h]
theorem RoundTrip.lanternTrig (d : BitVec 4) (a : BitVec 4) (i : BitVec 18) : RoundTrip.Statement (.lanternTrig d a i) :=
  RoundTrip.ofL rfl rfl rfl fun h => by simp [decodeLantern, decLan, RoundTrip.bindOk, h]
theorem RoundTrip.threadRetire : RoundTrip.Statement .threadRetire :=
  RoundTrip.noWord rfl rfl rfl
theorem RoundTrip.ipiDelivery : RoundTrip.Statement .ipiDelivery :=
  RoundTrip.noWord rfl rfl rfl
theorem RoundTrip.interrupt : RoundTrip.Statement .interrupt :=
  RoundTrip.noWord rfl rfl rfl
theorem RoundTrip.parkWake : RoundTrip.Statement .parkWake :=
  RoundTrip.noWord rfl rfl rfl
theorem RoundTrip.feTimeout : RoundTrip.Statement .feTimeout :=
  RoundTrip.noWord rfl rfl rfl
theorem RoundTrip.dutyTakesEffect : RoundTrip.Statement .dutyTakesEffect :=
  RoundTrip.noWord rfl rfl rfl
theorem RoundTrip.leaveGrant : RoundTrip.Statement .leaveGrant :=
  RoundTrip.noWord rfl rfl rfl
theorem RoundTrip.segmentLanded : RoundTrip.Statement .segmentLanded :=
  RoundTrip.noWord rfl rfl rfl
theorem RoundTrip.coreQuarantine : RoundTrip.Statement .coreQuarantine :=
  RoundTrip.noWord rfl rfl rfl
theorem RoundTrip.spareShift : RoundTrip.Statement .spareShift :=
  RoundTrip.noWord rfl rfl rfl
theorem RoundTrip.sealEffect : RoundTrip.Statement .sealEffect :=
  RoundTrip.noWord rfl rfl rfl
theorem RoundTrip.unsealEffect : RoundTrip.Statement .unsealEffect :=
  RoundTrip.noWord rfl rfl rfl
theorem RoundTrip.publishSerialise : RoundTrip.Statement .publishSerialise :=
  RoundTrip.noWord rfl rfl rfl
theorem RoundTrip.publishEffect : RoundTrip.Statement .publishEffect :=
  RoundTrip.noWord rfl rfl rfl
theorem RoundTrip.mcmdTimeout : RoundTrip.Statement .mcmdTimeout :=
  RoundTrip.noWord rfl rfl rfl
theorem RoundTrip.gangForm : RoundTrip.Statement .gangForm :=
  RoundTrip.noWord rfl rfl rfl
theorem RoundTrip.matrixCommandAdmit : RoundTrip.Statement .matrixCommandAdmit :=
  RoundTrip.noWord rfl rfl rfl
theorem RoundTrip.matrixCommandBegin : RoundTrip.Statement .matrixCommandBegin :=
  RoundTrip.noWord rfl rfl rfl
theorem RoundTrip.matrixCommandRetire : RoundTrip.Statement .matrixCommandRetire :=
  RoundTrip.noWord rfl rfl rfl
theorem RoundTrip.matrixScrub : RoundTrip.Statement .matrixScrub :=
  RoundTrip.noWord rfl rfl rfl
theorem RoundTrip.spireGroupForm : RoundTrip.Statement .spireGroupForm :=
  RoundTrip.noWord rfl rfl rfl
theorem RoundTrip.spireResultDelivery : RoundTrip.Statement .spireResultDelivery :=
  RoundTrip.noWord rfl rfl rfl
theorem RoundTrip.spireFaultDelivery : RoundTrip.Statement .spireFaultDelivery :=
  RoundTrip.noWord rfl rfl rfl
theorem RoundTrip.requestAccept : RoundTrip.Statement .requestAccept :=
  RoundTrip.noWord rfl rfl rfl
theorem RoundTrip.translationWalk : RoundTrip.Statement .translationWalk :=
  RoundTrip.noWord rfl rfl rfl
theorem RoundTrip.walkEntryReply : RoundTrip.Statement .walkEntryReply :=
  RoundTrip.noWord rfl rfl rfl
theorem RoundTrip.dieSramService : RoundTrip.Statement .dieSramService :=
  RoundTrip.noWord rfl rfl rfl
theorem RoundTrip.loadTableCompare : RoundTrip.Statement .loadTableCompare :=
  RoundTrip.noWord rfl rfl rfl
theorem RoundTrip.domeService : RoundTrip.Statement .domeService :=
  RoundTrip.noWord rfl rfl rfl
theorem RoundTrip.domeRequestComplete : RoundTrip.Statement .domeRequestComplete :=
  RoundTrip.noWord rfl rfl rfl
theorem RoundTrip.memoryReply : RoundTrip.Statement .memoryReply :=
  RoundTrip.noWord rfl rfl rfl
theorem RoundTrip.agentStateError : RoundTrip.Statement .agentStateError :=
  RoundTrip.noWord rfl rfl rfl
theorem RoundTrip.phasePublish : RoundTrip.Statement .phasePublish :=
  RoundTrip.noWord rfl rfl rfl
theorem RoundTrip.transferBegin : RoundTrip.Statement .transferBegin :=
  RoundTrip.noWord rfl rfl rfl
theorem RoundTrip.engineSlotService : RoundTrip.Statement .engineSlotService :=
  RoundTrip.noWord rfl rfl rfl
theorem RoundTrip.transferComplete : RoundTrip.Statement .transferComplete :=
  RoundTrip.noWord rfl rfl rfl
theorem RoundTrip.streamRefillArrival : RoundTrip.Statement .streamRefillArrival :=
  RoundTrip.noWord rfl rfl rfl
theorem RoundTrip.clusterFailure : RoundTrip.Statement .clusterFailure :=
  RoundTrip.noWord rfl rfl rfl
theorem RoundTrip.inject : RoundTrip.Statement .inject :=
  RoundTrip.noWord rfl rfl rfl
theorem RoundTrip.wordForward : RoundTrip.Statement .wordForward :=
  RoundTrip.noWord rfl rfl rfl
theorem RoundTrip.markerPhaseStep : RoundTrip.Statement .markerPhaseStep :=
  RoundTrip.noWord rfl rfl rfl
theorem RoundTrip.queueBeat : RoundTrip.Statement .queueBeat :=
  RoundTrip.noWord rfl rfl rfl
theorem RoundTrip.fill : RoundTrip.Statement .fill :=
  RoundTrip.noWord rfl rfl rfl
theorem RoundTrip.windowBeat : RoundTrip.Statement .windowBeat :=
  RoundTrip.noWord rfl rfl rfl
theorem RoundTrip.tagWrite : RoundTrip.Statement .tagWrite :=
  RoundTrip.noWord rfl rfl rfl
theorem RoundTrip.matrixCommand : RoundTrip.Statement .matrixCommand :=
  RoundTrip.noWord rfl rfl rfl
theorem RoundTrip.commandReply : RoundTrip.Statement .commandReply :=
  RoundTrip.noWord rfl rfl rfl
theorem RoundTrip.openCircuit : RoundTrip.Statement .openCircuit :=
  RoundTrip.noWord rfl rfl rfl
theorem RoundTrip.resizeCircuit : RoundTrip.Statement .resizeCircuit :=
  RoundTrip.noWord rfl rfl rfl
theorem RoundTrip.closeCircuit : RoundTrip.Statement .closeCircuit :=
  RoundTrip.noWord rfl rfl rfl
theorem RoundTrip.joinMember : RoundTrip.Statement .joinMember :=
  RoundTrip.noWord rfl rfl rfl
theorem RoundTrip.leaveMember : RoundTrip.Statement .leaveMember :=
  RoundTrip.noWord rfl rfl rfl
theorem RoundTrip.queryCircuit : RoundTrip.Statement .queryCircuit :=
  RoundTrip.noWord rfl rfl rfl
theorem RoundTrip.circuitChangeEffect : RoundTrip.Statement .circuitChangeEffect :=
  RoundTrip.noWord rfl rfl rfl
theorem RoundTrip.receivePortCloseUnbind : RoundTrip.Statement .receivePortCloseUnbind :=
  RoundTrip.noWord rfl rfl rfl
theorem RoundTrip.configBeat : RoundTrip.Statement .configBeat :=
  RoundTrip.noWord rfl rfl rfl
theorem RoundTrip.launchReady : RoundTrip.Statement .launchReady :=
  RoundTrip.noWord rfl rfl rfl
theorem RoundTrip.taskSelect : RoundTrip.Statement .taskSelect :=
  RoundTrip.noWord rfl rfl rfl
theorem RoundTrip.taskBind : RoundTrip.Statement .taskBind :=
  RoundTrip.noWord rfl rfl rfl
theorem RoundTrip.taskFaultEnd : RoundTrip.Statement .taskFaultEnd :=
  RoundTrip.noWord rfl rfl rfl
theorem RoundTrip.launchComplete : RoundTrip.Statement .launchComplete :=
  RoundTrip.noWord rfl rfl rfl
theorem RoundTrip.completionRecordWrite : RoundTrip.Statement .completionRecordWrite :=
  RoundTrip.noWord rfl rfl rfl
theorem RoundTrip.stealRequestSend : RoundTrip.Statement .stealRequestSend :=
  RoundTrip.noWord rfl rfl rfl
theorem RoundTrip.stealRequest : RoundTrip.Statement .stealRequest :=
  RoundTrip.noWord rfl rfl rfl
theorem RoundTrip.sinkWatchdog : RoundTrip.Statement .sinkWatchdog :=
  RoundTrip.noWord rfl rfl rfl
theorem RoundTrip.doorbell : RoundTrip.Statement .doorbell :=
  RoundTrip.noWord rfl rfl rfl
theorem RoundTrip.cqheadWrite : RoundTrip.Statement .cqheadWrite :=
  RoundTrip.noWord rfl rfl rfl
theorem RoundTrip.registerWrite : RoundTrip.Statement .registerWrite :=
  RoundTrip.noWord rfl rfl rfl
theorem RoundTrip.vfAbsentRequest : RoundTrip.Statement .vfAbsentRequest :=
  RoundTrip.noWord rfl rfl rfl
theorem RoundTrip.launchCmd : RoundTrip.Statement .launchCmd :=
  RoundTrip.noWord rfl rfl rfl
theorem RoundTrip.regset : RoundTrip.Statement .regset :=
  RoundTrip.noWord rfl rfl rfl
theorem RoundTrip.regdrop : RoundTrip.Statement .regdrop :=
  RoundTrip.noWord rfl rfl rfl
theorem RoundTrip.ctxset : RoundTrip.Statement .ctxset :=
  RoundTrip.noWord rfl rfl rfl
theorem RoundTrip.ctxdrop : RoundTrip.Statement .ctxdrop :=
  RoundTrip.noWord rfl rfl rfl
theorem RoundTrip.switchCmd : RoundTrip.Statement .switchCmd :=
  RoundTrip.noWord rfl rfl rfl
theorem RoundTrip.sched : RoundTrip.Statement .sched :=
  RoundTrip.noWord rfl rfl rfl
theorem RoundTrip.hostSplit : RoundTrip.Statement .hostSplit :=
  RoundTrip.noWord rfl rfl rfl
theorem RoundTrip.power : RoundTrip.Statement .power :=
  RoundTrip.noWord rfl rfl rfl
theorem RoundTrip.telem : RoundTrip.Statement .telem :=
  RoundTrip.noWord rfl rfl rfl
theorem RoundTrip.patch : RoundTrip.Statement .patch :=
  RoundTrip.noWord rfl rfl rfl
theorem RoundTrip.attest : RoundTrip.Statement .attest :=
  RoundTrip.noWord rfl rfl rfl
theorem RoundTrip.serviceQuarantine : RoundTrip.Statement .serviceQuarantine :=
  RoundTrip.noWord rfl rfl rfl
theorem RoundTrip.serviceRetest : RoundTrip.Statement .serviceRetest :=
  RoundTrip.noWord rfl rfl rfl
theorem RoundTrip.serviceRetrain : RoundTrip.Statement .serviceRetrain :=
  RoundTrip.noWord rfl rfl rfl
theorem RoundTrip.retrainComplete : RoundTrip.Statement .retrainComplete :=
  RoundTrip.noWord rfl rfl rfl
theorem RoundTrip.serviceRetireDome : RoundTrip.Statement .serviceRetireDome :=
  RoundTrip.noWord rfl rfl rfl
theorem RoundTrip.fabric : RoundTrip.Statement .fabric :=
  RoundTrip.noWord rfl rfl rfl
theorem RoundTrip.blockChangeEffect : RoundTrip.Statement .blockChangeEffect :=
  RoundTrip.noWord rfl rfl rfl
theorem RoundTrip.switchSchedule : RoundTrip.Statement .switchSchedule :=
  RoundTrip.noWord rfl rfl rfl
theorem RoundTrip.switchCancel : RoundTrip.Statement .switchCancel :=
  RoundTrip.noWord rfl rfl rfl
theorem RoundTrip.hswitchSchedule : RoundTrip.Statement .hswitchSchedule :=
  RoundTrip.noWord rfl rfl rfl
theorem RoundTrip.hswitchCancel : RoundTrip.Statement .hswitchCancel :=
  RoundTrip.noWord rfl rfl rfl
theorem RoundTrip.switchWarning : RoundTrip.Statement .switchWarning :=
  RoundTrip.noWord rfl rfl rfl
theorem RoundTrip.scheduledSwitch : RoundTrip.Statement .scheduledSwitch :=
  RoundTrip.noWord rfl rfl rfl
theorem RoundTrip.switchSave : RoundTrip.Statement .switchSave :=
  RoundTrip.noWord rfl rfl rfl
theorem RoundTrip.switchRestore : RoundTrip.Statement .switchRestore :=
  RoundTrip.noWord rfl rfl rfl
theorem RoundTrip.coreResume : RoundTrip.Statement .coreResume :=
  RoundTrip.noWord rfl rfl rfl
theorem RoundTrip.schedQuantum : RoundTrip.Statement .schedQuantum :=
  RoundTrip.noWord rfl rfl rfl
theorem RoundTrip.fcmdWrite : RoundTrip.Statement .fcmdWrite :=
  RoundTrip.noWord rfl rfl rfl
theorem RoundTrip.frequencyChange : RoundTrip.Statement .frequencyChange :=
  RoundTrip.noWord rfl rfl rfl
theorem RoundTrip.powerEpoch : RoundTrip.Statement .powerEpoch :=
  RoundTrip.noWord rfl rfl rfl
theorem RoundTrip.telemetryRead : RoundTrip.Statement .telemetryRead :=
  RoundTrip.noWord rfl rfl rfl
theorem RoundTrip.powerOn : RoundTrip.Statement .powerOn :=
  RoundTrip.noWord rfl rfl rfl
theorem RoundTrip.stop : RoundTrip.Statement .stop :=
  RoundTrip.noWord rfl rfl rfl
theorem RoundTrip.resume : RoundTrip.Statement .resume :=
  RoundTrip.noWord rfl rfl rfl
theorem RoundTrip.stepThread : RoundTrip.Statement .stepThread :=
  RoundTrip.noWord rfl rfl rfl
theorem RoundTrip.claim : RoundTrip.Statement .claim :=
  RoundTrip.noWord rfl rfl rfl
theorem RoundTrip.release : RoundTrip.Statement .release :=
  RoundTrip.noWord rfl rfl rfl
theorem RoundTrip.dbgdataAccess : RoundTrip.Statement .dbgdataAccess :=
  RoundTrip.noWord rfl rfl rfl
theorem RoundTrip.lanternEnable : RoundTrip.Statement .lanternEnable :=
  RoundTrip.noWord rfl rfl rfl
theorem RoundTrip.lanternFilter : RoundTrip.Statement .lanternFilter :=
  RoundTrip.noWord rfl rfl rfl
theorem RoundTrip.lanternWriteback : RoundTrip.Statement .lanternWriteback :=
  RoundTrip.noWord rfl rfl rfl
theorem RoundTrip.bellArm : RoundTrip.Statement .bellArm :=
  RoundTrip.noWord rfl rfl rfl
theorem RoundTrip.bellPulse : RoundTrip.Statement .bellPulse :=
  RoundTrip.noWord rfl rfl rfl
theorem RoundTrip.cntpolWrite : RoundTrip.Statement .cntpolWrite :=
  RoundTrip.noWord rfl rfl rfl
theorem RoundTrip.viewLoRead : RoundTrip.Statement .viewLoRead :=
  RoundTrip.noWord rfl rfl rfl
theorem RoundTrip.viewHiRead : RoundTrip.Statement .viewHiRead :=
  RoundTrip.noWord rfl rfl rfl
theorem RoundTrip.ptpMessage : RoundTrip.Statement .ptpMessage :=
  RoundTrip.noWord rfl rfl rfl
theorem RoundTrip.portOffsetSuspend : RoundTrip.Statement .portOffsetSuspend :=
  RoundTrip.noWord rfl rfl rfl
theorem RoundTrip.portOffsetResume : RoundTrip.Statement .portOffsetResume :=
  RoundTrip.noWord rfl rfl rfl
theorem RoundTrip.fabricCellReceive : RoundTrip.Statement .fabricCellReceive :=
  RoundTrip.noWord rfl rfl rfl
theorem RoundTrip.tgtShed : RoundTrip.Statement .tgtShed :=
  RoundTrip.noWord rfl rfl rfl
theorem RoundTrip.tgtRetrain : RoundTrip.Statement .tgtRetrain :=
  RoundTrip.noWord rfl rfl rfl
theorem RoundTrip.laneFailure : RoundTrip.Statement .laneFailure :=
  RoundTrip.noWord rfl rfl rfl
theorem RoundTrip.portDown : RoundTrip.Statement .portDown :=
  RoundTrip.noWord rfl rfl rfl
theorem RoundTrip.rotationSlot : RoundTrip.Statement .rotationSlot :=
  RoundTrip.noWord rfl rfl rfl
theorem RoundTrip.replicaFill : RoundTrip.Statement .replicaFill :=
  RoundTrip.noWord rfl rfl rfl
theorem RoundTrip.laneRepair : RoundTrip.Statement .laneRepair :=
  RoundTrip.noWord rfl rfl rfl

end Sys2Proof.Laws
end

