-- ==== Sys2Proof/Safety.lean ====
section
/-! DEFINITION. What claims call a sound state and a safe run. -/

namespace Sys2Proof.Machine

set_option Elab.async false

/-- Every memory of the machine is in its canonical form (log 2). -/
def State.memoriesWf (s : State) : Prop :=
  (∀ c ∈ s.cores, Memory.wf c.2.tcm ∧ Memory.wf c.2.bankMem ∧ Memory.wf c.2.tiles) ∧
  (∀ c ∈ s.clusters, Memory.wf c.2.scratch) ∧ (∀ d ∈ s.dies, Memory.wf d.2.sram) ∧
  (∀ d ∈ s.domes, Memory.wf d.2.mem) ∧ Memory.wf s.hostMem

/-! ## What statements about one instruction are made of -/

/-- The thread whose rotation slot it is. -/
def me (s : State) : Thread := getThread s s.cur

/-- What the syllable of a slot sees when it issues beside a NOP. -/
def issueCtx (s : State) (slotV : Bool) : EvCtx := ⟨s, s.cur, me s, getCore s (tidKey s.cur), slotV, [], [], [], (me s).tileWait, [], [], [], 0⟩

/-- The operands of a syllable of the current thread: step 4 of R35 finds nothing to trap or park on in the reads `p`, which come
to `x`; at step 6 the bundle takes the effects `es`, the pops of its ports and streams. -/
def Reads {α : Type} (s : State) (slotV : Bool) (p : Ev α) (x : α) (es : List Eff) : Prop :=
  ∃ c, p (issueCtx s slotV) = .ok (x, c) ∧ c.eff6 = es

/-- The bundle of the current thread completes: the thread goes on at the next bundle, and the effects of step 6 follow in order. -/
def completes (s : State) (es : List Eff) : State := finishBundle s s.cur [] es

/-- Nothing stops the current thread after its bundle, and no gang moves it: no STOP waits, it is not stepped, it is in no gang. -/
def Quiet (s : State) : Prop :=
  s.cur.slot < 8 ∧ (me s).gang = none ∧ (me s).dbg.stopReq = none ∧ (me s).dbg.stepping = false

/-- The effect of writing a scalar destination: Dst(o) := v (R74). -/
def toS (o : SOp) (v : Word) : Eff :=
  match o with
  | .s r => .sreg r.toNat v
  | .port n => .push n.toNat ⟨v.setWidth 512, 0⟩

/-- The effect of writing a vector destination under a mask of width w (R34). -/
def toV (o : VOp) (w : Nat) (mask : Word) (v : Vec) : Eff :=
  match o with
  | .v r => .vreg r.toNat v
  | .port n => .push n.toNat ⟨v, 0⟩
  | .win n => .win n.toNat v (wcOf w) mask

/-- A syllable guarded by Guard(0), enabled and alone in its bundle (R29, R32). -/
def Enabled (s : State) (g : Guard) : Prop := s.pair = .alone ∧ guardBit g (me s) 0 = true

/-- A V syllable of a governing width, enabled and alone in its bundle (R30, R32). -/
def EnabledV (s : State) (g : Guard) (w : Nat) : Prop := s.pair = .alone ∧ anyGuard g (me s) w = true

/-! The operands of the scalar forms, in the order of step 4 of R35: the destination is examined where it is written. -/

def opsD (rd : SOp) : Ev Unit := examS rd
def opsDA (rd ra : SOp) : Ev Word := do
  examS rd
  srcS ra
def opsDAB (rd ra : SOp) (b : SrcB) : Ev (Word × Word) := do
  examS rd
  let x ← srcS ra
  let y ← srcB b
  pure (x, y)
def opsDABC (rd ra rb rc : SOp) : Ev (Word × Word × Word) := do
  examS rd
  let x ← srcS ra
  let y ← srcS rb
  let z ← srcS rc
  pure (x, y, z)
/-- The control value of a bit field: the register, or the immediate zero-extended (R82). -/
def opsField (rd ra : SOp) (b : SrcB) : Ev (Word × Word) := do
  examS rd
  let x ← srcS ra
  let c ← srcField b
  pure (x, c)
/-- A destination that is also read (R83). -/
def opsInsert (rd ra : SOp) (b : SrcB) : Ev (Word × Word × Word) := do
  let old ← srcS rd
  let x ← srcS ra
  let c ← srcField b
  pure (old, x, c)
def opsAB (ra rb : SOp) : Ev (Word × Word) := do
  let x ← srcS ra
  let y ← srcS rb
  pure (x, y)

/-- The integer conditions of R50, of two 64-bit patterns. -/
def holdsFor (c : Cond) (x y : Word) : Bool :=
  match c with
  | .eq => x = y
  | .ne => x ≠ y
  | .lt => x.slt y
  | .ge => y.sle x
  | .gt => y.slt x
  | .le => x.sle y
  | .ltu => x.ult y
  | .geu => y.ule x
  | .gtu => y.ult x
  | .leu => x.ule y
  | .tst => x &&& y ≠ 0
  | .un => false

/-- The mask of R92 and R99. -/
def allOnesIf (b : Bool) : Word := if b then -1 else 0

/-- The two writes of a predicate pair under a combine mode (R91). -/
def pairWrites (th : Thread) (m : PMode) (pd pe : BitVec 3) (c : Word) : List Eff :=
  let d := getP th pd.toNat
  let e := getP th pe.toNat
  match m with
  | .set => [.preg pd.toNat c, .preg pe.toNat (~~~c)]
  | .and => [.preg pd.toNat (d &&& c), .preg pe.toNat (e &&& ~~~c)]
  | .or => [.preg pd.toNat (d ||| c), .preg pe.toNat (e ||| ~~~c)]
  | .andn => [.preg pd.toNat (d &&& ~~~c), .preg pe.toNat (e &&& c)]

/-! What a thread keeps. -/

def keepsScalars (a b : Thread) (but : List Nat) : Prop := ∀ r, r ∉ but → getS b r = getS a r ∧ getFeS b r = getFeS a r
def keepsVectors (a b : Thread) (but : List Nat) : Prop := ∀ r, r ∉ but → getV b r = getV a r ∧ getFeV b r = getFeV a r
def keepsPredicates (a b : Thread) (but : List Nat) : Prop := ∀ p, p ∉ but → getP b p = getP a p

/-- The CSRs of a thread but its counters; a counter may set bit 21, pending source 5, of `status` (R461). -/
def keepsCsrs (a b : Thread) : Prop :=
  b.plive = a.plive ∧ b.round = a.round ∧ b.srkey = a.srkey ∧ b.phase = a.phase ∧ b.felimit = a.felimit ∧
  b.status ||| 0x200000 = a.status ||| 0x200000 ∧ b.tvec = a.tvec ∧ b.epc = a.epc ∧ b.cause = a.cause ∧ b.tval = a.tval ∧
  b.hstatus = a.hstatus ∧ b.htvec = a.htvec ∧ b.hepc = a.hepc ∧ b.hcause = a.hcause ∧ b.htval = a.htval ∧ b.hdeleg = a.hdeleg ∧
  b.trcen = a.trcen ∧ b.cntirq = a.cntirq ∧ b.dbgsel = a.dbgsel ∧ b.dbgctl = a.dbgctl ∧ b.dbgidx = a.dbgidx

/-- Effects that are pops of receive ports and streams. -/
def AllPops (es : List Eff) : Prop := ∀ e ∈ es, ∃ n, e = .pop n ∨ e = .popStream n

/-- The thread goes on: it runs, at an address, and parks on nothing. -/
def goesOnAt (b : Thread) (pc : Word) : Prop := b.run = .running ∧ b.park = none ∧ b.inflight = none ∧ b.pc = pc

/-- The bundle of a code address lies within the landed length of its segment, and the address has the form of R101 (R102). -/
def landed (s : State) (x : Word) : Prop :=
  bitsAt x 28 36 = 0 ∧ ∃ g, findSeg (codeCore s s.cur) (bitsAt x 16 12) = some g ∧ bitsAt x 4 12 < g.len

def sameSegment (pc x : Word) : Prop := bitsAt x 16 12 = bitsAt pc 16 12

/-! ## Memory of the local spaces and requests to the others -/

/-- The memory of `.l` or of `.c` that the current thread's instructions name (R191), and its size in bytes. -/
def localOf (s : State) (sp : Space) : Memory :=
  if sp = .l then (getCore s (tidKey s.cur)).tcm else (getCluster s (tidCluster s.cur)).scratch
def spaceBytes (sp : Space) : Nat := if sp = .l then 0x80000 else 0x400000

/-- Bit b of a memory, counted from bit 0 of byte 0. -/
def memBit (m : Memory) (b : Nat) : Bool := (mGet m (b / 8)).getLsbD (b % 8)

/-- No watchpoint of the thread is set (R453). -/
def NoWatch (s : State) : Prop := bitAt (me s).dbg.wp 63 = false

/-- The effect of a store in a local space: n bytes at an address (R201). -/
def putLocal (sp : Space) (a n v : Nat) : Eff := if sp = .l then .tcm a n v else .scratch a n v

/-- A bundle whose only effect beside its pops is a store: the thread goes on, the bits that f gives values take them, and every other
bit of both local memories, every full bit, and every register stay. -/
def StoresOnly (s t : State) (sp : Space) (f : Nat → Option Bool) : Prop :=
  (∀ b, memBit (localOf t sp) b = (f b).getD (memBit (localOf s sp) b)) ∧
  (∀ k, ¬(sp = .l ∧ k = tidKey s.cur) → (getCore t k).tcm = (getCore s k).tcm) ∧
  (∀ k, ¬(sp = .c ∧ k = tidCluster s.cur) → (getCluster t k).scratch = (getCluster s k).scratch) ∧
  (∀ k, (getCore t k).full = (getCore s k).full) ∧ t.hostMem = s.hostMem ∧ t.dies = (modDie s s.cur.die (boundLoads s.cur)).dies ∧ t.domes = s.domes ∧
  goesOnAt (me t) ((me s).pc + 16) ∧ keepsScalars (me s) (me t) [] ∧ keepsVectors (me s) (me t) [] ∧
  keepsPredicates (me s) (me t) [] ∧ keepsCsrs (me s) (me t)

/-- The bits that n bytes of a value at an address give. -/
def bitsOver (a n : Nat) (v : Nat → Bool) (b : Nat) : Option Bool := if 8 * a ≤ b ∧ b < 8 * (a + n) then some (v (b - 8 * a)) else none

/-- Of several stores in a row, the last that covers a bit gives it. -/
def lastOf (n : Nat) (f : Nat → Nat → Option Bool) (b : Nat) : Option Bool := (List.range n).reverse.findSome? fun k => f k b

/-- A bundle that hands the die's agent a request and waits at step 5 under cause 6 for its acceptance, then for `ws` (R193);
it takes k fresh identifiers, and the effects `es` follow at step 6. -/
def posts (s : State) (k : Nat) (r : Req) (ws : List Wait5) (es : List Eff) : State :=
  startBundle { s with nextId := s.nextId + k } s.cur [.post r] (.key 6 r.id :: ws) es

/-- The request of the current thread's bundle under an identifier; no watchpoint hits it. -/
def request (s : State) (id : Nat) (sp : Space) (kind : ReqKind) (l : List Acc) (o : MOrd) (sco : Scope) (d : Dest) : Req :=
  mkReq (issueCtx s false) id sp kind l o sco d none

/-! ## Vector results -/

/-- The operands of the vector forms, in the order of step 4 of R35: the destination is examined, and read where some element of the
written part is not written (R33). -/
def opsV1 (g : Guard) (vd va : VOp) (w lo n : Nat) : Ev (Vec × Vec) := do
  let old ← examPart g vd w lo n
  let x ← srcV va
  pure (old, x)
def opsV2 (g : Guard) (vd va : VOp) (w lo n : Nat) (second : Ev Vec) : Ev (Vec × Vec × Vec) := do
  let old ← examPart g vd w lo n
  let x ← srcV va
  let y ← second
  pure (old, x, y)
def opsV3 (g : Guard) (vd va : VOp) (w : Nat) (second third : Ev Vec) : Ev (Vec × Vec × Vec × Vec) := do
  let old ← examPart g vd w 0 (512 / w)
  let x ← srcV va
  let y ← second
  let z ← third
  pure (old, x, y, z)

/-- A vector syllable completes: of elements lo to lo + n - 1 the enabled ones become f, every other element keeps its value, and the
mask that a window takes holds the guards of the written part (R30, R34, R167). -/
def VectorPart (o : Host.Outcome State Fault Refusal) (s : State) (g : Guard) (vd : VOp) (w lo n : Nat) (es : List Eff) (old : Vec)
    (f : Nat → Nat) : Prop :=
  ∃ (mask : Word) (v : Vec), o = .next (completes s (es ++ [toV vd w mask v])) ∧
    (∀ k < 512 / w, vElem w v k = if lo ≤ k ∧ k < lo + n ∧ elemGuard g (me s) w k = true then f k % 2 ^ w else vElem w old k) ∧
    ∀ k < 64, mask.getLsbD k =
      (decide (predBit w lo ≤ k ∧ k ≤ predBit w (lo + n - 1) ∧ k < predBits w) && guardBit g (me s) k)

/-- The same over all elements. -/
def VectorResult (o : Host.Outcome State Fault Refusal) (s : State) (g : Guard) (vd : VOp) (w : Nat) (es : List Eff) (old : Vec)
    (f : Nat → Nat) : Prop := VectorPart o s g vd w 0 (512 / w) es old f

/-- An integer result: clamped with sat, then modulo 2^w (R170). -/
def narrow (ty : Ty) (sat : Bool) (i : Int) : Nat :=
  ((if sat then max (intMin ty) (min (intMax ty) i) else i) % 2 ^ tyWidth ty).toNat

/-- Exponent and mantissa bits of FP32, FP16 and BF16 (R139), and the kinds of their patterns. -/
def fltBits (ty : Ty) : Nat × Nat := match ty with
  | .f32 => (8, 23)
  | .f16 => (5, 10)
  | _ => (8, 7)
def expField (ty : Ty) (x : Nat) : Nat := x / 2 ^ (fltBits ty).2 % 2 ^ (fltBits ty).1
def manField (ty : Ty) (x : Nat) : Nat := x % 2 ^ (fltBits ty).2
def signField (ty : Ty) (x : Nat) : Bool := x.testBit (tyWidth ty - 1)
def isNanPat (ty : Ty) (x : Nat) : Bool := expField ty x == 2 ^ (fltBits ty).1 - 1 && manField ty x != 0
def canonicalNan (ty : Ty) : Nat := (2 ^ (fltBits ty).1 - 1) * 2 ^ (fltBits ty).2 + 2 ^ ((fltBits ty).2 - 1)

/-- The order of the patterns of a floating-point type that are no NaN: ±0 equal, and −0 below +0 (R159, R177). -/
def fltKey (ty : Ty) (x : Nat) : Int := if signField ty x then -(x % 2 ^ (tyWidth ty - 1) : Nat) else x
def fltKey0 (ty : Ty) (x : Nat) : Int := if signField ty x then -(x % 2 ^ (tyWidth ty - 1) : Nat) - 1 else x

/-- The class mask of a pattern (R175). -/
def classOf (ty : Ty) (x : Nat) : Nat :=
  let neg := signField ty x
  if expField ty x = 2 ^ (fltBits ty).1 - 1 then (if manField ty x ≠ 0 then 256 else if neg then 1 else 128)
  else if expField ty x = 0 then (if manField ty x = 0 then (if neg then 8 else 16) else if neg then 4 else 32)
  else if neg then 2 else 64

/-- Conditions on two integer element patterns (R177). -/
def intHoldsFor (ty : Ty) (c : Cond) (x y : Nat) : Bool :=
  match c with
  | .eq => x = y
  | .ne => x ≠ y
  | .lt => intValue ty x < intValue ty y
  | .ge => intValue ty y ≤ intValue ty x
  | .gt => intValue ty y < intValue ty x
  | .le => intValue ty x ≤ intValue ty y
  | .ltu => x < y
  | .geu => y ≤ x
  | .gtu => y < x
  | .leu => x ≤ y
  | .tst => x &&& y ≠ 0
  | .un => false

/-- Conditions on two floating-point patterns (R177). -/
def fltHoldsFor (ty : Ty) (c : Cond) (x y : Nat) : Bool :=
  let nan := isNanPat ty x || isNanPat ty y
  match c with
  | .eq => !nan && fltKey ty x = fltKey ty y
  | .ne => !(!nan && fltKey ty x = fltKey ty y)
  | .lt => !nan && fltKey ty x < fltKey ty y
  | .ge => !nan && fltKey ty y ≤ fltKey ty x
  | .gt => !nan && fltKey ty y < fltKey ty x
  | .le => !nan && fltKey ty x ≤ fltKey ty y
  | .un => nan
  | _ => false

/-- The bits of the two predicates of a pair under a combine mode (R91). -/
def pairBits (m : PMode) (d e c : Bool) : Bool × Bool :=
  match m with
  | .set => (c, !c)
  | .and => (d && c, e && !c)
  | .or => (d || c, e || !c)
  | .andn => (d && !c, e && c)

/-- The combination of the enabled items of a scan from the first on (R189). -/
def scanOver (ty : Ty) (opr : Nat) (l : List (Nat × Nat)) : Option (Nat × Nat) :=
  match l with
  | [] => none
  | x :: l => some (l.foldl (scanCombine ty opr) x)

/-! ## The power gate and the matrix unit -/

/-- A request at the gate of a slot of the current thread's bundle. -/
def AsksFor (s : State) (v : Bool) (r : GateReq) : Prop := r.slot = some s.cur.slot ∧ r.slotV = v

/-- The power gate lets a syllable of the current thread pass with a request of a kind: it has granted one, or none of the syllable
waits and there is leave; every request before it is granted, and not of the kind that joins the same queue (R135, R227). -/
def GatePasses (s : State) (v : Bool) (k : GateKind) : Prop :=
  let c := getCore s (tidKey s.cur)
  let passed (x : GateReq) : Prop := ¬ AsksFor s v x ∧ x.granted = true ∧ (k = .heavy ∨ x.kind = .heavy)
  (∃ a r b, c.gate = a ++ r :: b ∧ AsksFor s v r ∧ r.granted = true ∧ r.kind = k ∧ ∀ x ∈ a, passed x) ∨
    ((∀ r ∈ c.gate, passed r) ∧ gateOpen c k = true)

/-- A command of the multiplier joins the core's queue; the thread goes on, its request at the gate is used up, and a leave taken at once
counts as heavy (R227, R135). -/
def Admits (s t : State) (k : GateKind) (m : MCmd) : Prop :=
  let c := getCore s (tidKey s.cur)
  let d := getCore t (tidKey s.cur)
  d.mq = c.mq ++ [m] ∧ m.id = c.mnext ∧ m.hold = none ∧ d.mnext = c.mnext + 1 ∧ d.tcm = c.tcm ∧ d.tiles = c.tiles ∧
  d.bankMem = c.bankMem ∧ (∀ r ∈ d.gate, ¬ AsksFor s true r) ∧
  ((k = .plain ∨ ∃ r ∈ c.gate, AsksFor s true r) → d.heavy = c.heavy) ∧
  (¬(k = .plain ∨ ∃ r ∈ c.gate, AsksFor s true r) → d.heavy = c.heavy + 1) ∧
  goesOnAt (me t) ((me s).pc + 16) ∧ keepsScalars (me s) (me t) [] ∧ keepsVectors (me s) (me t) []

/-- No other slot owns a tile that T names (R236). -/
def OwnsOrFree (s : State) (t : TileSel) : Prop :=
  ∀ i ∈ tilesOf t, ∀ o, ownerOf (getCore s (tidKey s.cur)) i = some o → o = s.cur.slot

/-- The four bytes of an accumulator element: tile, row, column (R225). -/
def accCell (s : State) (i m n : Nat) : Nat := mNat (getCore s (tidKey s.cur)).tiles (i * 65536 + (m * 128 + n) * 4) 4

/-- An instruction ends in a next state. -/
def Completes (o : Host.Outcome State Fault Refusal) : Prop := ∃ t, o = .next t

/-- An instruction ends in a next state of which a property holds. -/
def CompletesWith (o : Host.Outcome State Fault Refusal) (p : State → Prop) : Prop := ∃ t, o = .next t ∧ p t

/-! ## Host commands -/

/-- The keep finishes the command at the head of a function's queue: HEAD moves on, and where the completion queue is enabled a record
with a status, HANDLE 2^63 + the command's index and a wheel count stands at its tail (R415, R416). -/
def Answered (s t : State) (k status wheel : Nat) : Prop :=
  let f := getFunc s k
  let g := getFunc t k
  g.head = (f.head + 1) % 2 ^ f.qlog2 ∧ g.tail = f.tail ∧ g.busy = false ∧
  (f.cqen = false → g.cqtail = f.cqtail) ∧
  (f.cqen = true → g.cqtail = (f.cqtail + 1) % 2 ^ f.cqlog2 ∧
    mNat t.hostMem (k / 512 * 2 ^ 64 + f.cqbase.toNat + 32 * f.cqtail) 32 = recordNat status (2 ^ 63 + f.head) 0 wheel ∧
    (f.msie = true → vget g.raised 0 0 = vget f.raised 0 0 + 1))

/-- A command finishes at once with a status and changes nothing (R417, R418). -/
def TurnedAway (s : State) (k status : Nat) (o : Host.Outcome State Fault Refusal) : Prop :=
  CompletesWith o fun t => Answered s t k status s.wheel ∧ t = { s with funcs := t.funcs, hostMem := t.hostMem }

/-- A command finishes at once with status 0 and the rest of its effect. -/
def Done (s : State) (k : Nat) (o : Host.Outcome State Fault Refusal) (p : State → Prop) : Prop :=
  CompletesWith o fun t => Answered s t k 0 s.wheel ∧ p t

/-- A command waits for its change at a revolution boundary at least 64 revolutions on (R413). -/
def Defers (s : State) (k : Nat) (o : Host.Outcome State Fault Refusal) (c : BlockChange) : Prop :=
  CompletesWith o fun t => ∃ e, t.blkChanges = s.blkChanges ++ [{ c with e := e, cmd := some (k, (getFunc s k).head) }] ∧
    e % s.W = 0 ∧ s.wheel / s.W + 64 ≤ e / s.W ∧ getFunc t k = { getFunc s k with busy := true } ∧
    t = { s with blkChanges := t.blkChanges, funcs := t.funcs }

end Sys2Proof.Machine
end

