-- ==== Sys2Proof/Certificates/Slice0/Obligations.lean ====
section
/-! DEFINITION. The statements for the provers, from the numbered rules of spec/. -/

section Statements

open Sys2Proof Sys2Proof.Machine

set_option Elab.async false

/-! ## Scalar results -/

/-- R77, R78, R79: the two-operand integer instructions, over registers, ports and immediates. R80, R85, R86: the multiply-add, the lesser
and greater of two operands, and the scaled sum. -/
def Obligations.IntegerArithmetic : Prop :=
    (∀ (s : State) (g : Guard) (rd ra : SOp) (b : SrcB) (x y : Word) (es : List Eff),
      Enabled s g → Reads s false (opsDAB rd ra b) (x, y) es →
      exec (.add g rd ra b) s = .next (completes s (es ++ [toS rd (x + y)])) ∧
      exec (.sub g rd ra b) s = .next (completes s (es ++ [toS rd (x - y)])) ∧
      exec (.mul g rd ra b) s = .next (completes s (es ++ [toS rd (x * y)])) ∧
      exec (.mulh g false rd ra b) s =
        .next (completes s (es ++ [toS rd ((x.signExtend 128 * y.signExtend 128).extractLsb' 64 64)])) ∧
      exec (.mulh g true rd ra b) s =
        .next (completes s (es ++ [toS rd ((x.setWidth 128 * y.setWidth 128).extractLsb' 64 64)])) ∧
      exec (.div g false rd ra b) s = .next (completes s (es ++ [toS rd (if y = 0 then -1 else x.sdiv y)])) ∧
      exec (.div g true rd ra b) s = .next (completes s (es ++ [toS rd (if y = 0 then -1 else x / y)])) ∧
      exec (.rem g false rd ra b) s = .next (completes s (es ++ [toS rd (if y = 0 then x else x.srem y)])) ∧
      exec (.rem g true rd ra b) s = .next (completes s (es ++ [toS rd (if y = 0 then x else x % y)]))) ∧
    (∀ (s : State) (g : Guard) (rd ra : SOp) (x y : Word) (es : List Eff), Enabled s g →
      (∀ b : SrcB, Reads s false (opsDAB rd ra b) (x, y) es →
        exec (.min g false rd ra b) s = .next (completes s (es ++ [toS rd (if x.sle y then x else y)])) ∧
        exec (.min g true rd ra b) s = .next (completes s (es ++ [toS rd (if x.ule y then x else y)])) ∧
        exec (.max g false rd ra b) s = .next (completes s (es ++ [toS rd (if x.sle y then y else x)])) ∧
        exec (.max g true rd ra b) s = .next (completes s (es ++ [toS rd (if x.ule y then y else x)])) ∧
        ∀ k : BitVec 2, exec (.shadd g k rd ra b) s = .next (completes s (es ++ [toS rd (x * (2 ^ k.toNat : Nat) + y)]))) ∧
      (∀ (rb rc : SOp) (z : Word), Reads s false (opsDABC rd ra rb rc) (x, y, z) es →
        exec (.madd g rd ra rb rc) s = .next (completes s (es ++ [toS rd (x * y + z)]))))

/-- R77, R78: bitwise operations, shifts and rotates; a count is bits [5:0] of the second operand. R81, R87: the one-operand instructions;
each count is told by the bits of the operand. -/
def Obligations.LogicShiftsAndCounts : Prop :=
    (∀ (s : State) (g : Guard) (rd ra : SOp) (b : SrcB) (x y : Word) (es : List Eff),
      Enabled s g → Reads s false (opsDAB rd ra b) (x, y) es →
      exec (.and g rd ra b) s = .next (completes s (es ++ [toS rd (x &&& y)])) ∧
      exec (.or g rd ra b) s = .next (completes s (es ++ [toS rd (x ||| y)])) ∧
      exec (.xor g rd ra b) s = .next (completes s (es ++ [toS rd (x ^^^ y)])) ∧
      exec (.andn g rd ra b) s = .next (completes s (es ++ [toS rd (x &&& ~~~y)])) ∧
      exec (.orn g rd ra b) s = .next (completes s (es ++ [toS rd (x ||| ~~~y)])) ∧
      exec (.xnor g rd ra b) s = .next (completes s (es ++ [toS rd (~~~(x ^^^ y))])) ∧
      exec (.sll g rd ra b) s = .next (completes s (es ++ [toS rd (x <<< (y.toNat % 64))])) ∧
      exec (.srl g rd ra b) s = .next (completes s (es ++ [toS rd (x >>> (y.toNat % 64))])) ∧
      exec (.sra g rd ra b) s = .next (completes s (es ++ [toS rd (x.sshiftRight (y.toNat % 64))])) ∧
      exec (.rol g rd ra b) s = .next (completes s (es ++ [toS rd (x.rotateLeft (y.toNat % 64))])) ∧
      exec (.ror g rd ra b) s = .next (completes s (es ++ [toS rd (x.rotateRight (y.toNat % 64))]))) ∧
    (∀ (s : State) (g : Guard) (rd ra : SOp) (x : Word) (es : List Eff), Enabled s g → Reads s false (opsDA rd ra) x es →
      exec (.mov g rd ra) s = .next (completes s (es ++ [toS rd x])) ∧
      exec (.abs g rd ra) s = .next (completes s (es ++ [toS rd (if x.msb then -x else x)])) ∧
      exec (.brev g rd ra) s = .next (completes s (es ++ [toS rd x.reverse])) ∧
      (∃ v : Word, exec (.bswap g rd ra) s = .next (completes s (es ++ [toS rd v])) ∧
        ∀ j < 8, v.extractLsb' (8 * j) 8 = x.extractLsb' (8 * (7 - j)) 8) ∧
      (∃ n : Nat, exec (.clz g rd ra) s = .next (completes s (es ++ [toS rd (BitVec.ofNat 64 n)])) ∧ n ≤ 64 ∧
        (∀ j < n, x.getLsbD (63 - j) = false) ∧ (n < 64 → x.getLsbD (63 - n) = true)) ∧
      (∃ n : Nat, exec (.ctz g rd ra) s = .next (completes s (es ++ [toS rd (BitVec.ofNat 64 n)])) ∧ n ≤ 64 ∧
        (∀ j < n, x.getLsbD j = false) ∧ (n < 64 → x.getLsbD n = true)) ∧
      exec (.popc g rd ra) s = .next (completes s (es ++ [toS rd (BitVec.ofNat 64 (∑ j ∈ Finset.range 64, (x.getLsbD j).toNat))])))

/-- R82 to R84: fields extracted and inserted, and extension from n bits. R88 to R90: selection by a predicate bit, and constants in two
halves. -/
def Obligations.FieldsAndConstants : Prop :=
    (∀ (s : State) (g : Guard) (rd ra : SOp) (es : List Eff), Enabled s g →
      (∀ (b : SrcB) (x c : Word), Reads s false (opsField rd ra b) (x, c) es →
        let f := (x >>> (c.toNat % 64)) &&& (BitVec.allOnes 64 >>> (63 - c.toNat / 256 % 64))
        exec (.bext g false rd ra b) s = .next (completes s (es ++ [toS rd f])) ∧
        exec (.bext g true rd ra b) s = .next (completes s (es ++
          [toS rd (if f.getLsbD (c.toNat / 256 % 64) then f ||| (BitVec.allOnes 64 <<< (c.toNat / 256 % 64)) else f)]))) ∧
      (∀ (b : SrcB) (old x c : Word), Reads s false (opsInsert rd ra b) (old, x, c) es →
        ∃ v : Word, exec (.bins g rd ra b) s = .next (completes s (es ++ [toS rd v])) ∧
          ∀ j < 64, v.getLsbD j =
            if c.toNat % 64 ≤ j ∧ j ≤ c.toNat % 64 + c.toNat / 256 % 64 then x.getLsbD (j - c.toNat % 64) else old.getLsbD j) ∧
      (∀ (n : BitVec 23) (x : Word), 1 ≤ n.toNat → n.toNat ≤ 64 → Reads s false (opsDA rd ra) x es →
        exec (.sext g rd ra n) s = .next (completes s (es ++ [toS rd ((x.setWidth n.toNat).signExtend 64)])) ∧
        exec (.zext g rd ra n) s = .next (completes s (es ++ [toS rd (x &&& (BitVec.allOnes 64 >>> (64 - n.toNat)))])))) ∧
    (∀ (s : State) (g : Guard) (rd : SOp) (es : List Eff), Enabled s g →
      (∀ (q : BitVec 3) (ra rb : SOp) (x y : Word), Reads s false (do examS rd; opsAB ra rb) (x, y) es →
        exec (.sel g q rd ra rb) s =
          .next (completes s (es ++ [toS rd (if (getP (me s) q.toNat).getLsbD 0 then x else y)]))) ∧
      (∀ i : BitVec 34, Reads s false (opsD rd) () es → exec (.li g rd i) s = .next (completes s (es ++ [toS rd (i.signExtend 64)]))) ∧
      (∀ (i : BitVec 30) (old : Word), Reads s false (srcS rd) old es →
        exec (.lih g rd i) s = .next (completes s (es ++ [toS rd (i ++ old.extractLsb' 0 34)]))))

/-! ## Predicates -/

/-- R91, R92: compares write all ones or zero through the combine mode. R95, R97 to R100: the predicate instructions. -/
def Obligations.ComparesAndPredicates : Prop :=
    (∀ (s : State) (g : Guard) (pd pe : BitVec 3) (m : PMode) (cond : Cond) (es : List Eff), Enabled s g →
      (∀ (ra rb : SOp) (x y : Word), Reads s false (opsAB ra rb) (x, y) es →
        exec (.cmp g pd pe m cond ra rb) s = .next (completes s (es ++ pairWrites (me s) m pd pe (allOnesIf (holdsFor cond x y))))) ∧
      (∀ (ra : SOp) (i : BitVec 22) (x : Word), Reads s false (srcS ra) x es →
        exec (.cmpi g pd pe m cond ra i) s =
          .next (completes s (es ++ pairWrites (me s) m pd pe (allOnesIf (holdsFor cond x (i.signExtend 64))))))) ∧
    (∀ (s : State) (g : Guard) (m : PMode) (pd pe qa qb qc : BitVec 3) (rd ra : SOp) (lw : BitVec 2) (es : List Eff), Enabled s g →
      let p := getP (me s) qa.toNat
      let n := 64 / 2 ^ lw.toNat
      (∀ tt : BitVec 8, ∃ c : Word, exec (.ptt g pd pe m tt qa qb qc) s = .next (completes s (pairWrites (me s) m pd pe c)) ∧
        ∀ j < 64, c.getLsbD j = tt.getLsbD (4 * (p.getLsbD j).toNat + 2 * ((getP (me s) qb.toNat).getLsbD j).toNat +
          ((getP (me s) qc.toNat).getLsbD j).toNat)) ∧
      (∀ x : Word, Reads s false (srcS ra) x es → exec (.pmov g pd ra) s = .next (completes s (es ++ [.preg pd.toNat x]))) ∧
      (∃ b : Bool, exec (.pany g pd pe m qa lw) s = .next (completes s (pairWrites (me s) m pd pe (allOnesIf b))) ∧
        (b = true ↔ ∃ j < n, p.getLsbD j = true)) ∧
      (∃ b : Bool, exec (.pall g pd pe m qa lw) s = .next (completes s (pairWrites (me s) m pd pe (allOnesIf b))) ∧
        (b = true ↔ ∀ j < n, p.getLsbD j = true)) ∧
      (Reads s false (opsD rd) () es →
        exec (.pget g rd qa) s = .next (completes s (es ++ [toS rd p])) ∧
        exec (.pcnt g rd qa lw) s =
          .next (completes s (es ++ [toS rd (BitVec.ofNat 64 (∑ j ∈ Finset.range n, (p.getLsbD j).toNat))])) ∧
        ∃ k ≤ n, exec (.pfirst g rd qa lw) s = .next (completes s (es ++ [toS rd (BitVec.ofNat 64 k)])) ∧
          (∀ j < k, p.getLsbD j = false) ∧ (k < n → p.getLsbD k = true)))

/-! ## Operands -/

/-- R25, R26, R74, R75: what the sources of a syllable read: a Full register, s0, an immediate, the head of a bound receive port, and two
elements of one port in order (R37). -/
def Obligations.SourcesRead : Prop :=
  ∀ (s : State) (v : Bool),
    (∀ r : BitVec 5, streamS (me s) r.toNat = none → getFeS (me s) r.toNat = .full → Reads s v (srcS (.s r)) (getS (me s) r.toNat) []) ∧
    Reads s v (srcS (.s 0)) 0 [] ∧
    (∀ r : BitVec 4, streamV (me s) r.toNat = none → getFeV (me s) r.toNat = .full → Reads s v (srcV (.v r)) (getV (me s) r.toNat) []) ∧
    (∀ i : BitVec 23, Reads s v (srcB (.imm i)) (i.signExtend 64) []) ∧
    (∀ (n : BitVec 2) (x : Vec) (l : List Vec), (getRx (me s) n.toNat).circ ≠ none → (getRx (me s) n.toNat).overflow = false →
      (getRx (me s) n.toNat).q = x :: l →
      Reads s v (srcS (.port n)) (x.setWidth 64) [.pop n.toNat] ∧ Reads s v (srcV (.port n)) x [.pop n.toNat] ∧
      (∀ (y : Vec) (l' : List Vec), l = y :: l' →
        Reads s v (opsAB (.port n) (.port n)) (x.setWidth 64, y.setWidth 64) [.pop n.toNat, .pop n.toNat])) ∧
    (∀ (r : BitVec 4) (j : Nat) (x : Vec) (l : List FifoEntry), streamV (me s) r.toNat = some j → (getStream (me s) j).fifo = .val x :: l →
      bitAt (getStream (me s) j).rcd.w1 17 = false → Reads s v (srcV (.v r)) x [.popStream j])

/-- R25, R35, R125, R215: what stops a source: an Empty register parks under cause 0, a Pending one under cause 1, an empty receive port
under cause 3, with the pc and every register as they were; a Poisoned register traps poison with the pc of its load, an unbound port
access-fault with its operand number, an overflowed port port-overflow. R25, R35, R213: what stops a destination: a Pending register parks
under cause 1 and a full send port under cause 4, before any source is read; an unbound send port traps access-fault with its operand
number. -/
def Obligations.OperandsStop : Prop :=
    (∀ (s : State) (g : Guard) (rd : BitVec 5) (b : SrcB), Enabled s g → s.cur.slot < 8 → getFeS (me s) rd.toNat ≠ .pending →
      (∀ r : BitVec 5, streamS (me s) r.toNat = none →
        (getFeS (me s) r.toNat = .empty → ∃ t, exec (.add g (.s rd) (.s r) b) s = .next t ∧ (me t).run = .parked ∧
          (me t).park = some ⟨0, word r.toNat, .sFilled r.toNat, false, 0, false⟩ ∧ (me t).pc = (me s).pc ∧
          keepsScalars (me s) (me t) [] ∧ keepsVectors (me s) (me t) [] ∧ keepsPredicates (me s) (me t) []) ∧
        (getFeS (me s) r.toNat = .pending → ∃ t, exec (.add g (.s rd) (.s r) b) s = .next t ∧ (me t).run = .parked ∧
          (me t).park = some ⟨1, word r.toNat, .sReplied r.toNat, false, 0, false⟩ ∧ (me t).pc = (me s).pc ∧
          keepsScalars (me s) (me t) [] ∧ keepsVectors (me s) (me t) [] ∧ keepsPredicates (me s) (me t) []) ∧
        (∀ pc, getFeS (me s) r.toNat = .poisoned pc → exec (.add g (.s rd) (.s r) b) s = .next (takeTrap s s.cur 14 pc false 0 false))) ∧
      (∀ n : BitVec 2,
        ((getRx (me s) n.toNat).circ = none →
          exec (.add g (.s rd) (.port n) b) s = .next (takeTrap s s.cur 6 (word (32 + n.toNat)) false 0 false)) ∧
        ((getRx (me s) n.toNat).circ ≠ none → (getRx (me s) n.toNat).overflow = true →
          exec (.add g (.s rd) (.port n) b) s =
            .next (takeTrap (setThread s s.cur (setRx (me s) n.toNat { getRx (me s) n.toNat with overflow := false })) s.cur 10
              (word n.toNat) false 0 false)) ∧
        ((getRx (me s) n.toNat).circ ≠ none → (getRx (me s) n.toNat).overflow = false → (getRx (me s) n.toNat).q = [] →
          (getRx (me s) n.toNat).rcount = 0 → ∃ t, exec (.add g (.s rd) (.port n) b) s = .next t ∧ (me t).run = .parked ∧
            (me t).park = some ⟨3, word (32 + n.toNat), .inq n.toNat 1, false, 0, false⟩ ∧ (me t).pc = (me s).pc))) ∧
    (∀ (s : State) (g : Guard) (ra : SOp) (b : SrcB), Enabled s g → s.cur.slot < 8 →
      (∀ r : BitVec 5, getFeS (me s) r.toNat = .pending → ∃ t, exec (.add g (.s r) ra b) s = .next t ∧ (me t).run = .parked ∧
        (me t).park = some ⟨1, word r.toNat, .sReplied r.toNat, false, 0, false⟩ ∧ (me t).pc = (me s).pc) ∧
      (∀ n : BitVec 2,
        (getTx (me s) n.toNat = none →
          exec (.add g (.port n) ra b) s = .next (takeTrap s s.cur 6 (word (32 + n.toNat)) false 0 false)) ∧
        (∀ k, liveCirc s (getTx (me s) n.toNat) = some k → 8 ≤ waitingBeats s k (.tx s.cur n.toNat) →
          ∃ t, exec (.add g (.port n) ra b) s = .next t ∧ (me t).run = .parked ∧
            (me t).park = some ⟨4, word (32 + n.toNat), .outq n.toNat, false, 0, false⟩ ∧ (me t).pc = (me s).pc)))

/-! ## Destinations -/

/-- R25, R35, R222: a bundle that completes with a scalar write changes its thread alone: the register holds the value and is Full, s0
stays zero, a register in stream mode discards it, and the thread goes on at pc + 16. R25, R33, R35: the same for a vector register. R24,
R91, R98: a predicate write; p0 keeps reading all ones; the two halves of a pair are written together. -/
def Obligations.RegisterDestinations : Prop :=
    (∀ (s : State) (es : List Eff) (r : BitVec 5) (v : Word), Quiet s → AllPops es →
      ∃ b, completes s (es ++ [toS (.s r) v]) = setThread s s.cur b ∧ goesOnAt b ((me s).pc + 16) ∧
        (streamS (me s) r.toNat = none → getS b r.toNat = (if r = 0 then 0 else v) ∧ getFeS b r.toNat = .full ∧
          keepsScalars (me s) b [r.toNat]) ∧
        (streamS (me s) r.toNat ≠ none → keepsScalars (me s) b []) ∧
        keepsVectors (me s) b [] ∧ keepsPredicates (me s) b [] ∧ keepsCsrs (me s) b) ∧
    (∀ (s : State) (es : List Eff) (r : BitVec 4) (w : Nat) (mask : Word) (v : Vec), Quiet s → AllPops es →
      ∃ b, completes s (es ++ [toV (.v r) w mask v]) = setThread s s.cur b ∧ goesOnAt b ((me s).pc + 16) ∧
        (streamV (me s) r.toNat = none → getV b r.toNat = v ∧ getFeV b r.toNat = .full ∧ keepsVectors (me s) b [r.toNat]) ∧
        (streamV (me s) r.toNat ≠ none → keepsVectors (me s) b []) ∧
        keepsScalars (me s) b [] ∧ keepsPredicates (me s) b [] ∧ keepsCsrs (me s) b) ∧
    (∀ (s : State) (es : List Eff) (p q : BitVec 3) (c d : Word), Quiet s → AllPops es → (p = q → p = 0) →
      (∃ b, completes s (es ++ [.preg p.toNat c, .preg q.toNat d]) = setThread s s.cur b ∧ goesOnAt b ((me s).pc + 16) ∧
        getP b p.toNat = (if p = 0 then -1 else c) ∧ getP b q.toNat = (if q = 0 then -1 else d) ∧
        keepsPredicates (me s) b [p.toNat, q.toNat] ∧ keepsScalars (me s) b [] ∧ keepsVectors (me s) b [] ∧ keepsCsrs (me s) b) ∧
      (∃ b, completes s (es ++ [.preg p.toNat c]) = setThread s s.cur b ∧ goesOnAt b ((me s).pc + 16) ∧
        getP b p.toNat = (if p = 0 then -1 else c) ∧ keepsPredicates (me s) b [p.toNat] ∧ keepsScalars (me s) b [] ∧
        keepsVectors (me s) b [] ∧ keepsCsrs (me s) b))

/-- R213, R215, R219, R351: a push puts one queue beat of KIND 0 into its circuit's injection order, where it waits as one of the send
port's beats; a pop takes the head of the receive queue, and the oldest beat of the ring follows it. -/
def Obligations.PortDestinationAndSource : Prop :=
  ∀ (s : State) (n : BitVec 2), Quiet s →
    (∀ (k : Nat) (v : Word), liveCirc s (getTx (me s) n.toNat) = some k →
      let t := completes s [toS (.port n) v]
      (∃ t0 h, (getCircuit t k).inj = (getCircuit s k).inj ++ [⟨⟨v.setWidth 512, 0⟩, .tx s.cur n.toNat, t0, h⟩]) ∧
        waitingBeats t k (.tx s.cur n.toNat) = waitingBeats s k (.tx s.cur n.toNat) + 1 ∧
        (∀ j ≠ k, getCircuit t j = getCircuit s j) ∧ goesOnAt (me t) ((me s).pc + 16) ∧ keepsScalars (me s) (me t) []) ∧
    (∃ b, completes s [.pop n.toNat] = setThread s s.cur b ∧ goesOnAt b ((me s).pc + 16) ∧ keepsScalars (me s) b [] ∧
      let r := getRx (me s) n.toNat
      let tcm := (getCore s (tidKey s.cur)).tcm
      (r.rcount = 0 → getRx b n.toNat = { r with q := r.q.tail }) ∧
      (r.rcount ≠ 0 → getRx b n.toNat = { r with
        q := r.q.tail ++ [mVec tcm (r.rbase + 64 * (r.rhead % r.rlen))], rhead := (r.rhead + 1) % r.rlen, rcount := r.rcount - 1 }))

/-! ## Traps, transfers and the system instructions -/

/-- R38, R109 to R111: taking a trap. In S, when the thread was in U or S and `hdeleg` delegates the cause; in H otherwise. The saved
registers and the status fields are as the entry gives them, the pc is the handler's, no register and no memory changes. R113, R117:
`eret` in S returns to epc in the mode that SPM holds, with SIE from SPIE; in H to hepc in the mode that HPM holds, with HIE from HPIE; in
U it traps privilege with the syllable in tval, and a target that traps leaves the trap alone. -/
def Obligations.TrapsAndReturns : Prop :=
    (∀ (s : State) (code : Nat) (tval : Word) (v : Bool) (elem : Nat) (force : Bool), Quiet s →
      let a := me s
      let t := takeTrap s s.cur code tval v elem force
      let b := me t
      let cause := word ((if v then 2 ^ 62 else 0) + elem % 256 * 2 ^ 16 + code % 256)
      b.run = .running ∧ b.park = none ∧ keepsScalars a b [] ∧ keepsVectors a b [] ∧ keepsPredicates a b [] ∧
      b.tvec = a.tvec ∧ b.htvec = a.htvec ∧ b.hdeleg = a.hdeleg ∧
      (∀ k, (getCore t k).tcm = (getCore s k).tcm ∧ (getCore t k).tiles = (getCore s k).tiles) ∧
      t.clusters = s.clusters ∧ t.dies = s.dies ∧ t.domes = s.domes ∧ t.circuits = s.circuits ∧
      ((bitsAt a.status 0 2 ≠ 3 ∧ force = false ∧ bitAt a.hdeleg code = true) →
        b.pc = a.tvec ∧ b.epc = a.pc ∧ b.cause = cause ∧ b.tval = tval ∧
        bitsAt b.status 0 2 = 1 ∧ bitAt b.status 2 = false ∧ bitAt b.status 3 = bitAt a.status 2 ∧ bitAt b.status 4 = bitAt a.status 0 ∧
        (∀ i, 5 ≤ i → i ≠ 21 → bitAt b.status i = bitAt a.status i) ∧
        b.hstatus = a.hstatus ∧ b.hepc = a.hepc ∧ b.hcause = a.hcause ∧ b.htval = a.htval) ∧
      (¬(bitsAt a.status 0 2 ≠ 3 ∧ force = false ∧ bitAt a.hdeleg code = true) →
        b.pc = a.htvec ∧ b.hepc = a.pc ∧ b.hcause = cause ∧ b.htval = tval ∧
        bitsAt b.status 0 2 = 3 ∧ (∀ i, 2 ≤ i → i ≠ 21 → bitAt b.status i = bitAt a.status i) ∧
        bitsAt b.hstatus 0 2 = bitsAt a.status 0 2 ∧ bitAt b.hstatus 2 = false ∧ bitAt b.hstatus 3 = bitAt a.hstatus 2 ∧
        (∀ i, 4 ≤ i → bitAt b.hstatus i = bitAt a.hstatus i) ∧
        b.epc = a.epc ∧ b.cause = a.cause ∧ b.tval = a.tval)) ∧
    (∀ (s : State) (g : Guard), Enabled s g → Quiet s →
      (bitsAt (me s).status 0 2 = 0 → ∃ w, encodeS (.eret g) = some w ∧ exec (.eret g) s = .next (takeTrap s s.cur 3 w false 0 false)) ∧
      (bitsAt (me s).status 0 2 = 1 → bitsAt (me s).epc 0 4 = 0 → landed s (me s).epc →
        ∃ t, exec (.eret g) s = .next t ∧ goesOnAt (me t) (me s).epc ∧
          bitsAt (me t).status 0 2 = bitsAt (me s).status 4 1 ∧ bitAt (me t).status 2 = bitAt (me s).status 3 ∧
          bitAt (me t).status 3 = true ∧ (∀ i, 4 ≤ i → i ≠ 21 → bitAt (me t).status i = bitAt (me s).status i) ∧
          (me t).hstatus = (me s).hstatus ∧ keepsScalars (me s) (me t) [] ∧ keepsVectors (me s) (me t) []) ∧
      (bitsAt (me s).status 0 2 = 3 → bitsAt (me s).hepc 0 4 = 0 → landed s (me s).hepc →
        ∃ t, exec (.eret g) s = .next t ∧ goesOnAt (me t) (me s).hepc ∧
          bitsAt (me t).status 0 2 = bitsAt (me s).hstatus 0 2 ∧ (∀ i, 2 ≤ i → i ≠ 21 → bitAt (me t).status i = bitAt (me s).status i) ∧
          bitAt (me t).hstatus 2 = bitAt (me s).hstatus 3 ∧ bitAt (me t).hstatus 3 = true ∧
          (∀ i, (i < 2 ∨ 4 ≤ i) → bitAt (me t).hstatus i = bitAt (me s).hstatus i) ∧
          keepsScalars (me s) (me t) [] ∧ keepsVectors (me s) (me t) []) ∧
      (bitsAt (me s).status 0 2 = 1 → bitsAt (me s).epc 0 4 ≠ 0 → exec (.eret g) s = .next (takeTrap s s.cur 4 (me s).epc false 0 false)))

/-- R101 to R103: the transfers to a landed bundle: relative ones within their segment, `jmp`, `callr` and `ret` to an aligned register
value, `jf` and `callf` to a bundle of any segment; a call links pc + 16 in s1. R103: `loop` counts down; at zero it falls through with
the counter written, else it branches; a counter of 0 wraps and branches. -/
def Obligations.TransfersTaken : Prop :=
    (∀ (s : State) (g : Guard), Enabled s g →
      let pc := (me s).pc
      (∀ off : BitVec 40, sameSegment pc (pc + (off.signExtend 64 <<< 4)) → landed s (pc + (off.signExtend 64 <<< 4)) →
        exec (.br g off) s = .next (completes s [.jump (pc + (off.signExtend 64 <<< 4))]) ∧
        (getFeS (me s) 1 ≠ .pending → exec (.call g off) s =
          .next (completes s [.sreg 1 (pc + 16), .jump (pc + (off.signExtend 64 <<< 4))]))) ∧
      (∀ (ra : SOp) (x : Word) (es : List Eff), Reads s false (srcS ra) x es → bitsAt x 0 4 = 0 → landed s x →
        exec (.jmp g ra) s = .next (completes s (es ++ [.jump x])) ∧
        (ra = .s 1 → exec (.ret g) s = .next (completes s (es ++ [.jump x]))) ∧
        (getFeS (me s) 1 ≠ .pending → exec (.callr g ra) s = .next (completes s (es ++ [.sreg 1 (pc + 16), .jump x])))) ∧
      (∀ seg entry : BitVec 12, landed s (word (seg.toNat * 65536 + entry.toNat * 16)) →
        exec (.jf g seg entry) s = .next (completes s [.jump (word (seg.toNat * 65536 + entry.toNat * 16))]) ∧
        (getFeS (me s) 1 ≠ .pending → exec (.callf g seg entry) s =
          .next (completes s [.sreg 1 (pc + 16), .jump (word (seg.toNat * 65536 + entry.toNat * 16))])))) ∧
    (∀ (s : State) (g : Guard) (r : BitVec 5) (off : BitVec 34) (x : Word) (es : List Eff), Enabled s g → Reads s false (srcS (.s r)) x es →
      let target := (me s).pc + (off.signExtend 64 <<< 4)
      (x = 1 → exec (.loop g (.s r) off) s = .next (completes s (es ++ [.sreg r.toNat 0]))) ∧
      (x ≠ 1 → sameSegment (me s).pc target → landed s target →
        exec (.loop g (.s r) off) s = .next (completes s (es ++ [.sreg r.toNat (x - 1), .jump target]))))

/-- R102: the checks of a target in their order: alignment of a register target, address bits [63:28], the segment of a relative target,
and a landed bundle. The trap is taken for the transferring bundle, with the target in tval. R35, R102, R454: a taken transfer leaves the
pc at the target; with trace class 6 enabled it leaves a record of KIND 6 with the bundle's pc and the target. -/
def Obligations.TransfersChecked : Prop :=
    (∀ (s : State) (g : Guard), Enabled s g →
      (∀ (ra : SOp) (x : Word) (es : List Eff), Reads s false (srcS ra) x es →
        (bitsAt x 0 4 ≠ 0 → exec (.jmp g ra) s = .next (takeTrap s s.cur 4 x false 0 false)) ∧
        (bitsAt x 0 4 = 0 → bitsAt x 28 36 ≠ 0 → exec (.jmp g ra) s = .next (takeTrap s s.cur 6 x false 0 false)) ∧
        (bitsAt x 0 4 = 0 → bitsAt x 28 36 = 0 → ¬ landed s x → exec (.jmp g ra) s = .next (takeTrap s s.cur 12 x false 0 false))) ∧
      (∀ off : BitVec 40,
        let x := (me s).pc + (off.signExtend 64 <<< 4)
        (¬(bitsAt x 28 36 = 0 ∧ bitsAt x 16 12 = bitsAt (me s).pc 16 12) →
          exec (.br g off) s = .next (takeTrap s s.cur 6 x false 0 false)) ∧
        (sameSegment (me s).pc x → bitsAt x 28 36 = 0 → ¬ landed s x →
          exec (.br g off) s = .next (takeTrap s s.cur 12 x false 0 false)))) ∧
    (∀ (s : State) (es : List Eff) (x : Word), Quiet s → AllPops es → (tidWord s s.cur).toNat < 2 ^ 24 →
      let t := completes s (es ++ [.jump x])
      goesOnAt (me t) x ∧ keepsScalars (me s) (me t) [] ∧ keepsVectors (me s) (me t) [] ∧ keepsPredicates (me s) (me t) [] ∧
      keepsCsrs (me s) (me t) ∧ (∀ k, (getCore t k).tcm = (getCore s k).tcm) ∧
      (bitAt (me s).trcen 6 = false → (getCore t (tidKey s.cur)).trace = (getCore s (tidKey s.cur)).trace) ∧
      (bitAt (me s).trcen 6 = true → (getCore s (tidKey s.cur)).trace.length < 8 →
        ∃ w0 w2, (getCore t (tidKey s.cur)).trace = (getCore s (tidKey s.cur)).trace ++ [[w0, (me s).pc, w2, x]] ∧ bitsAt w0 24 4 = 6))

/-- R104 to R108, R448, R451: an enabled `trap` raises system-call and an enabled `brk` breakpoint, with the code in tval; a claimed `brk`
stops its thread at the following bundle with WHY 5; `halt` waits at step 5 under cause 9; `wfe` completes where a masked source is
pending in either view, and parks under cause 8 where none is; `plive` writes its mask but for bit 0; `tmark` emits a marker record. -/
def Obligations.EndingWaitingTrapping : Prop :=
  ∀ (s : State) (g : Guard), Enabled s g → Quiet s →
    (∀ code : BitVec 16, exec (.trap g code) s = .next (takeTrap s s.cur 16 (code.setWidth 64) false 0 false)) ∧
    (∀ code : BitVec 16, (me s).dbg.agent = none →
      exec (.brk g code) s = .next (takeTrap s s.cur 15 (code.setWidth 64) false 0 false)) ∧
    (∀ code : BitVec 16, (me s).dbg.agent ≠ none → ∃ t, exec (.brk g code) s = .next t ∧ (me t).run = .stopped ∧
      (me t).pc = (me s).pc + 16 ∧ (me t).dbg.why = 5 ∧ (me t).dbg.bcode = code.toNat) ∧
    (∃ t, exec (.halt g) s = .next t ∧ (me t).run = .parked ∧ (me t).pc = (me s).pc ∧ (me t).park = none ∧
      (me t).inflight = some ⟨[.drain], [], []⟩) ∧
    (∀ mask : BitVec 8,
      ((bitsAt (me s).status 16 8 ||| bitsAt (me s).hstatus 16 8) &&& mask.toNat ≠ 0 →
        exec (.wfe g mask) s = .next (completes s [])) ∧
      ((bitsAt (me s).status 16 8 ||| bitsAt (me s).hstatus 16 8) &&& mask.toNat = 0 →
        ∃ t, exec (.wfe g mask) s = .next t ∧ (me t).run = .parked ∧ (me t).pc = (me s).pc ∧
          (me t).park = some ⟨8, 0, .event mask, false, 0, false⟩)) ∧
    (∀ mask : BitVec 8, ∃ t, exec (.plive g mask) s = .next t ∧ goesOnAt (me t) ((me s).pc + 16) ∧ (me t).plive = mask &&& 0xFE) ∧
    (∀ m : BitVec 16, exec (.tmark g m) s = .next (completes s [.trace 0 0 (m.setWidth 64)]) ∧
      (bitAt (me s).trcen 0 = true → (getCore s (tidKey s.cur)).trace.length < 8 → ∃ w0 w2,
        (getCore (completes s [.trace 0 0 (m.setWidth 64)]) (tidKey s.cur)).trace =
          (getCore s (tidKey s.cur)).trace ++ [[w0, (me s).pc, w2, m.setWidth 64]]))

/-- R114, R117: each CSR instruction is one read-modify-write: the old value goes to the destination, the new value to the register; a W1C
field receives the source under `csrw` and `csrs` and zero under `csrc`; `csrs` and `csrc` with s0 write nothing. From a mode below the
number's range each traps privilege with its syllable in tval, an H-range number in H. -/
def Obligations.CsrInstructions : Prop :=
  ∀ (s : State) (g : Guard) (x ra : SOp) (n : BitVec 12) (a : Word) (es : List Eff), Enabled s g →
    let m := bitsAt (me s).status 0 2
    let old := csrRead s s.cur n.toNat
    let w1c : Word := if n = 0x400 then 0xFF00ED0000 else if n = 0x800 then 0xFF00120000 else 0
    ((n.toNat < 0x400 ∨ (n.toNat < 0x800 ∧ 1 ≤ m) ∨ m = 3) →
      (Reads s false (opsD x) () es → exec (.csrr g x n) s = .next (completes s (es ++ [toS x old]))) ∧
      (Reads s false (opsDA x ra) a es →
        exec (.csrw g x ra n) s = .next (completes s (es ++ [.csr n.toNat a, toS x old])) ∧
        (ra ≠ .s 0 →
          exec (.csrs g x ra n) s =
            .next (completes s (es ++ [.csr n.toNat (((old ||| a) &&& ~~~w1c) ||| (a &&& w1c)), toS x old])) ∧
          exec (.csrc g x ra n) s = .next (completes s (es ++ [.csr n.toNat (old &&& ~~~a &&& ~~~w1c), toS x old]))) ∧
        (ra = .s 0 →
          exec (.csrs g x ra n) s = .next (completes s (es ++ [toS x old])) ∧
          exec (.csrc g x ra n) s = .next (completes s (es ++ [toS x old]))))) ∧
    (¬(n.toNat < 0x400 ∨ (n.toNat < 0x800 ∧ 1 ≤ m) ∨ m = 3) →
      ∀ i w, i ∈ [Instr.csrr g x n, .csrw g x ra n, .csrs g x ra n, .csrc g x ra n] → encodeS i = some w →
        exec i s = .next (takeTrap s s.cur 3 w false 0 (decide (0x800 ≤ n.toNat))))

/-- R118 to R120: what a write of each CSR of the thread changes, field by field: RW fields take the value, RO fields keep theirs, W1C
fields lose the bits received, the mode is never written; every other register of the thread stays. R118, R121, R460: what the CSRs of the
thread, its place, its core and the wheel read. -/
def Obligations.CsrRegisters : Prop :=
    (∀ (s : State) (v : Word), Quiet s →
      let a := me s
      let after (n : Nat) := me (completes s [.csr n v])
      (after 0x001).plive = (v.setWidth 8) &&& 0xFE ∧
      ((v.toNat % 8 ≤ 4 → (after 0x002).round = v.setWidth 3) ∧ (4 < v.toNat % 8 → (after 0x002).round = a.round)) ∧
      (after 0x003).srkey = v ∧ (after 0x004).phase = a.phase ∧ (after 0x005).felimit = v.setWidth 32 ∧
      (after 0x401).tvec = (v &&& ~~~15) ∧ (after 0x402).epc = (v &&& ~~~15) ∧ (after 0x403).cause = (v &&& 0xC000000000FF00FF) ∧
      (after 0x404).tval = v ∧ (after 0x801).htvec = (v &&& ~~~15) ∧ (after 0x802).hepc = (v &&& ~~~15) ∧
      (after 0x803).hcause = (v &&& 0xC000000000FF00FF) ∧ (after 0x804).htval = v ∧ (after 0x805).hdeleg = (v &&& 0x3FFFE) ∧
      (after 0x100).trcen = (v &&& 0x7F) ∧ (after 0x101).cntirq = (v &&& 0xFFF) ∧
      (∀ i, i ≠ 21 → bitAt (after 0x400).status i =
        (if i ∈ [2, 3, 4] ∨ (24 ≤ i ∧ i < 32 ∧ i ≠ 25 ∧ i ≠ 28) then bitAt v i
         else if (16 ≤ i ∧ i < 24 ∧ i ≠ 17 ∧ i ≠ 20) ∨ (32 ≤ i ∧ i < 40) then bitAt a.status i && !bitAt v i else bitAt a.status i)) ∧
      (∀ i, 2 ≤ i → bitAt (after 0x800).hstatus i =
        (if i ∈ [2, 3, 25, 28] then bitAt v i
         else if i = 17 ∨ i = 20 ∨ (32 ≤ i ∧ i < 40) then bitAt a.hstatus i && !bitAt v i else bitAt a.hstatus i)) ∧
      bitsAt (after 0x800).hstatus 0 2 = (if bitsAt v 0 2 = 2 then bitsAt a.hstatus 0 2 else bitsAt v 0 2) ∧
      ∀ n ∈ [0x001, 0x002, 0x003, 0x004, 0x005, 0x010, 0x012, 0x100, 0x101, 0x400, 0x401, 0x402, 0x403, 0x404, 0x480, 0x800, 0x801, 0x802,
          0x803, 0x804, 0x805],
        goesOnAt (after n) (a.pc + 16) ∧ keepsScalars a (after n) [] ∧ keepsVectors a (after n) [] ∧ keepsPredicates a (after n) [] ∧
        bitsAt (after n).status 0 2 = bitsAt a.status 0 2) ∧
    (∀ (s : State),
      let a := me s
      csrRead s s.cur 0x001 = a.plive.setWidth 64 ∧ csrRead s s.cur 0x002 = a.round.setWidth 64 ∧ csrRead s s.cur 0x003 = a.srkey ∧
      csrRead s s.cur 0x004 = a.phase ∧ csrRead s s.cur 0x011 = BitVec.ofNat 64 s.wheel ∧
      csrRead s s.cur 0x012 = BitVec.ofNat 64 (getCore s (tidKey s.cur)).duty ∧
      csrRead s s.cur 0x400 = a.status ∧ csrRead s s.cur 0x402 = a.epc ∧ csrRead s s.cur 0x403 = a.cause ∧
      csrRead s s.cur 0x404 = a.tval ∧ csrRead s s.cur 0x800 = a.hstatus ∧ csrRead s s.cur 0x802 = a.hepc ∧
      csrRead s s.cur 0x805 = a.hdeleg ∧
      (s.modNo < 64 → s.cur.die < 160 → s.cur.core < 64 → s.cur.slot < 8 →
        let w := csrRead s s.cur 0x010
        bitsAt w 0 3 = s.cur.slot ∧ bitsAt w 3 3 = s.cur.core % 8 ∧ bitsAt w 6 3 = s.cur.core / 8 ∧
        bitsAt w 13 5 = s.cur.die / 8 ∧ bitsAt w 9 4 = 2 * (s.cur.die % 8) + s.cur.die / 8 % 2 ∧ bitsAt w 18 6 = s.modNo ∧
        bitsAt w 24 40 = 0 ∧ tidOf (word (bitsAt w 0 18)) = some s.cur))

/-! ## Memory -/

/-- R201, R202, R209: an aligned load inside `.l` or `.c` completes at once: `ld` with the bytes at the address of its operand, zero- or
sign-extended, `vld` with 64 bytes, `vlds` with the bytes of element k at a + k·t, `vldx` with the elements, pads and zeros of a strip;
the thread's loads on their way come before it (R301). -/
def Obligations.LocalLoads : Prop :=
  ∀ (s : State) (g : Guard) (sp : Space) (o : MOrd) (sco : Scope) (es : List Eff), Enabled s g → NoWatch s → (sp = .l ∨ sp = .c) →
    let m := localOf s sp
    let all : Word := BitVec.allOnes 64
    (∀ (v : Bool) (ra : SOp) (x : Word),
      (∀ off, Reads s v (srcS ra) x es → Reads s v (evAddr ra (.off off)) (x + off.signExtend 64) es) ∧
      (∀ rb sc y, Reads s v (opsAB ra rb) (x, y) es →
        Reads s v (evAddr ra (.idx rb sc)) (x + y * (match sc with | .x1 => 1 | .x8 => 8 | .x64 => 64)) es)) ∧
    (∀ (wd : BitVec 2) (sx : Bool) (d ra : SOp) (mo : MemOff) (a : Word), Reads s false (do examS d; evAddr ra mo) a es →
      a.toNat % 2 ^ wd.toNat = 0 → a.toNat + 2 ^ wd.toNat ≤ spaceBytes sp →
      ∃ v : Word, exec (.ld g sp wd sx o sco d ra mo) s = .next (completes s (es ++ [.boundLoads, toS d v])) ∧
        (∀ j < 2 ^ wd.toNat, v.extractLsb' (8 * j) 8 = mGet m (a.toNat + j)) ∧
        ∀ i, 8 * 2 ^ wd.toNat ≤ i → i < 64 → v.getLsbD i = (sx && v.getLsbD (8 * 2 ^ wd.toNat - 1))) ∧
    (∀ (d : VOp) (ra : SOp) (mo : MemOff) (a : Word), Reads s false (do let _ ← examV d true; evAddr ra mo) a es →
      a.toNat % 64 = 0 → a.toNat + 64 ≤ spaceBytes sp →
      ∃ v : Vec, exec (.vld g sp o sco d ra mo) s = .next (completes s (es ++ [.boundLoads, toV d 64 all v])) ∧
        ∀ j < 64, v.extractLsb' (8 * j) 8 = mGet m (a.toNat + j)) ∧
    (∀ (wd : BitVec 2) (d : VOp) (ra rb : SOp) (a t : Word), Reads s false (do let _ ← examV d true; opsAB ra rb) (a, t) es →
      let at_ (k : Nat) := (a + BitVec.ofNat 64 k * t).toNat
      (∀ k < 64 / 2 ^ wd.toNat, at_ k % 2 ^ wd.toNat = 0 ∧ at_ k + 2 ^ wd.toNat ≤ spaceBytes sp) →
      ∃ v : Vec, exec (.vlds g sp wd o sco d ra rb) s = .next (completes s (es ++ [.boundLoads, toV d 64 all v])) ∧
        ∀ j < 64, v.extractLsb' (8 * j) 8 = mGet m (at_ (j / 2 ^ wd.toNat) + j % 2 ^ wd.toNat)) ∧
    (∀ (d : VOp) (ra rb : SOp) (r : Rec) (i : Word),
      Reads s false (do
        let _ ← examV d true
        let a ← srcS ra
        let n ← srcS rb
        let r ← evRec a
        pure (r, n)) (r, i) es →
      rSpace r = sp → (i = 0 → recTagen r = true →
        isFull (getCore s (tidKey s.cur)) (tagAddr r) = true ∧ tagMatches (getCore s (tidKey s.cur)) r = true) →
      let w := rWidth r
      let rank := (me s).rank
      let e (j : Nat) := i.toNat * (512 / w) + j
      (∀ j < 512 / w, ∀ p i0 row, e j < elemCount r rank → elemAt r rank (e j) = .at_ p i0 row →
        p.addr % elemBytes w = 0 ∧ p.addr + elemBytes w ≤ spaceBytes sp) →
      ∃ v : Vec, exec (.vldx g o sco d ra rb) s = .next (completes s (es ++ [.boundLoads, toV d 64 all v])) ∧
        ∀ j < 512 / w,
          (elemCount r rank ≤ e j → vElem w v j = padOf r) ∧
          (e j < elemCount r rank → match elemAt r rank (e j) with
            | .at_ p _ _ => ∀ b < w, v.getLsbD (w * j + b) = memBit m (8 * p.addr + p.bit + b)
            | .pad => vElem w v j = padOf r
            | .null => vElem w v j = 0))

/-- R197, R201, R202, R209: an aligned store inside `.l` or `.c` completes at once and changes its bytes alone; where elements of `vsts`
or `vstx` coincide, the highest stays; a store leaves every full bit. -/
def Obligations.LocalStores : Prop :=
  ∀ (s : State) (g : Guard) (sp : Space) (o : MOrd) (sco : Scope) (es : List Eff), Enabled s g → Quiet s → NoWatch s → AllPops es →
    (sp = .l ∨ sp = .c) →
    (∀ (wd : BitVec 2) (d ra : SOp) (mo : MemOff) (v a : Word),
      Reads s false (do let v ← srcS d; let a ← evAddr ra mo; pure (v, a)) (v, a) es →
      a.toNat % 2 ^ wd.toNat = 0 → a.toNat + 2 ^ wd.toNat ≤ spaceBytes sp →
      CompletesWith (exec (.st g sp wd o sco d ra mo) s) fun t => StoresOnly s t sp (bitsOver a.toNat (2 ^ wd.toNat) v.getLsbD)) ∧
    (∀ (d : VOp) (ra : SOp) (mo : MemOff) (v : Vec) (a : Word),
      Reads s false (do let v ← srcV d; let a ← evAddr ra mo; pure (v, a)) (v, a) es →
      a.toNat % 64 = 0 → a.toNat + 64 ≤ spaceBytes sp →
      CompletesWith (exec (.vst g sp o sco d ra mo) s) fun t => StoresOnly s t sp (bitsOver a.toNat 64 v.getLsbD)) ∧
    (∀ (wd : BitVec 2) (d : VOp) (ra rb : SOp) (v : Vec) (a t : Word),
      Reads s false (do let v ← srcV d; let (a, t) ← opsAB ra rb; pure (v, a, t)) (v, a, t) es →
      let n := 2 ^ wd.toNat
      let at_ (k : Nat) := (a + BitVec.ofNat 64 k * t).toNat
      (∀ k < 64 / n, at_ k % n = 0 ∧ at_ k + n ≤ spaceBytes sp) →
      CompletesWith (exec (.vsts g sp wd o sco d ra rb) s) fun u =>
        StoresOnly s u sp (lastOf (64 / n) fun k => bitsOver (at_ k) n fun b => v.getLsbD (8 * n * k + b))) ∧
    (∀ (d : VOp) (ra rb : SOp) (r : Rec) (v : Vec) (i : Word),
      Reads s false (do
        let v ← srcV d
        let a ← srcS ra
        let n ← srcS rb
        let r ← evRec a
        pure (v, r, n)) (v, r, i) es →
      rSpace r = sp →
      let w := rWidth r
      let rank := (me s).rank
      let e (j : Nat) := i.toNat * (512 / w) + j
      (∀ j < 512 / w, ∀ p i0 row, e j < elemCount r rank → elemAt r rank (e j) = .at_ p i0 row →
        p.addr % elemBytes w = 0 ∧ p.addr + elemBytes w ≤ spaceBytes sp) →
      CompletesWith (exec (.vstx g o sco d ra rb) s) fun u => StoresOnly s u sp (lastOf (512 / w) fun j b =>
        if e j < elemCount r rank then match elemAt r rank (e j) with
          | .at_ p _ _ => if 8 * p.addr + p.bit ≤ b ∧ b < 8 * p.addr + p.bit + w then some (v.getLsbD (w * j + (b - (8 * p.addr + p.bit))))
            else none
          | _ => none
        else none))

/-- R210: the full/empty operations on an aligned word of TCM, and how they wait; R126: a change of a full bit wakes the threads parked on
the word. -/
def Obligations.FullEmptyOperations : Prop :=
  ∀ (s : State) (g : Guard) (o : MOrd) (sco : Scope) (d ra rb : SOp) (mo : MemOff) (sc : Scale) (a v : Word) (es : List Eff),
    Enabled s g → NoWatch s → a.toNat % 8 = 0 → a.toNat + 8 ≤ 0x80000 →
    let c := getCore s (tidKey s.cur)
    (Reads s false (do examS d; evAddr ra mo) a es → isFull c a.toNat = true →
      exec (.ldfe g o sco d ra mo) s = .next (completes s (es ++ [.boundLoads, toS d (mWord c.tcm a.toNat), .full a.toNat false])) ∧
      exec (.ldff g o sco d ra mo) s = .next (completes s (es ++ [.boundLoads, toS d (mWord c.tcm a.toNat)]))) ∧
    (Reads s false (do examS d; evAddr ra mo) a es → isFull c a.toNat = false → s.cur.slot < 8 →
      ∀ i ∈ [Instr.ldfe g o sco d ra mo, .ldff g o sco d ra mo], CompletesWith (exec i s) fun t => (me t).run = .parked ∧
        (me t).park = some ⟨2, a, .word a.toNat, false, 0, false⟩ ∧ (me t).pc = (me s).pc ∧ keepsScalars (me s) (me t) []) ∧
    (Reads s false (do let v ← srcS d; let a ← evAddr ra mo; pure (v, a)) (v, a) es →
      exec (.stff g o sco d ra mo) s = .next (completes s (es ++ [.boundLoads, .tcm a.toNat 8 v.toNat, .full a.toNat true])) ∧
      (isFull c a.toNat = false →
        exec (.stef g o sco d ra mo) s = .next (completes s (es ++ [.boundLoads, .tcm a.toNat 8 v.toNat, .full a.toNat true]))) ∧
      (isFull c a.toNat = true → s.cur.slot < 8 →
        CompletesWith (exec (.stef g o sco d ra mo) s) fun t => (me t).run = .parked ∧
          (me t).park = some ⟨2, a, .word a.toNat, false, 0, false⟩ ∧ (me t).pc = (me s).pc ∧ keepsScalars (me s) (me t) [])) ∧
    (∀ f, Reads s false (evAddr ra (.idx rb sc)) a es → exec (.fest g f ra rb sc) s = .next (completes s (es ++ [.boundLoads, .full a.toNat f]))) ∧
    (∀ f, Quiet s → AllPops es →
      let t := completes s (es ++ [.boundLoads, .full a.toNat f])
      (∀ x, isFull (getCore t (tidKey s.cur)) x = if x / 8 = a.toNat / 8 then f else isFull c x) ∧
      (getCore t (tidKey s.cur)).tcm = c.tcm ∧ keepsScalars (me s) (me t) [] ∧ keepsVectors (me s) (me t) [] ∧
      ∀ i < 8, i ≠ s.cur.slot → ∀ p, (slotOf c i).park = some p → p.wake = .word a.toNat → isFull c a.toNat ≠ f →
        (slotOf (getCore t (tidKey s.cur)) i).park = some { p with woken := true }) ∧
    (∀ f, Reads s false (evAddr ra (.idx rb sc)) (a + 4) es → exec (.fest g f ra rb sc) s = .next (takeTrap s s.cur 4 (a + 4) false 0 false))

/-- R288: the atomics of `.l` and `.c`: one read and one write of an aligned 32-bit or 64-bit location; the old value goes to d. -/
def Obligations.LocalAtomics : Prop :=
  ∀ (s : State) (g : Guard) (sp : Space) (w64 : Bool) (o : MOrd) (sco : Scope) (d ra rb : SOp) (a b e : Word) (es : List Eff),
    Enabled s g → NoWatch s → (sp = .l ∨ sp = .c) →
    let len := if w64 then 8 else 4
    let old := mNat (localOf s sp) a.toNat len
    let x : BitVec (8 * len) := BitVec.ofNat (8 * len) old
    let y : BitVec (8 * len) := b.setWidth (8 * len)
    a.toNat % len = 0 → a.toNat + len ≤ spaceBytes sp →
    (∀ op, Reads s false (opsDAB d ra (.reg rb)) (a, b) es →
      let new : BitVec (8 * len) := match op with
        | .add => x + y
        | .and => x &&& y
        | .or => x ||| y
        | .xor => x ^^^ y
        | .min => if x.sle y then x else y
        | .max => if x.sle y then y else x
        | .minu => if x.ule y then x else y
        | .maxu => if x.ule y then y else x
        | .swap => y
      exec (.amo g op sp w64 o sco d ra rb) s =
        .next (completes s (es ++ [.boundLoads, putLocal sp a.toNat len new.toNat, toS d (BitVec.ofNat 64 old)]))) ∧
    (Reads s false (do let e ← srcS d; let a ← srcS ra; let b ← srcS rb; pure (e, a, b)) (e, a, b) es →
      exec (.cas g sp w64 o sco d ra rb) s = .next (completes s
        (es ++ [.boundLoads, putLocal sp a.toNat len (if x = e.setWidth (8 * len) then y else x).toNat, toS d (BitVec.ofNat 64 old)])))

/-- R193, R194, R201, R202, R288, R306: in `.d` and `.g` an aligned access makes one request, whole, and waits for acceptance; a load then
leaves its register Pending, a load with an acquire waits under cause 15 for its reply instead, and a load whose destination discards
writes leaves nothing. -/
def Obligations.RemoteAccesses : Prop :=
  ∀ (s : State) (g : Guard) (sp : Space) (o : MOrd) (sco : Scope) (es : List Eff), Enabled s g → NoWatch s → (sp = .d ∨ sp = .g) →
    let id := s.nextId
    let acq : Bool := decide ((o = .acq ∨ o = .acqrel) ∧ sco ≠ .th)
    let loadS (i : Instr) (kind : ReqKind) (l : List Acc) (r : BitVec 5) (n : Nat) (sx : Bool) : Prop :=
      (acq = true → exec i s = .next (posts s 2 (request s (id + 1) sp kind l o sco (.bundle id)) [.key 15 id]
        (es ++ [.sregOf r.toNat id n sx (me s).pc]))) ∧
      (acq = false → r ≠ 0 → streamS (me s) r.toNat = none →
        exec i s = .next (posts s 1 (request s id sp kind l o sco (.sreg r.toNat sx)) [] (es ++ [.sPend r.toNat]))) ∧
      (acq = false → (r = 0 ∨ streamS (me s) r.toNat ≠ none) → exec i s = .next (posts s 1 (request s id sp kind l o sco .none) [] es))
    let loadV (i : Instr) (sp : Space) (l : List Acc) (r : BitVec 4) : Prop :=
      (acq = true → exec i s = .next (posts s 2 (request s (id + 1) sp .load l o sco (.bundle id)) [.key 15 id]
        (es ++ [.vregOf r.toNat id (me s).pc]))) ∧
      (acq = false → streamV (me s) r.toNat = none →
        exec i s = .next (posts s 1 (request s id sp .load l o sco (.vreg r.toNat)) [] (es ++ [.vPend r.toNat]))) ∧
      (acq = false → streamV (me s) r.toNat ≠ none → exec i s = .next (posts s 1 (request s id sp .load l o sco .none) [] es))
    let store (i : Instr) (sp : Space) (l : List Acc) : Prop := exec i s = .next (posts s 1 (request s id sp .store l o sco .none) [] es)
    (∀ (wd : BitVec 2) (sx : Bool) (r : BitVec 5) (ra : SOp) (mo : MemOff) (a : Word),
      Reads s false (do examS (.s r); evAddr ra mo) a es → a.toNat % 2 ^ wd.toNat = 0 →
      loadS (.ld g sp wd sx o sco (.s r) ra mo) .load [wholeAcc a.toNat (2 ^ wd.toNat) 0 0] r (2 ^ wd.toNat) sx) ∧
    (∀ (wd : BitVec 2) (d ra : SOp) (mo : MemOff) (v a : Word),
      Reads s false (do let v ← srcS d; let a ← evAddr ra mo; pure (v, a)) (v, a) es → a.toNat % 2 ^ wd.toNat = 0 →
      store (.st g sp wd o sco d ra mo) sp [wholeAcc a.toNat (2 ^ wd.toNat) 0 v.toNat]) ∧
    (∀ (r : BitVec 4) (ra : SOp) (mo : MemOff) (a : Word), Reads s false (do let _ ← examV (.v r) true; evAddr ra mo) a es →
      a.toNat % 64 = 0 → loadV (.vld g sp o sco (.v r) ra mo) sp [wholeAcc a.toNat 64 0 0] r) ∧
    (∀ (d : VOp) (ra : SOp) (mo : MemOff) (v : Vec) (a : Word),
      Reads s false (do let v ← srcV d; let a ← evAddr ra mo; pure (v, a)) (v, a) es → a.toNat % 64 = 0 →
      store (.vst g sp o sco d ra mo) sp [wholeAcc a.toNat 64 0 v.toNat]) ∧
    (∀ (wd : BitVec 2) (ra rb : SOp) (a t : Word),
      let n := 2 ^ wd.toNat
      let at_ (k : Nat) := (a + BitVec.ofNat 64 k * t).toNat
      (∀ k < 64 / n, at_ k % n = 0) →
      (∀ r : BitVec 4, Reads s false (do let _ ← examV (.v r) true; opsAB ra rb) (a, t) es →
        loadV (.vlds g sp wd o sco (.v r) ra rb) sp ((List.range (64 / n)).map fun k => wholeAcc (at_ k) n (8 * n * k) 0) r) ∧
      (∀ (d : VOp) (v : Vec), Reads s false (do let v ← srcV d; let (a, t) ← opsAB ra rb; pure (v, a, t)) (v, a, t) es →
        store (.vsts g sp wd o sco d ra rb) sp
          ((List.range (64 / n)).map fun k => wholeAcc (at_ k) n (8 * n * k) (v.extractLsb' (8 * n * k) (8 * n)).toNat))) ∧
    (∀ (ra rb : SOp) (rc : Rec) (i : Word), rSpace rc = sp → recTagen rc = false →
      (∀ r : BitVec 4, Reads s false (do
          let _ ← examV (.v r) true
          let a ← srcS ra
          let n ← srcS rb
          let rc ← evRec a
          pure (rc, n)) (rc, i) es →
        let l := stripLoad rc (me s).rank i.toNat
        (∀ x ∈ l, x.len ≠ 0 → x.va % x.len = 0) → (∃ x ∈ l, x.done = false) → loadV (.vldx g o sco (.v r) ra rb) sp l r) ∧
      (∀ (d : VOp) (v : Vec), Reads s false (do
          let v ← srcV d
          let a ← srcS ra
          let n ← srcS rb
          let rc ← evRec a
          pure (v, rc, n)) (v, rc, i) es →
        let l := stripStore rc (me s).rank i.toNat v
        (∀ x ∈ l, x.len ≠ 0 → x.va % x.len = 0) → (∃ x ∈ l, x.done = false) → store (.vstx g o sco d ra rb) sp l)) ∧
    (∀ (w64 : Bool) (op : AmoOp) (r : BitVec 5) (ra rb : SOp) (a b e : Word),
      let len := if w64 then 8 else 4
      a.toNat % len = 0 →
      (Reads s false (opsDAB (.s r) ra (.reg rb)) (a, b) es →
        loadS (.amo g op sp w64 o sco (.s r) ra rb) (.amo op) [wholeAcc a.toNat len 0 b.toNat] r len false) ∧
      (Reads s false (do let e ← srcS (.s r); let a ← srcS ra; let b ← srcS rb; pure (e, a, b)) (e, a, b) es →
        loadS (.cas g sp w64 o sco (.s r) ra rb) (.cas e) [wholeAcc a.toNat len 0 b.toNat] r len false))

/-- R193: what a request does: the die's agent holds it, the thread waits under cause 6 at its bundle with every register as it was. A
waiting bundle whose waits have all ended completes in the thread's next slot (R123), and a load that waited for its reply writes the
bytes that came. -/
def Obligations.RequestsAndWaits : Prop :=
  ∀ (s : State),
    (∀ (k : Nat) (r : Req) (ws : List Wait5) (es : List Eff), s.cur.slot < 8 →
      let t := posts s k r ws es
      (getDie t s.cur.die).reqs = (getDie s s.cur.die).reqs ++ [r] ∧ t.nextId = s.nextId + k ∧ (me t).run = .parked ∧
      (me t).pc = (me s).pc ∧ (me t).inflight = some ⟨.key 6 r.id :: ws, es, []⟩ ∧ (me t).park = none ∧
      keepsScalars (me s) (me t) [] ∧ keepsVectors (me s) (me t) [] ∧ keepsPredicates (me s) (me t) [] ∧ keepsCsrs (me s) (me t) ∧
      (∀ c, (getCore t c).tcm = (getCore s c).tcm) ∧ t.clusters = s.clusters ∧ t.domes = s.domes ∧ t.circuits = s.circuits) ∧
    (∀ (t : Tid) (f : Inflight), s.arg.t = t → (getThread s t).run = .parked → (getThread s t).failed = none →
      (getThread s t).inflight = some f → (∀ w ∈ f.waits, ∃ c k l, w = .key c k ∧ mapFind f.got k = some l) →
      (∀ e ∈ f.eff6, ∀ a k x, e ≠ .launch a k x) →
      exec .parkWake s = .next (finishBundle (endPark s t) t f.got f.eff6)) ∧
    (∀ (f : Inflight) (r k n : Nat) (sx : Bool) (pc : Word) (l : List Byte), s.arg.t = s.cur → Quiet s → (me s).run = .parked →
      (me s).failed = none → (me s).inflight = some f → (∀ w ∈ f.waits, ∃ c j l, w = .key c j ∧ mapFind f.got j = some l) → f.eff6 = [.sregOf r k n sx pc] → mapFind f.got k = some (some l) →
      l.length = n → 1 ≤ n → n ≤ 8 → 1 ≤ r → r < 32 → streamS (me s) r = none → bitAt (me s).trcen 3 = false →
      CompletesWith (exec .parkWake s) fun t => goesOnAt (me t) ((me s).pc + 16) ∧ getFeS (me t) r = .full ∧
        keepsScalars (me s) (me t) [r] ∧ (∀ j (h : j < l.length), (getS (me t) r).extractLsb' (8 * j) 8 = l[j]) ∧
        ∀ i, 8 * n ≤ i → i < 64 → (getS (me t) r).getLsbD i = (sx && (getS (me t) r).getLsbD (8 * n - 1)))

/-- R116, R132, R289 to R292, R294, R307: fences that find nothing outstanding, and one that does; seals, unseals and publishes as
requests; phases set and awaited; segments unloaded and fetched. -/
def Obligations.FencesRangesPhasesSegments : Prop :=
  ∀ (s : State) (g : Guard) (es : List Eff), Enabled s g → s.cur.slot < 8 →
    let id := s.nextId
    (∀ k sco, (sco = .th ∨ ((∀ r ∈ (getDie s s.cur.die).reqs, r.tid ≠ s.cur ∧ (isWrite r.kind = true → isAccepted r = false)) ∧
        (k = .eng → myTransfers s s.cur = []))) → exec (.fence g k sco) s = .next (completes s [])) ∧
    (∀ sco, sco ≠ .th → (∃ r ∈ (getDie s s.cur.die).reqs, r.tid = s.cur ∧ r.who = .thread ∧ isRead r.kind = true) →
      CompletesWith (exec (.fence g .ld sco) s) fun t => (me t).run = .parked ∧ (me t).pc = (me s).pc ∧
        ∃ ids, (me t).inflight = some ⟨[.requests 15 ids], [], []⟩ ∧
          ∀ r ∈ (getDie s s.cur.die).reqs, (r.id ∈ ids ↔
            ∃ q ∈ (getDie s s.cur.die).reqs, q.id = r.id ∧ q.tid = s.cur ∧ q.who = .thread ∧ isRead q.kind = true)) ∧
    (∀ (sp : Space) (ra rb : SOp) (a n : Word), a.toNat % 4096 = 0 → n.toNat % 4096 = 0 → n ≠ 0 →
      (Reads s false (opsAB ra rb) (a, n) es → exec (.seal g sp ra rb) s = .next (posts s 2
        (request s (id + 1) sp .seal [wholeAcc a.toNat n.toNat 0 0] .plain .th (.bundle id)) [.key 15 id] es)) ∧
      (∀ r : BitVec 5, r ≠ 0 → streamS (me s) r.toNat = none → Reads s false (opsDAB (.s r) ra (.reg rb)) (a, n) es →
        exec (.unseal g sp (.s r) ra rb) s = .next (posts s 1
          (request s id sp .unseal [wholeAcc a.toNat n.toNat 0 0] .plain .th (.sreg r.toNat false)) [] (es ++ [.sPend r.toNat])))) ∧
    (∀ (ra rb : SOp) (a n : Word), Reads s false (opsAB ra rb) (a, n) es → ¬(a.toNat % 4096 = 0 ∧ n.toNat % 4096 = 0 ∧ n ≠ 0) →
      ∀ sp, exec (.seal g sp ra rb) s = .next (takeTrap s s.cur 4 a false 0 false)) ∧
    (∀ (ra : SOp) (a : Word), Reads s false (srcS ra) a es →
      exec (.publish g .g ra) s = .next (posts s 2
        (request s (id + 1) .g .publish [wholeAcc a.toNat 0 0 0] .plain .th (.bundle id)) [.key 15 id] es) ∧
      exec (.publish g .d ra) s = .next (takeTrap s s.cur 6 a false 0 false)) ∧
    (∀ (ra : SOp) (k : Word), Reads s false (srcS ra) k es →
      let top := max (me s).phase.toNat (heldCount s s.cur.die s.cur.die (me s).ctx)
      (k ≠ 0 → k.toNat < 2 ^ 32 → top < k.toNat → exec (.setph g ra) s = .next (completes s (es ++ [.setph k.toNat])) ∧
        (Quiet s → AllPops es → (me (completes s (es ++ [.setph k.toNat]))).phase = k)) ∧
      (¬(k ≠ 0 ∧ k.toNat < 2 ^ 32 ∧ top < k.toNat) → exec (.setph g ra) s = .next (takeTrap s s.cur 6 k false 0 false))) ∧
    (∀ (ra rb : SOp) (w k : Word), Reads s false (opsAB ra rb) (w, k) es →
      (phaseDie s (me s).ctx w = none → exec (.waitph g ra rb) s = .next (takeTrap s s.cur 6 w false 0 false)) ∧
      (∀ d, phaseDie s (me s).ctx w = some d →
        (2 ^ 32 ≤ k.toNat → exec (.waitph g ra rb) s = .next (takeTrap s s.cur 6 k false 0 false)) ∧
        (k.toNat < 2 ^ 32 → k.toNat ≤ heldCount s s.cur.die d (me s).ctx → exec (.waitph g ra rb) s = .next (completes s es)) ∧
        (k.toNat < 2 ^ 32 → heldCount s s.cur.die d (me s).ctx < k.toNat → CompletesWith (exec (.waitph g ra rb) s) fun t =>
          (me t).run = .parked ∧ (me t).park = some ⟨11, w, .phase d k.toNat, false, 0, false⟩ ∧ (me t).pc = (me s).pc))) ∧
    (∀ (sp : Space) (ra : SOp) (a : Word) (seg : BitVec 12), Reads s false (srcS ra) a es →
      (a = 0 → exec (.cfetch g sp ra seg) s = .next (completes s (es ++ [.unload seg.toNat])) ∧
        (Quiet s → AllPops es → ∀ n, findSeg (getCore (completes s (es ++ [.unload seg.toNat])) (tidKey s.cur)) n =
          if n = seg.toNat then none else findSeg (getCore s (tidKey s.cur)) n)) ∧
      (a ≠ 0 → a.toNat % 64 = 0 → exec (.cfetch g sp ra seg) s = .next (posts s 2
        (request s (id + 1) sp .fetch [wholeAcc a.toNat 64 0 0] .plain .th (.bundle id)) [.key 6 id]
        (es ++ [.land seg.toNat id a.toNat sp]))) ∧
      (a.toNat % 64 ≠ 0 → exec (.cfetch g sp ra seg) s = .next (takeTrap s s.cur 4 a false 0 false)))

/-! ## Vectors -/

/-- R170 to R174: the element-wise instructions over integer elements; `vand` to `vandn` over the patterns of any type. -/
def Obligations.IntegerVectors : Prop :=
  ∀ (s : State) (g : Guard) (ty : Ty) (rm : Rm) (sat : Bool) (vd va vc : VOp) (b : VSrcB) (old x y z : Vec) (es : List Eff),
    let w := tyWidth ty
    let X (k : Nat) := vElem w x k
    let Y (k : Nat) := vElem w y k
    let I (k : Nat) := intValue ty (X k)
    let J (k : Nat) := intValue ty (Y k)
    EnabledV s g w →
    (tyW ty = true → Reads s true (opsV2 g vd va w 0 (512 / w) (srcVB ty false b)) (old, x, y) es →
      VectorResult (exec (.vadd g ty rm sat vd va b) s) s g vd w es old (fun k => narrow ty sat (I k + J k)) ∧
      VectorResult (exec (.vsub g ty rm sat vd va b) s) s g vd w es old (fun k => narrow ty sat (I k - J k)) ∧
      VectorResult (exec (.vmul g ty rm sat vd va b) s) s g vd w es old (fun k => narrow ty sat (I k * J k)) ∧
      VectorResult (exec (.vmulh g ty vd va b) s) s g vd w es old (fun k => (I k * J k / 2 ^ w % 2 ^ w).toNat) ∧
      VectorResult (exec (.vmin g ty vd va b) s) s g vd w es old (fun k => if I k ≤ J k then X k else Y k) ∧
      VectorResult (exec (.vmax g ty vd va b) s) s g vd w es old (fun k => if I k ≤ J k then Y k else X k) ∧
      VectorResult (exec (.vsll g ty vd va b) s) s g vd w es old (fun k => X k * 2 ^ Y k) ∧
      VectorResult (exec (.vsrl g ty vd va b) s) s g vd w es old (fun k => X k / 2 ^ Y k) ∧
      VectorResult (exec (.vsra g ty vd va b) s) s g vd w es old (fun k => ((BitVec.ofNat w (X k)).sshiftRight (Y k)).toNat)) ∧
    (tyW ty = true → Reads s true (opsV3 g vd va w (srcVB ty false b) (srcV vc)) (old, x, y, z) es →
      VectorResult (exec (.vfma g ty rm sat vd va b vc) s) s g vd w es old (fun k => narrow ty sat (I k * J k + intValue ty (vElem w z k))) ∧
      VectorResult (exec (.vfms g ty rm sat vd va b vc) s) s g vd w es old (fun k => narrow ty sat (I k * J k - intValue ty (vElem w z k))) ∧
      VectorResult (exec (.vfnma g ty rm sat vd va b vc) s) s g vd w es old
        (fun k => narrow ty sat (-(I k * J k) + intValue ty (vElem w z k)))) ∧
    (tyW ty = true → Reads s true (opsV1 g vd va w 0 (512 / w)) (old, x) es →
      VectorResult (exec (.vabs g ty sat vd va) s) s g vd w es old (fun k => narrow ty sat |I k|) ∧
      VectorResult (exec (.vneg g ty sat vd va) s) s g vd w es old (fun k => narrow ty sat (-(I k))) ∧
      VectorResult (exec (.vclz g ty vd va) s) s g vd w es old (fun k => w - Nat.size (X k)) ∧
      VectorResult (exec (.vpopc g ty vd va) s) s g vd w es old (fun k => ∑ i ∈ Finset.range w, ((X k).testBit i).toNat)) ∧
    (Reads s true (opsV2 g vd va w 0 (512 / w) (srcVB ty true b)) (old, x, y) es →
      VectorResult (exec (.vand g ty vd va b) s) s g vd w es old (fun k => X k &&& Y k) ∧
      VectorResult (exec (.vor g ty vd va b) s) s g vd w es old (fun k => X k ||| Y k) ∧
      VectorResult (exec (.vxor g ty vd va b) s) s g vd w es old (fun k => X k ^^^ Y k) ∧
      VectorResult (exec (.vandn g ty vd va b) s) s g vd w es old (fun k => X k &&& (2 ^ w - 1 - Y k)))

/-- R168, R170, R171, R175: the element-wise instructions over FP32, FP16 and BF16: each enabled element is the exact value of its
operands, or the value of its function, rounded once under the mode, with SR index k; `vmin`, `vmax`, `vabs`, `vneg` and `vclass` are told
by the patterns. -/
def Obligations.FloatVectors : Prop :=
  ∀ (s : State) (g : Guard) (ty : Ty) (rm : Rm) (sat : Bool) (vd va vc : VOp) (b : VSrcB) (old x y z : Vec) (es : List Eff),
    let w := tyWidth ty
    let X (k : Nat) := vElem w x k
    let Y (k : Nat) := vElem w y k
    let A (k : Nat) := valueOf ty (X k)
    let B (k : Nat) := valueOf ty (Y k)
    let C (k : Nat) := valueOf ty (vElem w z k)
    let mode : RMode := match rm with
      | .rne => .rne
      | .rtz => .rtz
      | .rdn => .rdn
      | .rup => .rup
      | .sr => .sr
      | .dyn => if (me s).round = 1 then .rtz else if (me s).round = 2 then .rdn else if (me s).round = 3 then .rup
        else if (me s).round = 4 then .sr else .rne
    let rounded (f : Nat → FV) (k : Nat) : Nat := roundTo ty mode sat (srDraw (me s).srkey k) (f k)
    tyF ty = true → EnabledV s g w →
    (Reads s true (opsV2 g vd va w 0 (512 / w) (srcVB ty false b)) (old, x, y) es →
      VectorResult (exec (.vadd g ty rm sat vd va b) s) s g vd w es old (rounded fun k => fAdd mode (A k) (B k)) ∧
      VectorResult (exec (.vsub g ty rm sat vd va b) s) s g vd w es old (rounded fun k => fAdd mode (A k) (fNeg (B k))) ∧
      VectorResult (exec (.vmul g ty rm sat vd va b) s) s g vd w es old (rounded fun k => fMul (A k) (B k)) ∧
      VectorResult (exec (.vdiv g ty rm sat vd va b) s) s g vd w es old (rounded fun k => fDiv (A k) (B k)) ∧
      VectorResult (exec (.vmin g ty vd va b) s) s g vd w es old (fun k =>
        if isNanPat ty (X k) || isNanPat ty (Y k) then canonicalNan ty else if fltKey0 ty (X k) ≤ fltKey0 ty (Y k) then X k else Y k) ∧
      VectorResult (exec (.vmax g ty vd va b) s) s g vd w es old (fun k =>
        if isNanPat ty (X k) || isNanPat ty (Y k) then canonicalNan ty else if fltKey0 ty (X k) ≤ fltKey0 ty (Y k) then Y k else X k)) ∧
    (Reads s true (opsV3 g vd va w (srcVB ty false b) (srcV vc)) (old, x, y, z) es →
      VectorResult (exec (.vfma g ty rm sat vd va b vc) s) s g vd w es old (rounded fun k => fAdd mode (fMul (A k) (B k)) (C k)) ∧
      VectorResult (exec (.vfms g ty rm sat vd va b vc) s) s g vd w es old (rounded fun k => fAdd mode (fMul (A k) (B k)) (fNeg (C k))) ∧
      VectorResult (exec (.vfnma g ty rm sat vd va b vc) s) s g vd w es old
        (rounded fun k => fAdd mode (fMul (fNeg (A k)) (B k)) (C k))) ∧
    (Reads s true (opsV1 g vd va w 0 (512 / w)) (old, x) es →
      VectorResult (exec (.vabs g ty sat vd va) s) s g vd w es old (fun k =>
        if isNanPat ty (X k) then canonicalNan ty else X k % 2 ^ (w - 1)) ∧
      VectorResult (exec (.vneg g ty sat vd va) s) s g vd w es old (fun k =>
        if isNanPat ty (X k) then canonicalNan ty else X k ^^^ 2 ^ (w - 1)) ∧
      VectorResult (exec (.vclass g ty vd va) s) s g vd w es old (fun k => classOf ty (X k)) ∧
      VectorResult (exec (.vsqrt g ty rm sat vd va) s) s g vd w es old (rounded fun k => fSqrt (A k)) ∧
      VectorResult (exec (.vrcp g ty rm sat vd va) s) s g vd w es old (rounded fun k => fDiv (.fin ⟨false, 1, 0, false⟩) (A k)) ∧
      VectorResult (exec (.vrsq g ty rm sat vd va) s) s g vd w es old (rounded fun k => fRsq (A k)) ∧
      VectorResult (exec (.vexp2 g ty rm sat vd va) s) s g vd w es old (rounded fun k => fExp2 (A k)) ∧
      VectorResult (exec (.vlog2 g ty rm sat vd va) s) s g vd w es old (rounded fun k => fLog2 (A k)) ∧
      (let t3 (k : Nat) := round32 (fAdd .rne (.fin ⟨false, 1, 0, false⟩) (round32 (fExp2 (round32
          (fMul (fNeg (A k)) (fltValue fmt32 0x3FB8AA3B))))));
        VectorResult (exec (.vsigm g ty rm sat vd va) s) s g vd w es old (rounded fun k => fRcp (t3 k)) ∧
        VectorResult (exec (.vsilu g ty rm sat vd va) s) s g vd w es old (rounded fun k => fMul (A k) (round32 (fRcp (t3 k))))))

/-- R177: `vcmp` combines one condition per enabled element into the pair; a suppressed element keeps its bits, and the bits from n up are
cleared. -/
def Obligations.VectorCompare : Prop :=
  ∀ (s : State) (g : Guard) (pd pe : BitVec 3) (m : PMode) (c : Cond) (ty : Ty) (va : VOp) (b : VSrcB) (x y : Vec) (es : List Eff),
    let w := tyWidth ty
    let X (k : Nat) := vElem w x k
    let Y (k : Nat) := vElem w y k
    (tyW ty = true ∧ c ≠ .un ∨ tyF ty = true ∧ c ∈ [.eq, .ne, .lt, .ge, .gt, .le, .un]) → EnabledV s g w →
    Reads s true (do let x ← srcV va; let y ← srcVB ty false b; pure (x, y)) (x, y) es →
    ∃ d e : Word, exec (.vcmp g pd pe m c ty va b) s = .next (completes s (es ++ [.preg pd.toNat d, .preg pe.toNat e])) ∧
      ∀ k < 64,
        let old := (getP (me s) pd.toNat).getLsbD k
        let old' := (getP (me s) pe.toNat).getLsbD k
        let hit := if tyF ty then fltHoldsFor ty c (X k) (Y k) else intHoldsFor ty c (X k) (Y k)
        (512 / w ≤ k → d.getLsbD k = false ∧ e.getLsbD k = false) ∧
        (k < 512 / w → guardBit g (me s) k = false → d.getLsbD k = old ∧ e.getLsbD k = old') ∧
        (k < 512 / w → guardBit g (me s) k = true → (d.getLsbD k, e.getLsbD k) = pairBits m old old' hit)

/-- R176, R178 to R183: moves between elements. -/
def Obligations.VectorMoves : Prop :=
  ∀ (s : State) (g : Guard) (ty : Ty) (hi : Bool) (vd va vb : VOp) (r : SOp) (i : BitVec 8) (old x y : Vec) (a : Word) (es : List Eff),
    let w := tyWidth ty
    let n := 512 / w
    let u (j : Nat) : Nat := if j < n then vElem w x j else vElem w y (j - n)
    let h : Nat := if hi then 1 else 0
    (EnabledV s g 32 → Reads s true (opsV1 g vd va 32 0 16) (old, x) es →
      VectorResult (exec (.vmov g vd va) s) s g vd 32 es old (vElem 32 x)) ∧
    (EnabledV s g w → Reads s true (do let old ← examPart g vd w 0 n; let a ← srcS r; pure (old, a)) (old, a) es →
      VectorResult (exec (.vbc g ty vd r) s) s g vd w es old fun _ => a.toNat) ∧
    (s.pair = .alone → elemGuard g (me s) w i.toNat = true →
      (Reads s true (do examS r; srcV va) x es →
        exec (.vext g ty r va i) s = .next (completes s (es ++ [toS r
          (if tySigned ty = true ∨ ty = .mxi8 then (BitVec.ofNat w (vElem w x i.toNat)).signExtend 64
           else BitVec.ofNat 64 (vElem w x i.toNat))]))) ∧
      (Reads s true (do let old ← examV vd false; let a ← srcS r; pure (old, a)) (old, a) es →
        ∃ mask v, exec (.vins g ty vd r i) s = .next (completes s (es ++ [toV vd w mask v])) ∧
          ∀ k < n, vElem w v k = if k = i.toNat then a.toNat % 2 ^ w else vElem w old k)) ∧
    (EnabledV s g w → Reads s true (opsV2 g vd va w 0 n (srcV vb)) (old, x, y) es →
      VectorResult (exec (.vperm g ty vd va vb) s) s g vd w es old (fun k => vElem w x (vElem w y k % n)) ∧
      VectorResult (exec (.vrot g ty vd va (.reg vb)) s) s g vd w es old (fun k => vElem w x ((k + y.toNat % 2 ^ 64) % n)) ∧
      VectorResult (exec (.vzip g ty hi vd va vb) s) s g vd w es old
        (fun k => if k % 2 = 0 then vElem w x (k / 2 + h * (n / 2)) else vElem w y (k / 2 + h * (n / 2))) ∧
      VectorResult (exec (.vuzp g ty hi vd va vb) s) s g vd w es old (fun k => u (2 * k + h))) ∧
    (EnabledV s g w → Reads s true (opsV1 g vd va w 0 n) (old, x) es →
      VectorResult (exec (.vrot g ty vd va (.imm i)) s) s g vd w es old (fun k => vElem w x ((k + i.toNat) % n)))

/-- R184 to R186, R190: conversions into one part of the destination, E8M0 scaling both ways, dot products, and the generator. -/
def Obligations.VectorConversions : Prop :=
  ∀ (s : State) (g : Guard) (ty tys : Ty) (rm : Rm) (sat : Bool) (vd va vb : VOp) (q st : BitVec 8) (r : SOp) (old x y : Vec) (a : Word)
    (es : List Eff),
    let wd := tyWidth ty
    let ws := tyWidth tys
    let mode := resolveRm (me s) rm
    let draw := srDraw (me s).srkey
    let n := 512 / max wd ws
    let d0 := if wd ≤ ws then q.toNat * n else 0
    let s0 := if wd ≤ ws then 0 else q.toNat * n
    (EnabledV s g wd → Reads s true (opsV1 g vd va wd d0 n) (old, x) es →
      VectorPart (exec (.vcvt g ty tys rm sat vd va q) s) s g vd wd d0 n es old
        (fun k => convert tys ty mode sat (draw k) (vElem ws x (s0 + (k - d0))))) ∧
    (tyF ty = true → tyM tys = true → EnabledV s g wd → Reads s true (opsV2 g vd va wd 0 (512 / wd) (srcV vb)) (old, x, y) es →
      VectorResult (exec (.vscl g ty tys rm sat vd va vb q) s) s g vd wd es old fun j =>
        let i := q.toNat * (512 / wd) + j
        roundTo ty mode sat (draw j) (scaled (valueOf tys (vElem ws x i)) (vElem 8 y (i / 32)))) ∧
    (tyM ty = true → tyF tys = true → EnabledV s g wd →
      Reads s true (opsV2 g vd va wd (q.toNat * (512 / ws)) (512 / ws) (srcV vb)) (old, x, y) es →
      VectorPart (exec (.vscl g ty tys rm sat vd va vb q) s) s g vd wd (q.toNat * (512 / ws)) (512 / ws) es old fun i =>
        let sc := vElem 8 y (i / 32)
        match valueOf tys (vElem ws x (i - q.toNat * (512 / ws))) with
        | .fin v => if sc = 255 then 0 else roundTo ty mode true (draw i) (.fin { v with e := v.e - ((sc : Int) - 127) })
        | _ => 0) ∧
    (EnabledV s g 32 → Reads s true (do let old ← examV vd false; let x ← srcV va; let y ← srcV vb; pure (old, x, y)) (old, x, y) es →
      let p := 32 / ws
      (ty = .f32 → VectorResult (exec (.vdot g ty tys rm vd va vb) s) s g vd 32 es old fun j =>
        roundTo .f32 mode false (draw j) (fAdd mode (valueOf .f32 (vElem 32 old j)) (groupExact mode
          ((List.range p).map fun i => fMul (valueOf tys (vElem ws x (p * j + i))) (valueOf tys (vElem ws y (p * j + i))))))) ∧
      (ty = .i32 → VectorResult (exec (.vdot g ty tys rm vd va vb) s) s g vd 32 es old fun j =>
        (((vElem 32 old j : Int) + ((List.range p).map fun i =>
          intValue tys (vElem ws x (p * j + i)) * intValue tys (vElem ws y (p * j + i))).sum) % 2 ^ 32).toNat)) ∧
    (EnabledV s g wd → Reads s true (do let old ← examPart g vd wd 0 (512 / wd); let a ← srcS r; pure (old, a)) (old, a) es →
      VectorResult (exec (.vrng g ty vd r st) s) s g vd wd es old fun k =>
        let blk : Vec := BitVec.ofNat 512 (∑ j ∈ Finset.range 8,
          (rngRounds 4 a ((me s).srkey + BitVec.ofNat 64 (8 * st.toNat + j + 1) * 0xD1B54A32D192ED03)).toNat * 2 ^ (64 * j))
        let e := vElem wd blk k
        if ty = .f32 then roundTo .f32 .rne false 0 (.fin ⟨false, e / 2 ^ 8, -24, false⟩)
        else if ty = .f16 then roundTo .f16 .rne false 0 (.fin ⟨false, e / 2 ^ 5, -11, false⟩)
        else if ty = .bf16 then roundTo .bf16 .rne false 0 (.fin ⟨false, e / 2 ^ 8, -8, false⟩)
        else e)

/-- R187 to R189: reductions write element 0 and zero every other bit, over the enabled source elements; a scan combines its enabled items
in ascending order, and an operator that is unassigned or not of the type traps. -/
def Obligations.ReductionsAndScans : Prop :=
  ∀ (s : State) (g : Guard) (ty : Ty) (rm : Rm) (sat : Bool) (vd va : VOp) (r : SOp) (old x : Vec) (d : Word) (es : List Eff),
    let w := tyWidth ty
    let n := 512 / w
    let X (k : Nat) := vElem w x k
    let on (k : Nat) : Bool := elemGuard g (me s) w k
    let all : Word := BitVec.allOnes 64
    EnabledV s g w →
    (Reads s true (do let _ ← examV vd true; srcV va) x es →
      (tyW ty = true →
        exec (.vredadd g ty rm sat vd va) s = .next (completes s (es ++ [toV vd w all (BitVec.ofNat 512
          (narrow ty sat (((List.range n).map fun k => if on k then intValue ty (X k) else 0).sum)))])) ∧
        (∃ v, exec (.vredmax g ty vd va) s = .next (completes s (es ++ [toV vd w all (BitVec.ofNat 512 v)])) ∧ v < 2 ^ w ∧
          (∀ k < n, on k = true → intValue ty (X k) ≤ intValue ty v) ∧
          ((∃ k < n, on k = true ∧ v = X k) ∨ intValue ty v = intMin ty)) ∧
        (∃ v, exec (.vredmin g ty vd va) s = .next (completes s (es ++ [toV vd w all (BitVec.ofNat 512 v)])) ∧ v < 2 ^ w ∧
          (∀ k < n, on k = true → intValue ty v ≤ intValue ty (X k)) ∧
          ((∃ k < n, on k = true ∧ v = X k) ∨ intValue ty v = intMax ty))) ∧
      (tyF ty = true →
        let sum := reduceTree (fun a b => round32 (fAdd .rne a b)) (n.log2 - 1)
          ((List.range n).map fun k => if on k then valueOf ty (X k) else valueOf ty (2 ^ (w - 1)))
        let inf (neg : Bool) := infPat ((fmtOf ty).getD fmt32) neg
        let top := reduceTree (maxElem ty) n.log2 ((List.range n).map fun k => if on k then X k else inf true)
        let low := reduceTree (minElem ty) n.log2 ((List.range n).map fun k => if on k then X k else inf false)
        (∃ a b v, sum = [a, b] ∧ v = roundTo ty (resolveRm (me s) rm) false (srDraw (me s).srkey 0) (fAdd (resolveRm (me s) rm) a b) ∧
          exec (.vredadd g ty rm sat vd va) s = .next (completes s (es ++ [toV vd w all (BitVec.ofNat 512 v)]))) ∧
        (∃ v, top = [v] ∧ exec (.vredmax g ty vd va) s = .next (completes s (es ++ [toV vd w all (BitVec.ofNat 512 v)]))) ∧
        (∃ v, low = [v] ∧ exec (.vredmin g ty vd va) s = .next (completes s (es ++ [toV vd w all (BitVec.ofNat 512 v)]))))) ∧
    (Reads s true (do
        let i ← scanItem va r
        let old ← examItems g vd w i
        let x ← srcV va
        let d ← srcS r
        pure (old, x, d)) (old, x, d) es →
      let opr := bitsAt d 0 4
      let gp := if opr = 7 ∨ opr = 8 then 2 else 1
      let item (i : Nat) := (X (gp * i), X (gp * i + gp - 1))
      let upTo (i : Nat) : Option (Nat × Nat) := scanOver ty opr (((List.range i).filter fun j => on (gp * j)).map item)
      (opr ≤ 8 → ¬(ty = .f32 ∧ (opr = 4 ∨ opr = 5 ∨ opr = 6)) →
        ∃ mask v, exec (.vscan g ty vd va r) s = .next (completes s (es ++ [toV vd w mask v])) ∧
          ∀ i < n / gp,
            let res := if bitAt d 4 then (upTo i).getD (scanIdent ty opr) else (upTo (i + 1)).getD (0, 0)
            (on (gp * i) = true → vElem w v (gp * i) = res.1 % 2 ^ w ∧ (gp = 2 → vElem w v (gp * i + 1) = res.2 % 2 ^ w)) ∧
            (on (gp * i) = false → ∀ j < gp, vElem w v (gp * i + j) = vElem w old (gp * i + j))) ∧
      (8 < opr ∨ (ty = .f32 ∧ (opr = 4 ∨ opr = 5 ∨ opr = 6)) →
        exec (.vscan g ty vd va r) s = .next (takeTrap s s.cur 11 (word (tyCode ty + 256 * opr)) true (firstElem g (me s) w) false)))

/-! ## The matrix unit -/

/-- R227, R231, R232, R235 to R238: `mldb`, `mma` and `vacczr` join the queue of the multiplier once their checks pass; `mldb` takes the
banks of its set and unloads every tile that shares one; an `mma` of no rows does nothing; a tile that another slot owns is an
access-fault, found before the record is read. R243 to R245: `mcmd` sends its command block with the capability and the sender's `tid` as
one beat of a send port and waits for the reply under cause 6; its block and port are checked first. -/
def Obligations.MatrixCommandsIssue : Prop :=
    (∀ (s : State) (g : Guard) (bm : BitVec 4) (T : TileSel) (sa : SOp) (a : Word) (es : List Eff), Enabled s g → Quiet s → AllPops es →
      let c := getCore s (tidKey s.cur)
      let rank := (me s).rank
      let first : Prop := ∀ x ∈ c.mq, x.hold ≠ some s.cur.slot
      (∀ r, Reads s true (srcS sa) a es → mldbCheck c rank bm a = .ok r → GatePasses s true .plain → first →
        CompletesWith (exec (.mldb g bm sa) s) fun t => ∃ m, Admits s t .plain m ∧ m.kind = .mldb ∧ m.bm = bm ∧ m.rcd = r ∧
          m.k = recK r rank ∧ m.n = recRows r rank ∧
          ∀ j < 4, bankOf (getCore t (tidKey s.cur)) j =
            if bitAt bm j then ⟨true, bm, recK r rank, recRows r rank, rType r⟩
            else if (bankOf c j).set &&& bm ≠ 0 then { bankOf c j with loaded := false } else bankOf c j) ∧
      (∀ r b, Reads s true (srcS sa) a es → OwnsOrFree s T → mmaCheck c rank T bm a = .ok r → tileOfBanks c bm = some b →
        (recRows r rank = 0 → (∀ x ∈ c.gate, x.slot ≠ some s.cur.slot) → exec (.mma g T bm sa) s = .next (completes s es)) ∧
        (recRows r rank ≠ 0 → GatePasses s true .mma → first → CompletesWith (exec (.mma g T bm sa) s) fun t =>
          ∃ m, Admits s t .mma m ∧ m.kind = .mma ∧ m.t = T ∧ m.bm = bm ∧ m.rcd = r ∧ m.k = recK r rank ∧ m.n = b.n ∧
            m.m = recRows r rank ∧ m.ty = b.ty)) ∧
      (OwnsOrFree s T → GatePasses s true .plain → first → CompletesWith (exec (.vacczr g T) s) fun t =>
        ∃ m, Admits s t .plain m ∧ m.kind = .vacczr ∧ m.t = T) ∧
      (¬ OwnsOrFree s T → exec (.mma g T bm sa) s = .next (takeTrap s s.cur 6 (word (tileCode T)) true 0 false)) ∧
      (¬ OwnsOrFree s T → exec (.vacczr g T) s = .next (takeTrap s s.cur 6 (word (tileCode T)) true 0 false)) ∧
      (Reads s true (srcS sa) a es → bitsAt a 0 6 ≠ 0 → exec (.mldb g bm sa) s = .next (takeTrap s s.cur 4 a true 0 false))) ∧
    (∀ (s : State) (g : Guard) (r : BitVec 5) (ra rb : SOp) (n : BitVec 2) (a cap : Word) (es : List Eff), Enabled s g → Quiet s →
      Reads s false (opsDAB (.s r) ra (.reg rb)) (a, cap) es →
      let tcm := (getCore s (tidKey s.cur)).tcm
      (∀ k, liveCirc s (getTx (me s) n.toNat) = some k → a.toNat % 32 = 0 → a.toNat + 32 ≤ 0x80000 → cmdBlockOk tcm a.toNat = true →
        waitingBeats s k (.tx s.cur n.toNat) < 8 →
        CompletesWith (exec (.mcmd g (.s r) ra rb n) s) fun t =>
          (∃ b t0 h, (getCircuit t k).inj = (getCircuit s k).inj ++ [⟨b, .tx s.cur n.toNat, t0, h⟩] ∧
            (∀ j < 4, b.data.extractLsb' (64 * j) 64 = mWord tcm (a.toNat + 8 * j)) ∧ b.data.extractLsb' 256 64 = cap ∧
            b.data.extractLsb' 320 64 = tidWord s s.cur ∧ bitsAt b.env 0 4 = 5 ∧
            bitsAt b.env 24 16 = (me s).mcmdSeq.toNat % 2 ^ 16 ∧ bitsAt b.env 40 3 = s.cur.slot) ∧
          (me t).mcmdSeq = (me s).mcmdSeq + 1 ∧ (me t).run = .parked ∧ (me t).pc = (me s).pc ∧
          (me t).inflight = some ⟨[.key 6 s.nextId], es ++ [.sregOf r.toNat s.nextId 8 false (me s).pc], []⟩) ∧
      (liveCirc s (getTx (me s) n.toNat) = none →
        exec (.mcmd g (.s r) ra rb n) s = .next (takeTrap s s.cur 6 (word (32 + n.toNat)) false 0 false)) ∧
      (liveCirc s (getTx (me s) n.toNat) ≠ none → a.toNat % 32 ≠ 0 →
        exec (.mcmd g (.s r) ra rb n) s = .next (takeTrap s s.cur 4 a false 0 false)))

/-- R240 to R242: the accumulator moves, ownership of tiles, and the fence of the multiplier. -/
def Obligations.AccumulatorsAndOwnership : Prop :=
  ∀ (s : State) (g : Guard) (T : TileSel),
    let c := getCore s (tidKey s.cur)
    (∀ (sa : SOp) (gr : BitVec 8) (vd : VOp) (row : Word) (old : Vec) (es : List Eff), EnabledV s g 32 → OwnsOrFree s T →
      (∀ m ∈ c.mq, namesTile m T = false ∧ m.id ∉ (me s).tileWait.getD []) → row.toNat ≤ 127 →
      let i := if T = .a1 ∨ (T = .pair ∧ 8 ≤ gr.toNat) then 1 else 0
      let c0 := if T = .pair ∧ 8 ≤ gr.toNat then 16 * (gr.toNat - 8) else 16 * gr.toNat
      (Reads s true (do let old ← examPart g vd 32 0 16; let r ← srcS sa; pure (old, r)) (old, row) es →
        VectorResult (exec (.vaccrd g T sa vd gr) s) s g vd 32 es old fun j => accCell s i row.toNat (c0 + j)) ∧
      (∀ (vs : VOp) (v : Vec), Reads s true (do let r ← srcS sa; let v ← srcV vs; pure (r, v)) (row, v) es → Quiet s → AllPops es →
        gr.toNat < (if T = .pair then 16 else 8) →
        CompletesWith (exec (.vaccwr g T sa vs gr) s) fun t =>
          (∀ k m n, k < 2 → m < 128 → n < 128 → accCell t k m n =
            if k = i ∧ m = row.toNat ∧ c0 ≤ n ∧ n < c0 + 16 ∧ guardBit g (me s) (n - c0) = true then vElem 32 v (n - c0)
            else accCell s k m n) ∧
          goesOnAt (me t) ((me s).pc + 16) ∧ keepsScalars (me s) (me t) [] ∧ keepsVectors (me s) (me t) [] ∧
          (getCore t (tidKey s.cur)).tcm = c.tcm)) ∧
    (∀ (sa : SOp) (gr : BitVec 8) (vd : VOp) (row : Word) (old : Vec) (es : List Eff), EnabledV s g 32 → 127 < row.toNat →
      Reads s true (do let old ← examPart g vd 32 0 16; let r ← srcS sa; pure (old, r)) (old, row) es →
      exec (.vaccrd g T sa vd gr) s = .next (takeTrap s s.cur 6 row true (firstElem g (me s) 32) false)) ∧
    (Enabled s g → Quiet s →
      let free := OwnsOrFree s T ∧ ∀ i < 8, i ≠ s.cur.slot → ∀ f, (slotOf c i).inflight = some f → claimsTile f.eff6 T = false
      (free → CompletesWith (exec (.mclaim g T) s) fun t => goesOnAt (me t) ((me s).pc + 16) ∧
        ∀ i < 2, ownerOf (getCore t (tidKey s.cur)) i = if i ∈ tilesOf T then some s.cur.slot else ownerOf c i) ∧
      (¬ free → CompletesWith (exec (.mclaim g T) s) fun t => (me t).run = .parked ∧ (me t).pc = (me s).pc ∧
        (me t).park = some ⟨13, word (tileCode T), .tile T, false, 0, true⟩) ∧
      (CompletesWith (exec (.mrel g T) s) fun t => goesOnAt (me t) ((me s).pc + 16) ∧
        ∀ i < 2, ownerOf (getCore t (tidKey s.cur)) i =
          if i ∈ tilesOf T ∧ ownerOf c i = some s.cur.slot then none else ownerOf c i) ∧
      (c.mq = [] → exec (.mfence g) s = .next (completes s [])) ∧
      (c.mq ≠ [] → CompletesWith (exec (.mfence g) s) fun t => (me t).run = .parked ∧ (me t).pc = (me s).pc ∧
        (me t).inflight = some ⟨[.commands (c.mq.map (·.id))], [], []⟩))

/-! ## Ports, windows and streams -/

/-- R211, R212, R214, R216 to R218, R221, R223: fills and markers sent, registers emptied, ports, windows and streams bound and unbound.
-/
def Obligations.PortsWindowsStreams : Prop :=
  ∀ (s : State) (g : Guard) (ra rb : SOp) (n : BitVec 2) (es : List Eff), Enabled s g → Quiet s →
    let c := getCore s (tidKey s.cur)
    (∀ (x : XOp) (tgt : BitVec 6) (v : Vec), Reads s false (do examPort n.toNat (32 + n.toNat); srcX x) v es →
      ∃ b : Beat, exec (.rfill g x n tgt) s = .next (completes s (es ++ [.push n.toNat b])) ∧ b.data = v ∧ bitsAt b.env 0 4 = 2 ∧
        bitsAt b.env 24 6 = tgt.toNat ∧ bitAt b.env 30 = (match x with | .vec _ => true | .sc _ => false)) ∧
    (∀ v, Reads s false (do examPort n.toNat (32 + n.toNat); srcS ra) v es →
      exec (.mark g ra n) s = .next (completes s (es ++ [.push n.toNat ⟨v.setWidth 512, 1⟩]))) ∧
    (∀ r : BitVec 5, getFeS (me s) r.toNat ≠ .pending → CompletesWith (exec (.remp g (.sc (.s r))) s) fun t =>
      goesOnAt (me t) ((me s).pc + 16) ∧ keepsScalars (me s) (me t) [r.toNat] ∧ getS (me t) r.toNat = getS (me s) r.toNat ∧
      getFeS (me t) r.toNat = (if r = 0 ∨ streamS (me s) r.toNat ≠ none then getFeS (me s) r.toNat else .empty)) ∧
    (∀ r : BitVec 4, getFeV (me s) r.toNat ≠ .pending → CompletesWith (exec (.remp g (.vec (.v r))) s) fun t =>
      goesOnAt (me t) ((me s).pc + 16) ∧ keepsVectors (me s) (me t) [r.toNat] ∧
      getFeV (me t) r.toNat = (if streamV (me s) r.toNat ≠ none then getFeV (me s) r.toNat else .empty)) ∧
    (∀ h, Reads s false (srcS ra) h es → AllPops es → ∀ sel : BitVec 3, 4 ≤ sel.toNat →
      (∀ k, circFrom s s.cur (me s).ctx h = some k → getTx (me s) (sel.toNat % 4) = none →
        CompletesWith (exec (.bind g ra rb sel) s) fun t => goesOnAt (me t) ((me s).pc + 16) ∧
          ∀ j < 4, getTx (me t) j = if j = sel.toNat % 4 then some k else getTx (me s) j) ∧
      (circFrom s s.cur (me s).ctx h = none ∨ getTx (me s) (sel.toNat % 4) ≠ none →
        exec (.bind g ra rb sel) s = .next (takeTrap s s.cur 6 h false 0 false))) ∧
    (∀ h d, Reads s false (opsAB ra rb) (h, d) es → AllPops es → ∀ sel : BitVec 3, sel.toNat < 4 →
      (∀ k, circTo s s.cur (me s).ctx h = some k → (getRx (me s) sel.toNat).circ = none → rxBound c k = false → ringOk d = true →
        CompletesWith (exec (.bind g ra rb sel) s) fun t => goesOnAt (me t) ((me s).pc + 16) ∧
          getRx (me t) sel.toNat = ⟨some k, bitsAt d 0 19, bitsAt d 20 14, [], 0, 0, false, false⟩ ∧
          ∀ j, j ≠ sel.toNat → .pop j ∉ es → getRx (me t) j = getRx (me s) j) ∧
      (circTo s s.cur (me s).ctx h = none → exec (.bind g ra rb sel) s = .next (takeTrap s s.cur 6 h false 0 false)) ∧
      (∀ k, circTo s s.cur (me s).ctx h = some k → (getRx (me s) sel.toNat).circ = none → rxBound c k = false → ringOk d = false →
        exec (.bind g ra rb sel) s = .next (takeTrap s s.cur 6 d false 0 false))) ∧
    (∀ sel : BitVec 3,
      (sel.toNat < 4 → CompletesWith (exec (.unbind g sel) s) fun t => goesOnAt (me t) ((me s).pc + 16) ∧
        ∀ j < 4, getRx (me t) j = if j = sel.toNat then Rx.reset else getRx (me s) j) ∧
      (4 ≤ sel.toNat → (∀ k, liveCirc s (getTx (me s) (sel.toNat % 4)) = some k → waitingBeats s k (.tx s.cur (sel.toNat % 4)) = 0) →
        CompletesWith (exec (.unbind g sel) s) fun t => goesOnAt (me t) ((me s).pc + 16) ∧
          ∀ j < 4, getTx (me t) j = if j = sel.toNat % 4 then none else getTx (me s) j) ∧
      (4 ≤ sel.toNat → (∃ k, liveCirc s (getTx (me s) (sel.toNat % 4)) = some k ∧ waitingBeats s k (.tx s.cur (sel.toNat % 4)) ≠ 0) →
        CompletesWith (exec (.unbind g sel) s) fun t => (me t).run = .parked ∧ (me t).pc = (me s).pc ∧
          (me t).park = some ⟨4, word (32 + sel.toNat % 4), .outqEmpty (sel.toNat % 4), false, 0, false⟩)) ∧
    (∀ a, Reads s false (srcS ra) a es → AllPops es →
      (a = 0 → CompletesWith (exec (.winb g ra n) s) fun t => goesOnAt (me t) ((me s).pc + 16) ∧ getWin (me t) n.toNat = Win.reset) ∧
      (∀ k, a ≠ 0 → a.toNat % 32 = 0 → a.toNat ≤ 0x7FFE0 → circFrom s s.cur (me s).ctx (mWord c.tcm a.toNat) = some k →
        (∀ j < 4, getTx (me s) j ≠ some k) → windowOk c.tcm a.toNat = true →
        CompletesWith (exec (.winb g ra n) s) fun t => goesOnAt (me t) ((me s).pc + 16) ∧ getWin (me t) n.toNat =
          ⟨some k, bitsAt (mWord c.tcm (a.toNat + 8)) 0 19, bitsAt (mWord c.tcm (a.toNat + 16)) 0 14, 0,
            bitsAt (mWord c.tcm (a.toNat + 24)) 0 16, bitAt (mWord c.tcm (a.toNat + 24)) 16⟩) ∧
      (a.toNat % 32 ≠ 0 → exec (.winb g ra n) s = .next (takeTrap s s.cur 4 a false 0 false)) ∧
      (a.toNat % 32 = 0 → 0x7FFE0 < a.toNat → exec (.winb g ra n) s = .next (takeTrap s s.cur 6 a false 0 false))) ∧
    (∀ (r : BitVec 5) rec, 28 ≤ r.toNat → Reads s false (do examS (.s r); let a ← srcS ra; evRec a) rec es → AllPops es →
      CompletesWith (exec (.sbind g (.sc (.s r)) ra) s) fun t => goesOnAt (me t) ((me s).pc + 16) ∧
        getStream (me t) (r.toNat - 28) = ⟨true, rec, 0, [], false, (me s).pc, none⟩ ∧ getFeS (me t) r.toNat = .full ∧
        keepsScalars (me s) (me t) [r.toNat]) ∧
    (∀ (r : BitVec 4) rec, 12 ≤ r.toNat → Reads s false (do let _ ← examV (.v r) true; let a ← srcS ra; evRec a) rec es → AllPops es →
      CompletesWith (exec (.sbind g (.vec (.v r)) ra) s) fun t => goesOnAt (me t) ((me s).pc + 16) ∧
        getStream (me t) (r.toNat - 8) = ⟨true, rec, 0, [], false, (me s).pc, none⟩ ∧ getFeV (me t) r.toNat = .full ∧
        keepsVectors (me s) (me t) [r.toNat]) ∧
    (∀ r : BitVec 5, 28 ≤ r.toNat → getFeS (me s) r.toNat ≠ .pending →
      CompletesWith (exec (.sunbind g (.sc (.s r))) s) fun t => goesOnAt (me t) ((me s).pc + 16) ∧ streamS (me t) r.toNat = none ∧
        (streamS (me s) r.toNat ≠ none → getFeS (me t) r.toNat = .full ∧ getS (me t) r.toNat = 0) ∧
        (streamS (me s) r.toNat = none → keepsScalars (me s) (me t) [])) ∧
    (∀ r : BitVec 4, 12 ≤ r.toNat → getFeV (me s) r.toNat ≠ .pending →
      CompletesWith (exec (.sunbind g (.vec (.v r))) s) fun t => goesOnAt (me t) ((me s).pc + 16) ∧ streamV (me t) r.toNat = none ∧
        (streamV (me s) r.toNat ≠ none → getFeV (me t) r.toNat = .full ∧ getV (me t) r.toNat = 0) ∧
        (streamV (me s) r.toNat = none → keepsVectors (me s) (me t) []))

/-! ## The copy engine -/

/-- R252, R254, R255, R257, R258, R265: a checked copy or add-reduction joins its channel under the next identifier, which its destination
register takes; `twait` and `tstat` tell how far a channel is, and `twait` takes the fault of a transfer. -/
def Obligations.CopyEngine : Prop :=
  ∀ (s : State) (g : Guard) (ch : BitVec 3) (es : List Eff), Enabled s g → Quiet s → AllPops es →
    let cl := tidCluster s.cur
    let rank := (me s).rank
    let c := getCore s (tidKey s.cur)
    let chan := getChan s cl ch.toNat
    let sound (r : Rec) : Prop := misalignedElem r rank = none ∧ outsideElem r rank = none ∧ outsideScale r rank = none
    let queued (t : State) (r : BitVec 5) (op : XOpKind) (src : Rec) (dst : XDst) : Prop :=
      ∃ x : Transfer, (getChan t cl ch.toNat).q = chan.q ++ [x] ∧ (getChan t cl ch.toNat).last = chan.last + 1 ∧ x.id = chan.last + 1 ∧
        x.tid = s.cur ∧ x.op = op ∧ x.src = src ∧ x.dst = dst ∧ x.rank = rank ∧ x.phase = (me s).phase.toNat ∧ x.pos = 0 ∧
        x.begun = false ∧ goesOnAt (me t) ((me s).pc + 16) ∧ keepsScalars (me s) (me t) [r.toNat] ∧
        (r ≠ 0 → streamS (me s) r.toNat = none → getS (me t) r.toNat = word (chan.last + 1) ∧ getFeS (me t) r.toNat = .full) ∧
        bitAt (me t).used ch.toNat = true
    (∀ (r : BitVec 5) (ra rb : SOp) (d a : Word) (src dst : Rec), Reads s false (do
        examS (.s r)
        let d ← srcS ra
        let a ← srcS rb
        let src ← evRec a
        let dst ← evRec d
        pure (d, a, src, dst)) (d, a, src, dst) es →
      bitsAt d 62 2 = 0 → bitsAt a 62 2 = 0 → rConv dst = false → ¬(rConv src = true ∧ tyM (rTy src) = true) →
      elemCount dst rank = elemCount src rank → sound src → sound dst →
      (recTagen src = true → isFull c (tagAddr src) = true ∧ tagMatches c src = true) →
      chan.q.length < 16 →
      (xferBits (elemCount src rank) (rWidth dst) ≤ 8 * 65536 ∨ GatePasses s false .heavy) →
      CompletesWith (exec (.cpy g (.s r) ra rb ch) s) (fun t => queued t r .copy src (.rcd dst)) ∧
      (rType dst = 0 → rType src ≤ 13 → CompletesWith (exec (.cpyr g false (.s r) ra rb ch) s) fun t => queued t r .addF32 src (.rcd dst)) ∧
      (rType dst = 20 → 14 ≤ rType src → rType src ≤ 24 →
        CompletesWith (exec (.cpyr g true (.s r) ra rb ch) s) fun t => queued t r .addI32 src (.rcd dst))) ∧
    (∀ (r : BitVec 5) (ra rb : SOp) (d a : Word) (src : Rec) (vec : Bool) (i slot n : Nat), Reads s false (do
        examS (.s r)
        let d ← srcS ra
        let a ← srcS rb
        let src ← evRec a
        pure (d, a, src)) (d, a, src) es →
      targetOf d = .reg vec i slot n → bitsAt a 62 2 = 0 → ¬(rConv src = true ∧ tyM (rTy src) = true) → sound src →
      (if vec then n ≤ 15 ∧ xferBits (elemCount src rank) (rWidth src) = 512
        else 1 ≤ n ∧ n ≤ 31 ∧ xferBits (elemCount src rank) (rWidth src) = 64) →
      (recTagen src = true → isFull c (tagAddr src) = true ∧ tagMatches c src = true) → chan.q.length < 16 →
      CompletesWith (exec (.cpy g (.s r) ra rb ch) s) fun t =>
        queued t r .copy src (.reg vec (coreAt (clusterOf s.cur.core) i) slot n)) ∧
    (∀ (r : BitVec 5) (ra rb : SOp) (d a : Word) (src : Rec) (n k : Nat), Reads s false (do
        examS (.s r)
        let d ← srcS ra
        let a ← srcS rb
        let src ← evRec a
        pure (d, a, src)) (d, a, src) es →
      targetOf d = .win n → liveCirc s (getWin (me s) n).circ = some k → bitsAt a 62 2 = 0 →
      ¬(rConv src = true ∧ tyM (rTy src) = true) → sound src →
      (recTagen src = true → isFull c (tagAddr src) = true ∧ tagMatches c src = true) → chan.q.length < 16 →
      (xferBits (elemCount src rank) (rWidth src) ≤ 8 * 65536 ∨ GatePasses s false .heavy) →
      let w := getWin (me s) n
      CompletesWith (exec (.cpy g (.s r) ra rb ch) s) fun t =>
        queued t r .copy src (.win n k w.wbase w.wlen w.cursor w.tag w.tagen) ∧
        (getWin (me t) n).cursor = (w.cursor + ceilDiv (elemCount src rank) (512 / rWidth src)) % w.wlen) ∧
    (∀ (ra : SOp) (n : Word), Reads s false (srcS ra) n es →
      (chan.last < n.toNat → exec (.twait g ra ch) s = .next (takeTrap s s.cur 6 n false 0 false)) ∧
      (n.toNat ≤ chan.last → chan.done < n.toNat → CompletesWith (exec (.twait g ra ch) s) fun t => (me t).run = .parked ∧
        (me t).pc = (me s).pc ∧ (me t).park = some ⟨10, n, .engine ch.toNat n.toNat, false, 0, false⟩) ∧
      (n.toNat ≤ chan.last → n.toNat ≤ chan.done → (∀ f cause tval, chan.fault = some (f, cause, tval) → n.toNat < f) →
        exec (.twait g ra ch) s = .next (completes s es)) ∧
      (∀ f cause tval, n.toNat ≤ chan.last → n.toNat ≤ chan.done → chan.fault = some (f, cause, tval) → f ≤ n.toNat →
        exec (.twait g ra ch) s = .next (takeTrap (modChan s cl ch.toNat fun x => { x with fault := none, more := false }) s.cur cause tval
          false 0 false))) ∧
    (∀ x : SOp, Reads s false (opsD x) () es → ∃ v : Word, exec (.tstat g x ch) s = .next (completes s (es ++ [toS x v])) ∧
      bitsAt v 0 63 = chan.done % 2 ^ 63 ∧ bitAt v 63 = chan.fault.isSome)

/-! ## Tasks, gangs and the belfry -/

/-- R323 to R325, R358: `spawn` puts a task on a tower's queue, `lnch` and `cmreq` request their blocks, `trig` marks the thread once.
R104, R323: a waiting `lnch` whose block came sound creates the launch under the context's next handle, which its register takes. -/
def Obligations.TasksAndLaunches : Prop :=
    (∀ (s : State) (g : Guard) (r : BitVec 5) (ra rb : SOp) (es : List Eff), Enabled s g → Quiet s → AllPops es →
      let tcm := (getCore s (tidKey s.cur)).tcm
      let th := me s
      let id := s.nextId
      (∀ (hard : Bool) (a d : Word) (die : Nat), Reads s false (opsDAB (.s r) ra (.reg rb)) (a, d) es →
        (a.toNat % 32 ≠ 0 → exec (.spawn g hard (.s r) ra rb) s = .next (takeTrap s s.cur 4 a false 0 false)) ∧
        (let w3 := mWord tcm (a.toNat + 24);
          a.toNat % 32 = 0 → a.toNat ≤ 0x7FFE0 → bitsAt w3 7 57 = 0 → bitAt w3 3 = false → codeAddrOk (mWord tcm a.toNat) = true →
          d = word die → die < 160 → ctxTower s th.ctx die = true → queueRoom s th.ctx th.region die = true →
          CompletesWith (exec (.spawn g hard (.s r) ra rb) s) fun t => goesOnAt (me t) (th.pc + 16) ∧ keepsScalars th (me t) [r.toNat] ∧
            (getCtx t th.ctx).nextTask = (getCtx s th.ctx).nextTask + 1 ∧
            ∃ k : Task, (getDie t die).queue = (getDie s die).queue ++ [k] ∧ k.ctx = th.ctx ∧ k.region = th.region ∧ k.launch = th.launch ∧
              k.spawned = true ∧ k.hard = hard ∧ k.entry = mWord tcm a.toNat ∧ k.segaddr = mWord tcm (a.toNat + 8) ∧
              k.arg = mWord tcm (a.toNat + 16) ∧ k.thr = bitsAt w3 0 3 + 1 ∧ k.pri = bitsAt w3 4 3)) ∧
      (∀ a : Word, Reads s false (opsDA (.s r) ra) a es →
        (a.toNat % 64 = 0 →
          exec (.lnch g (.s r) ra) s = .next (posts s 2 (request s (id + 1) .g .load
            [wholeAcc a.toNat 64 0 0, wholeAcc (a.toNat + 64) 64 512 0] .plain .th (.bundle id)) [.key 6 id] (es ++ [.launch a id (.s r)])) ∧
          exec (.cmreq g (.s r) ra) s = .next (posts s 2 (request s (id + 1) .g .cm [wholeAcc a.toNat 64 0 0] .plain .th (.belfry id))
            [.key 6 id] (es ++ [.sregOf r.toNat id 8 false th.pc]))) ∧
        (a.toNat % 64 ≠ 0 → ∀ i ∈ [Instr.lnch g (.s r) ra, .cmreq g (.s r) ra], exec i s = .next (takeTrap s s.cur 4 a false 0 false))) ∧
      ((∀ q ∈ (getDie s s.cur.die).reqs, isWrite q.kind = true → q.tid ≠ s.cur ∧ isAccepted q = false) →
        CompletesWith (exec (.trig g) s) fun t => goesOnAt (me t) (th.pc + 16) ∧ (me t).triggered = true ∧ keepsScalars th (me t) [] ∧
          (th.triggered = true → t.ctxs = s.ctxs))) ∧
    (∀ (s : State) (a : Word) (k : Nat) (r : BitVec 5) (l : List Byte) (f : Inflight), s.arg.t = s.cur → Quiet s → (me s).run = .parked →
      (me s).failed = none → (me s).park = none → (me s).inflight = some f → (∀ w ∈ f.waits, ∃ c j x, w = .key c j ∧ mapFind f.got j = some x) →
      f.eff6 = [.launch a k (.s r)] → mapFind f.got k = some (some l) → r ≠ 0 → streamS (me s) r.toNat = none → bitAt (me s).trcen 3 = false →
      let ctx := (me s).ctx
      let c := getCtx s ctx
      (launchFault s ctx (me s).region (mode (me s) == 0) a (launchBlock l) = none →
        CompletesWith (exec .parkWake s) fun t => goesOnAt (me t) ((me s).pc + 16) ∧ getS (me t) r.toNat = word c.nextHandle ∧
          (getCtx t ctx).nextHandle = c.nextHandle + 1 ∧ ∃ x, mapFind (getCtx t ctx).launches c.nextHandle = some x ∧
            x.blk = launchBlock l ∧ x.stage = .waiting ∧ x.left = lTasks (launchBlock l)) ∧
      (∀ cause tval, launchFault s ctx (me s).region (mode (me s) == 0) a (launchBlock l) = some (cause, tval) →
        CompletesWith (exec .parkWake s) fun t => t.ctxs = s.ctxs ∧ keepsScalars (me s) (me t) []))

/-- R115, R116, R268, R269, R272, R273: gangs formed, left and rejoined; `ipi` and `sfence` in S and H, and their privilege trap in U. -/
def Obligations.GangsAndSystem : Prop :=
  ∀ (s : State) (g : Guard) (ra rb : SOp) (es : List Eff), Enabled s g → s.cur.slot < 8 →
    let th := me s
    (∀ k : BitVec 2,
      (th.gang = none → CompletesWith (exec (.gang g k) s) fun t => (me t).run = .parked ∧ (me t).pc = th.pc ∧
        (me t).park = some ⟨14, word k.toNat, .gangForm k.toNat, false, 0, false⟩) ∧
      (∀ x, th.gang = some x → ¬(x.forming = true ∧ x.k = k.toNat) →
        exec (.gang g k) s = .next (takeTrap s s.cur 6 (word k.toNat) false 0 false)) ∧
      (∀ x, th.gang = some x → x.forming = true → x.k = k.toNat → exec (.gang g k) s = .next (completes s [.gang k.toNat]))) ∧
    exec (.split g) s = .next (completes s [.split]) ∧
    (Quiet s → completes s [.split] = completes s []) ∧
    (∀ x, th.gang = some x → th.dbg.stopReq = none → th.dbg.stepping = false → CompletesWith (exec (.split g) s) fun t =>
      (me t).gang = none ∧ goesOnAt (me t) (th.pc + 16)) ∧
    ((th.gang = none ∨ ∃ x, th.gang = some x ∧ (x.attached = true ∨ gangLeader s.cur x.k = s.cur)) →
      exec (.join g) s = .next (completes s [])) ∧
    (∀ x, th.gang = some x → x.attached = false → gangLeader s.cur x.k ≠ s.cur → CompletesWith (exec (.join g) s) fun t =>
      (me t).run = .parked ∧ (me t).pc = th.pc ∧ (me t).park = some ⟨14, 0, .join, false, 0, false⟩) ∧
    (∀ (code : BitVec 8) (w : Word) (u : Tid), bitsAt th.status 0 2 ≠ 0 → Reads s false (srcS ra) w es →
      bitsAt w 24 40 = 0 → bitsAt w 18 6 = s.modNo → tidOf w = some u →
      ((bitsAt th.status 0 2 = 3 ∨ (hasThread (getThread s u) = true ∧ (getThread s u).ctx = th.ctx)) →
        exec (.ipi g ra code) s = .next (completes s (es ++ [.ipi w code])) ∧
        (Quiet s → AllPops es → (completes s (es ++ [.ipi w code])).ipis = s.ipis ++ [(s.cur, u, decide (bitsAt th.status 0 2 = 3), code)])) ∧
      (bitsAt th.status 0 2 ≠ 3 → (getThread s u).ctx ≠ th.ctx →
        exec (.ipi g ra code) s = .next (takeTrap s s.cur 6 w false 0 false))) ∧
    (bitsAt th.status 0 2 = 0 → ∀ (code : BitVec 8) i w, i ∈ [Instr.ipi g ra code, .sfence g ra rb] → encodeS i = some w →
      exec i s = .next (takeTrap s s.cur 3 w false 0 false)) ∧
    (∀ v w : Word, Reads s false (opsAB ra rb) (v, w) es →
      (∀ q ∈ (getDie s s.cur.die).reqs, q.tid ≠ s.cur ∧ (isWrite q.kind = true → isAccepted q = false)) →
      (bitsAt th.status 0 2 = 1 → (w = -1 ∨ w.toNat < 64) → Quiet s → AllPops es →
        CompletesWith (exec (.sfence g ra rb) s) fun t => goesOnAt (me t) (th.pc + 16) ∧ keepsScalars th (me t) [] ∧
          ∀ d, (getDie t d).tlb = (getDie s d).tlb.filter fun e =>
            !(e.ctx == th.ctx && (w == -1 || e.region == w.toNat) && !e.hyper && (v == 0 || (e.gbase ≤ v.toNat && v.toNat < e.gbase + e.gsize)))) ∧
      (bitsAt th.status 0 2 = 1 → w ≠ -1 → 64 ≤ w.toNat → exec (.sfence g ra rb) s = .next (takeTrap s s.cur 6 w false 0 false)))

/-! ## The spire network -/

/-- R376, R377, R382, R383, R387, R388: a checked join, leave or contribution of a member enters its channel, and all but a leave wait
under cause 12; the contribution that completes an instance ends it with a result for each member; a channel of another launch is kind 1
of spire-fault. R353, R376, R385, R388, R389: a group forms when its last join has crossed the network, its members in order of position;
results and faults reach their threads when they are due, and a group whose instance fails dissolves. -/
def Obligations.SpireInstructions : Prop :=
    (∀ (s : State) (g : Guard) (ch : BitVec 5) (es : List Eff), Enabled s g → s.cur.slot < 8 →
      let c := getSpire s ch.toNat
      let pos := 64 * s.cur.die + s.cur.core
      let id := s.nextId
      let mine (m : SpireMember) : Prop := m.pos = pos ∧ m.gone = none
      let waits (t : State) (fs : List Eff) : Prop := (me t).run = .parked ∧ (me t).pc = (me s).pc ∧
        (me t).inflight = some ⟨[.key 12 id], fs, []⟩ ∧ keepsScalars (me s) (me t) [] ∧ keepsVectors (me s) (me t) []
      let enters (t : State) (op : Nat) (d : Word) (v : Vec) : Prop := ∃ e : Nat, ∀ (i : Nat) (m : SpireMember), c.members[i]? = some m →
        ∃ m', (getSpire t ch.toNat).members[i]? = some m' ∧
          (mine m → m' = { m with contribs := [⟨s.cur, op, d, v, e, id⟩], inst := m.inst + 1 }) ∧ (¬ mine m → m' = m)
      let ends (t : State) : Prop := (getSpire t ch.toNat).members.length = c.members.length ∧
        (∀ (i : Nat) (m : SpireMember), c.members[i]? = some m → ∃ m', (getSpire t ch.toNat).members[i]? = some m' ∧
          (mine m → m'.contribs = []) ∧ (¬ mine m → m'.contribs = m.contribs.tail)) ∧
        ∃ l, (getSpire t ch.toNat).results = c.results ++ l ∧ l.length = c.members.length ∧ ∀ x ∈ l, x.kind = none
      let noWrites : Prop := ∀ q ∈ (getDie s s.cur.die).reqs, isWrite q.kind = true → q.tid ≠ s.cur ∧ isAccepted q = false
      let held : Prop := c.holder = some ((me s).ctx, (me s).launch)
      let ready : Prop := held ∧ c.failing = none ∧ (∃ m ∈ c.members, mine m) ∧ (∀ m ∈ c.members, m.gone = none) ∧
        (∀ m ∈ c.members, mine m → m.contribs = []) ∧ (∀ m ∈ c.members, ∀ x ∈ m.contribs, x.t = s.cur → x.key ≠ 0) ∧
        (∀ r ∈ c.results, r.t = s.cur → r.kind = none → r.key ≠ 0)
      let goesIn (i : Instr) (op : Nat) (d : Word) (v : Vec) (agrees : SpireContrib → Prop) (fs : List Eff) : Prop :=
        (∀ m ∈ c.members, ∀ x, m.contribs.head? = some x → agrees x) →
        ((∃ m ∈ c.members, ¬ mine m ∧ m.contribs = []) → CompletesWith (exec i s) fun t => waits t fs ∧ enters t op d v) ∧
        ((∀ m ∈ c.members, mine m ∨ m.contribs ≠ []) → CompletesWith (exec i s) fun t => waits t fs ∧ ends t)
      (∀ (sm : SOp) (w : Word), Reads s true (srcS sm) w es →
        (held → bitAt w 16 = false → c.members = [] → spJoinOk w = true → (∀ j ∈ c.joins, j.pos ≠ pos) →
          (∀ j ∈ c.joins, j.t ≠ s.cur ∧ j.count = bitsAt w 0 14) → c.joins.length < bitsAt w 0 14 →
          CompletesWith (exec (.spjoin g ch sm) s) fun t => waits t es ∧
            ∃ j, (getSpire t ch.toNat).joins = c.joins ++ [j] ∧ j.pos = pos ∧ j.t = s.cur ∧ j.key = id ∧ j.count = bitsAt w 0 14) ∧
        (held → bitAt w 16 = true → (∃ m ∈ c.members, mine m) → spJoinOk w = true → Quiet s → AllPops es →
          CompletesWith (exec (.spjoin g ch sm) s) fun t => goesOnAt (me t) ((me s).pc + 16) ∧
            ∀ m ∈ (getSpire t ch.toNat).members, m.pos = pos → m.gone ≠ none) ∧
        (¬ held → exec (.spjoin g ch sm) s = .next (takeTrap s s.cur 17 (word (ch.toNat + 256)) true 0 false)) ∧
        (held → bitAt w 16 = true → (∀ m ∈ c.members, ¬ mine m) →
          exec (.spjoin g ch sm) s = .next (takeTrap s s.cur 17 (word (ch.toNat + 4 * 256)) true 0 false))) ∧
      (∀ o, ready → (o = .rel → noWrites) → goesIn (.spbar g o ch) 2 0 0 (fun x => x.op = 2) []) ∧
      (∀ o (r : BitVec 4) (va : VOp) (sa : SOp) (v : Vec) (d : Word),
        Reads s true (do let _ ← examV (.v r) true; let v ← srcV va; let d ← srcS sa; pure (v, d)) (v, d) es →
        ready → (o = .rel → noWrites) →
        let fs := es ++ [.vregOf r.toNat id (me s).pc]
        (spDescOk true d = true →
          goesIn (.spscan g o ch (.v r) va sa) 0 d v (fun x => x.op = 0 ∧ bitsAt x.d 0 12 = bitsAt d 0 12) fs) ∧
        (spDescOk false d = true →
          goesIn (.spred g o ch (.v r) va sa) 1 d v (fun x => x.op = 1 ∧ bitsAt x.d 0 12 = bitsAt d 0 12) fs) ∧
        (d.toNat < c.members.length → goesIn (.spbc g o ch (.v r) va sa) 3 d v (fun x => x.op = 3 ∧ x.d = d) fs) ∧
        (spDescOk false d = false → exec (.spred g o ch (.v r) va sa) s = .next (takeTrap s s.cur 17 (word (ch.toNat + 5 * 256)) true 0 false)) ∧
        (c.members.length ≤ d.toNat →
          exec (.spbc g o ch (.v r) va sa) s = .next (takeTrap s s.cur 17 (word (ch.toNat + 8 * 256)) true 0 false)))) ∧
    (∀ s : State,
      let ch := s.arg.i
      let c := getSpire s ch
      let tval (kind : Nat) : Word := word (ch + kind * 256)
      (∀ j l, c.joins = j :: l → c.joins.length = j.count → (c.joins.Pairwise fun a b => a.t ≠ b.t) →
          (∀ x ∈ c.joins, x.t.slot < 8 ∧ x.key ≠ 0) →
        ((∀ x ∈ c.joins, x.e + 318 + 2 ≤ s.wheel) → CompletesWith (exec .spireGroupForm s) fun t =>
          (getSpire t ch).joins = [] ∧ (getSpire t ch).members.length = c.joins.length ∧
          ((getSpire t ch).members.Pairwise fun a b => a.pos ≤ b.pos) ∧
          (∀ x ∈ c.joins, (⟨x.pos, x.t, none, 0, []⟩ : SpireMember) ∈ (getSpire t ch).members ∧
            ∀ f, (getThread s x.t).inflight = some f → ∃ f', (getThread t x.t).inflight = some f' ∧ mapFind f'.got x.key = some (some []))) ∧
        ((∃ x ∈ c.joins, s.wheel < x.e + 318 + 2) → exec .spireGroupForm s = .next s)) ∧
      (∀ r f, c.results = [r] → r.t.slot < 8 → r.due + 2 ≤ s.wheel → (getThread s r.t).inflight = some f →
        (r.kind = none → r.key ≠ 0 → (CompletesWith (exec .spireResultDelivery s) fun t => (getSpire t ch).results = [] ∧
          ∃ f', (getThread t r.t).inflight = some f' ∧ mapFind f'.got r.key = some (some (natBytes 64 r.v.toNat))) ∧
          CompletesWith (exec .spireFaultDelivery s) fun t => (getSpire t ch).results = [r]) ∧
        (∀ kind, r.kind = some kind → c.failing = none → (CompletesWith (exec .spireFaultDelivery s) fun t => (getSpire t ch).results = [] ∧
          (waitsSpire ch [r.key] (getThread s r.t) = true → (getThread t r.t).failed = some (17, tval kind, true)) ∧
          (waitsSpire ch [r.key] (getThread s r.t) = false → getThread t r.t = getThread s r.t)) ∧
          CompletesWith (exec .spireResultDelivery s) fun t => (getSpire t ch).results = [r])) ∧
      (∀ r, c.results = [r] → s.wheel < r.due + 2 → (CompletesWith (exec .spireResultDelivery s) fun t => (getSpire t ch).results = [r]) ∧
        CompletesWith (exec .spireFaultDelivery s) fun t => (getSpire t ch).results = [r]) ∧
      (∀ due kind, c.failing = some (due, kind) → c.results = [] →
        let keys := c.members.flatMap fun m => m.contribs.map (·.key)
        (due + 2 ≤ s.wheel → CompletesWith (exec .spireFaultDelivery s) fun t => (getSpire t ch).members = [] ∧ (getSpire t ch).failing = none ∧
          (∀ m ∈ c.members, ∀ i < 8, let u : Tid := ⟨m.pos / 64, m.pos % 64, i⟩
            waitsSpire ch keys (getThread s u) = true → (getThread t u).failed = some (17, tval kind, true)) ∧
          ∀ u : Tid, u.slot < 8 → waitsSpire ch keys (getThread s u) = false → getThread t u = getThread s u) ∧
        (s.wheel < due + 2 → CompletesWith (exec .spireFaultDelivery s) fun t => getSpire t ch = c)))

/-! ## The filter of the lantern -/

/-- R457: the words of a filter: each works on the registers of its run and goes on, branches ahead, or ends the run; past the last word a
run ends. R454 to R459, R463, R464: enabling a lantern, the records it takes, what it writes back, the bell register and its record,
counter policies and the host's views. -/
def Obligations.LanternBellViews : Prop :=
    (∀ (s : State) (f : FilterRun) (d a b : BitVec 4) (i : BitVec 18), s.lanRun = some f →
      let l := getLantern s f.die
      let x := fGet f d
      let y := fGet f a
      let z := fGet f b
      let at_ (s : State) (f : FilterRun) (n : Nat) : State := { s with lanRun := if n < l.code.length then some { f with index := n } else none }
      let set (v : Word) : Host.Outcome State Fault Refusal := .next (at_ s { f with f := vset f.f d.toNat v } (f.index + 1))
      let branch (c : Prop) [Decidable c] : Host.Outcome State Fault Refusal := .next (at_ s f (if c then f.index + i.toNat else f.index + 1))
      exec (.lanternLdr d a i) s = set (f.record.getD i.toNat 0) ∧
      exec (.lanternLdi d a i) s = set (i.setWidth 64) ∧
      exec (.lanternAdd d a b) s = set (y + z) ∧ exec (.lanternAnd d a b) s = set (y &&& z) ∧ exec (.lanternOr d a b) s = set (y ||| z) ∧
      exec (.lanternXor d a b) s = set (y ^^^ z) ∧
      exec (.lanternShr d a i) s = set (y >>> i.toNat) ∧ exec (.lanternShl d a i) s = set (y <<< i.toNat) ∧
      exec (.lanternAndi d a i) s = set (y &&& i.setWidth 64) ∧
      exec (.lanternBeq d a i) s = branch (x = y) ∧ exec (.lanternBne d a i) s = branch (x ≠ y) ∧
      exec (.lanternBltu d a i) s = branch (x < y) ∧ exec (.lanternBgeu d a i) s = branch (y ≤ x) ∧
      exec (.lanternDrop d a i) s = .next { s with lanRun := none } ∧
      (CompletesWith (exec (.lanternKeep d a i) s) fun t => t.lanRun = none ∧
        ∃ u, u = cpaWords s (lanCtx l) (l.rbase + 32 * (l.widx % l.rlen)) (f.record.map (·.toNat)) ∧
          getLantern t f.die = { getLantern u f.die with widx := (getLantern u f.die).widx + 1 } ∧ t.hostMem = u.hostMem ∧ t.domes = u.domes) ∧
      (i.toNat < 16 → CompletesWith (exec (.lanternCnt d a i) s) fun t => (∀ j < 16,
          vget (getLantern t f.die).counts j 0 = vget l.counts j 0 + if j = i.toNat then 1 else 0) ∧
        t.lanRun = (at_ s f (f.index + 1)).lanRun ∧ t.cores = s.cores) ∧
      (∀ u : Tid, i = 1 → u.slot < 8 → l.agent = some u → hasThread (getThread s u) = true →
        exec (.lanternTrig d a i) s = .next (at_ (modThread s u fun th => setPending th 4) f (f.index + 1))) ∧
      (∀ u : Tid, i = 0 → u.slot < 8 → tidOf (word (bitsAt (f.record.headD 0) 0 18)) = some u → (getThread s u).run = .running →
        (getThread s u).ctx = recordCtx f.record → CompletesWith (exec (.lanternTrig d a i) s) fun t =>
          (getThread t u).run = .stopped ∧ (getThread t u).dbg.why = 6 ∧ t.lanRun = (at_ s f (f.index + 1)).lanRun)) ∧
    (∀ s : State,
      let u := s.arg.t
      let v := s.arg.v
      let now := s.wheel / s.W
      let written (t : State) (l : Lantern) : Prop := ∀ d o, (∀ j < 0x14, homeOf s (lanCtx l) s.modNo (lanBlk l + 8 * j) = .dome d (o + 8 * j)) →
        mNat (getDome t d).mem (o + 0x10) 8 = l.widx % 2 ^ 64 ∧ mNat (getDome t d).mem (o + 0x18) 8 = l.lost % 2 ^ 64 ∧
          ∀ k < 16, mNat (getDome t d).mem (o + 0x20 + 8 * k) 8 = (vget l.counts k 0).toNat
      -- lanblk
      (let l := getLantern s u.die;
        let base := v &&& 0x00FF3FFFFFFFF800;
        let x : Lantern := { l with agent := some u, lanblk := base };
        let wrong : Prop := CompletesWith (exec .lanternEnable s) fun t => lanEn (getLantern t u.die) = false ∧
          bitAt (getLantern t u.die).lanblk 62 = true;
        (bitAt v 63 = true → (∀ n, cpaRead s (lanCtx x) (lanBlk x + 8) 8 = some n → n % 2 ^ 32 = 0 → wrong) ∧
          (∀ n, cpaRead s (lanCtx x) (lanBlk x + 0x100) 8 = some n → n % 512 = 0 ∨ 256 < n % 512 → wrong) ∧
          (readBlock s x = none → wrong) ∧
          (∀ y, readBlock s x = some y → CompletesWith (exec .lanternEnable s) fun t =>
            getLantern t u.die = { y with lanblk := base ||| 0x8000000000000000 } ∧ y.agent = some u ∧ y.widx = 0 ∧ y.lost = 0 ∧
              (∀ k < 16, vget y.counts k 0 = 0) ∧ y.rlen ≠ 0 ∧ 1 ≤ y.code.length ∧ y.code.length ≤ 256 ∧
              ∀ i w, y.code[i]? = some w → filterWordOk y.code.length i w = true)) ∧
        (bitAt v 63 = false → CompletesWith (exec .lanternEnable s) fun t => lanEn (getLantern t u.die) = false ∧
          (getLantern t u.die).agent = some u ∧ (lanEn l = true → written t l))) ∧
      -- records
      (let l := getLantern s s.arg.die;
        (s.lanRun ≠ none ∨ lanEn l = false → exec .lanternFilter s = .next s) ∧
        (lanternCore s s.arg.die = none → exec .lanternFilter s = .next s) ∧
        (∀ k r rest, s.lanRun = none → lanEn l = true → lanternCore s s.arg.die = some k → (getCore s k).trace = r :: rest →
          CompletesWith (exec .lanternFilter s) fun t => (getCore t k).trace = rest ∧ (∀ j, j ≠ k → getCore t j = getCore s j) ∧
            (recordCtx r ≠ lanCtx l → t.lanRun = none ∧ getLantern t s.arg.die = l) ∧
            (recordCtx r = lanCtx l → t.lanRun = some ⟨s.arg.die, r, 0, Vector.replicate 16 0⟩ ∧
              getLantern t s.arg.die = { l with lost := l.lost + if bitAt (r.headD 0) 36 then 1 else 0 })) ∧
        (lanEn l = false → exec .lanternWriteback s = .next s) ∧
        (lanEn l = true → CompletesWith (exec .lanternWriteback s) fun t => written t l ∧ t.cores = s.cores)) ∧
      -- the bell
      (bitAt s.bell 63 = true → exec .bellArm s = .next s) ∧
      (bitAt s.bell 63 = false → now + 64 < 2 ^ 40 → CompletesWith (exec .bellArm s) fun t => bitAt t.bell 63 = bitAt v 63 ∧
        bitsAt t.bell 0 40 = max (bitsAt v 0 40) (now + 64) ∧ bitAt t.bell 62 = (!bitAt v 63 && bitAt s.bell 62) ∧
        t.bellCtx = (if bitAt v 63 then (getThread s u).ctx else s.bellCtx)) ∧
      (let rev := bitsAt s.bell 0 40;
        (bitAt s.bell 63 = false ∨ s.wheel < rev * s.W → exec .bellPulse s = .next s) ∧
        (bitAt s.bell 63 = true → rev * s.W ≤ s.wheel → CompletesWith (exec .bellPulse s) fun t =>
          bitAt t.bell 63 = false ∧ bitAt t.bell 62 = true ∧ bitsAt t.bell 0 40 = rev ∧ t.cores = s.cores ∧
          ∀ d o, (∀ j < (bellRecord s rev).length, homeOf s s.bellCtx s.modNo (s.bellbuf.toNat + 8 * j) = .dome d (o + 8 * j)) →
            mNat (getDome t d).mem o 8 = rev * s.W % 2 ^ 64 ∧
            ∀ j x, (bellRecord s rev)[j]? = some x → mNat (getDome t d).mem (o + 8 * j) 8 = x % 2 ^ 64)) ∧
      -- views
      (let ctx := bitsAt v 56 8;
        CompletesWith (exec .cntpolWrite s) fun t => t = { s with cntpolSel := ctx, ctxs := t.ctxs } ∧
          getCtx t ctx = { getCtx s ctx with cntpolNext := some (v &&& 0x0000FF00003FFFFF), epoch := (getCtx s ctx).epoch + 1 } ∧
          ∀ k, k ≠ ctx → getCtx t k = getCtx s k) ∧
      (let port := s.arg.port;
        let fn := s.arg.fn;
        let k := s.arg.i;
        let high := fnView s port fn k / 2 ^ 32 % 2 ^ 31;
        (fnPresent s port fn = false →
          exec .viewLoRead s = .next { s with unsupported := vset s.unsupported port (vget s.unsupported port 0 + 1) }) ∧
        (fnPresent s port fn = true → (getFunc s (funcKey port fn)).owed = none → k < 8 → CompletesWith (exec .viewLoRead s) fun t => t = { s with funcs := t.funcs } ∧
          vget (getFunc t (funcKey port fn)).latch k none = some (high, fnEpoch s port fn) ∧ viewHiValue t port fn k = high) ∧
        exec .viewHiRead s = .next s ∧
        (vget (getFunc s (funcKey port fn)).latch k none = none → viewHiValue s port fn k = 2 ^ 31 + high) ∧
        (∀ x e, vget (getFunc s (funcKey port fn)).latch k none = some (x, e) →
          viewHiValue s port fn k = if e = fnEpoch s port fn then x else 2 ^ 31 + high)))

/-! ## Events of threads -/

/-- R104, R112, R115, R123 to R127, R135, R269, R448 to R451, R460: the events of a thread slot: an interrupt is the lowest due source, H
before S, with the pc saved and the mode and enable of its view changed; an interprocessor interrupt, a park that ends or times out, a
retirement, a change of duty, leave granted, a gang formed, an empty rotation slot, and each command of a debugger. -/
def Obligations.ThreadEvents : Prop :=
  ∀ (s : State),
    let u := s.arg.t
    let th := getThread s u
    let on (t : State) : Thread := getThread t u
    let hp := bitsAt th.hstatus 16 8 &&& bitsAt th.hstatus 24 8
    let sp := bitsAt th.status 16 8 &&& bitsAt th.status 24 8
    let hOpen : Prop := bitsAt th.status 0 2 < 3 ∨ bitAt th.hstatus 2 = true
    let sOpen : Prop := bitsAt th.status 0 2 = 0 ∨ (bitsAt th.status 0 2 = 1 ∧ bitAt th.status 2 = true)
    let calm : Prop := th.dbg.stopReq = none ∧ th.dbg.stepping = false
    u.slot < 8 →
    (∀ i < 8, calm → (th.run = .running ∨ (th.run = .parked ∧ th.inflight = none)) → hOpen → hp.testBit i = true →
      (∀ j < i, hp.testBit j = false) → CompletesWith (exec .interrupt s) fun t => (on t).run = .running ∧ (on t).park = none ∧
        (on t).pc = th.htvec ∧ (on t).hepc = th.pc ∧ (on t).hcause = word (2 ^ 63 + i) ∧ (on t).htval = 0 ∧
        bitsAt (on t).status 0 2 = 3 ∧ bitsAt (on t).hstatus 0 2 = bitsAt th.status 0 2 ∧ bitAt (on t).hstatus 2 = false ∧
        bitAt (on t).hstatus 3 = bitAt th.hstatus 2 ∧ (on t).epc = th.epc ∧ keepsScalars th (on t) [] ∧ keepsVectors th (on t) []) ∧
    (∀ i < 8, calm → (th.run = .running ∨ (th.run = .parked ∧ th.inflight = none)) → ¬(hOpen ∧ hp ≠ 0) → sOpen → sp.testBit i = true →
      (∀ j < i, sp.testBit j = false) → CompletesWith (exec .interrupt s) fun t => (on t).run = .running ∧ (on t).park = none ∧
        (on t).pc = th.tvec ∧ (on t).epc = th.pc ∧ (on t).cause = word (2 ^ 63 + i) ∧ (on t).tval = 0 ∧
        bitsAt (on t).status 0 2 = 1 ∧ bitAt (on t).status 2 = false ∧ bitAt (on t).status 3 = bitAt th.status 2 ∧
        bitAt (on t).status 4 = bitAt th.status 0 ∧ (on t).hepc = th.hepc ∧ keepsScalars th (on t) [] ∧ keepsVectors th (on t) []) ∧
    (∀ (a b : Tid) (h : Bool) (code : BitVec 8) l, s.arg.i = 0 → s.ipis = (a, b, h, code) :: l → b.slot < 8 →
      CompletesWith (exec .ipiDelivery s) fun t => t.ipis = l ∧
        ((getThread s b).run ∈ [.vacant, .quarantined] → t.cores = s.cores) ∧
        (hasThread (getThread s b) = true → (getCore s (tidKey b)).quarantined = false →
          let x := getThread s b
          let y := getThread t b
          y.hstatus = (if h then x.hstatus ||| word (2 ^ 17 + code.toNat * 2 ^ 32) else x.hstatus) ∧
          y.status = (if h then x.status else x.status ||| word (2 ^ 16 + code.toNat * 2 ^ 32)))) ∧
    (∀ r p, th.run = .parked → th.failed = none → th.inflight = none → th.park = some p → p.wake = .sFilled r → getFeS th r = .full →
      CompletesWith (exec .parkWake s) fun t => (on t).run = .running ∧ (on t).pc = th.pc ∧ keepsScalars th (on t) []) ∧
    (∀ p, th.run = .parked → th.inflight = none → th.park = some p → p.cause ∈ [0, 2, 3, 5] → th.felimit ≠ 0 → th.felimit.toNat ≤ p.bounds →
      exec .feTimeout s = .next (takeTrap s u 8 p.operand p.slotV 0 false)) ∧
    (∀ f l, th.inflight = some f → f.waits = .drain :: l → f.eff6 = [] → drained s u = true → CompletesWith (exec .threadRetire s) fun t =>
      (on t).run = .vacant ∧ (on t).mcmdSeq = th.mcmdSeq ∧ (on t).hepc = th.hepc ∧ (on t).hdeleg = th.hdeleg ∧
      ∀ i < 2, ownerOf (getCore t (tidKey u)) i ≠ some u.slot) ∧
    (let k := coreKey s.arg.die s.arg.unit;
      let c := getCore s k
      (∀ d, c.dutyNext = some d → c.rot % 16 = 0 → CompletesWith (exec .dutyTakesEffect s) fun t =>
        getCore t k = { c with duty := d, dutyNext := none } ∧ ∀ j, j ≠ k → getCore t j = getCore s j) ∧
      (∀ h i, gateHead c = some h → h.slot = some i → h.kind ≠ .plain → (slotOf c i).run = .parked →
          (slotOf c i).park ≠ none → gateOpen c h.kind = true → coreFrozen s c = false →
        CompletesWith (exec .leaveGrant s) fun t => (getCore t k).heavy = c.heavy + 1 ∧
          (∃ r ∈ (getCore t k).gate, r.slot = some i ∧ r.granted = true) ∧ (getCore t k).gate.length = c.gate.length)) ∧
    (∀ k, gangWait th = some k → (∀ m ∈ gangMembers u k, gangWait (getThread s m) = some k ∧ hasThread (getThread s m) = true ∧
        (getThread s m).ctx = th.ctx ∧ (getThread s m).task = th.task) →
      CompletesWith (exec .gangForm s) fun t => ∀ m ∈ gangMembers u k, (getThread t m).gang = some ⟨k, true, true, 0⟩) ∧
    (hasThread th = true →
      (rotOpen (getCore s (tidKey u)) = false → CompletesWith (exec .rotationSlot s) fun t =>
        (on t).crot = th.crot + 1 ∧ (on t).cduty = th.cduty + 1 ∧ (on t).cissue = th.cissue ∧ (on t).cstop = th.cstop) ∧
      (rotOpen (getCore s (tidKey u)) = true → th.run = .stopped → CompletesWith (exec .rotationSlot s) fun t =>
        (on t).crot = th.crot + 1 ∧ (on t).cstop = th.cstop + 1 ∧ (on t).cissue = th.cissue ∧ (on t).cduty = th.cduty) ∧
      (∀ p, rotOpen (getCore s (tidKey u)) = true → th.run = .parked → th.park = some p → p.cause < 16 →
        CompletesWith (exec .rotationSlot s) fun t => (on t).crot = th.crot + 1 ∧ (on t).cissue = th.cissue ∧
          ∀ j < 16, vget (on t).cpark j 0 = vget th.cpark j 0 + if j = p.cause then 1 else 0)) ∧
    (∀ v, dbgTarget s th = some v → v.slot < 8 →
      let x := getThread s v
      (x.run = .running ∨ (x.run = .parked ∧ x.inflight = none) → CompletesWith (exec .stop s) fun t => (getThread t v).run = .stopped ∧
        (getThread t v).pc = x.pc ∧ (getThread t v).park = none ∧ (getThread t v).dbg.why = 0) ∧
      (x.run = .parked → x.inflight ≠ none → CompletesWith (exec .stop s) fun t => (getThread t v).run = .parked ∧
        (getThread t v).dbg.stopReq = some 0) ∧
      (x.run = .stopped → CompletesWith (exec .resume s) fun t => (getThread t v).run = .running ∧ (getThread t v).pc = x.pc ∧
        (getThread t v).dbg.stepping = false) ∧
      (x.run = .stopped → CompletesWith (exec .stepThread s) fun t => (getThread t v).run = .running ∧ (getThread t v).dbg.stepping = true) ∧
      (x.run ≠ .stopped → exec .resume s = .next s ∧ exec .stepThread s = .next s) ∧
      (CompletesWith (exec .claim s) fun t => getThread t v = { x with dbg := { x.dbg with agent := some u } }) ∧
      (CompletesWith (exec .release s) fun t => getThread t v = { x with dbg := { x.dbg with agent := none } }) ∧
      (s.arg.w = none → exec .dbgdataAccess s = .next s) ∧
      (x.run ≠ .stopped → exec .dbgdataAccess s = .next s) ∧
      (∀ w, s.arg.w = some w → x.run = .stopped →
        (bitsAt th.dbgidx 3 8 = 0 → CompletesWith (exec .dbgdataAccess s) fun t => getThread t v = { x with pc := w, ranOff := false }) ∧
        (∀ r, 1 ≤ r → r < 28 → bitsAt th.dbgidx 3 8 = 32 + r → getFeS x r = .full → CompletesWith (exec .dbgdataAccess s) fun t =>
          getS (getThread t v) r = w ∧ keepsScalars x (getThread t v) [r] ∧ keepsVectors x (getThread t v) []) ∧
        (∀ k, 1 ≤ k → k < 8 → bitsAt th.dbgidx 3 8 = 13 + k → CompletesWith (exec .dbgdataAccess s) fun t =>
          getP (getThread t v) k = w ∧ keepsPredicates x (getThread t v) [k]))) ∧
    (dbgTarget s th = none → ∀ i ∈ [Instr.stop, .resume, .stepThread, .claim, .release, .dbgdataAccess], exec i s = .next s)

/-! ## The matrix unit at work -/

/-- R133, R135, R227, R228, R229, R233, R239, R245, R247: grants and admission at the head of the gate's order, the beginning and the end
of a command on its engine, what each command leaves, the scrub, the end of an unanswered `mcmd`, and the landing of a segment. -/
def Obligations.MatrixUnitRuns : Prop :=
  ∀ s : State,
    let k := coreKey s.arg.die s.arg.unit
    let c := getCore s k
    (∀ h i, gateHead c = some h → h.slot = some i → h.kind = .plain → gateOpen c .plain = true → coreFrozen s c = false →
      CompletesWith (exec .matrixCommandAdmit s) fun t => (∃ r ∈ (getCore t k).gate, r.slot = some i ∧ r.id = h.id ∧ r.granted = true) ∧
        (getCore t k).heavy = c.heavy ∧ (getCore t k).mq = c.mq) ∧
    (∀ h m, gateHead c = some h → h.slot = none → gateOpen c h.kind = true → coreFrozen s c = false →
      (∀ x ∈ c.gate.takeWhile (fun g => g != h), x.kind = .heavy) →
      (c.remote.find? fun m => m.id == h.id) = some m → CompletesWith (exec .matrixCommandAdmit s) fun t =>
        (getCore t k).mq = c.mq ++ [{ m with id := c.mnext }] ∧ (getCore t k).mnext = c.mnext + 1 ∧
        (∀ x ∈ (getCore t k).remote, x.id ≠ m.id) ∧ (getCore t k).heavy = c.heavy + if m.kind = .mma then 1 else 0) ∧
    (∀ (a b : List MCmd) (m : MCmd), c.mq = a ++ m :: b → m.ends = none → m.hold = none →
      (∀ x ∈ a, (x.kind = .mldb ↔ m.kind ≠ .mldb) ∧ x.bm &&& m.bm = 0 ∧ x.id ≠ m.id) → s.arg.ok = decide (m.kind = .mldb) →
      let bits := rWidth m.rcd
      let cycles := match m.kind with
        | .mldb => ceilDiv (bBytes m.rcd m.rank) 256 + 8
        | .mma => ceilDiv (min 128 (8 * ceilDiv m.m 8) * ceilDiv m.k 32 * ceilDiv m.n 16 * bits) 64 + 8
        | .vacczr => if m.t = .pair then 32 else 16
      CompletesWith (exec .matrixCommandBegin s) fun t => ∃ x ∈ (getCore t k).mq, x.id = m.id ∧
        x.ends = some (s.wheel + ceilDiv (cycles * s.slotsPerRotation) 8)) ∧
    (∀ (a b : List MCmd) (m : MCmd) (e : Nat), c.mq = a ++ m :: b → m.ends = some e → e ≤ s.wheel → (∀ x ∈ a, x.ends = none ∧ x.id ≠ m.id) →
      (∀ x ∈ b, x.id ≠ m.id) → m.creg = 0 → s.arg.ok = decide (m.kind = .mldb) → CompletesWith (exec .matrixCommandRetire s) fun t =>
        let d := getCore t k
        d.mq = a ++ b ∧ d.tcm = c.tcm ∧ d.full = c.full ∧ d.heavy = c.heavy - (if m.kind = .mma then 1 else 0) ∧
        (m.kind ≠ .mldb → d.bankMem = c.bankMem) ∧ (m.kind = .mldb → d.tiles = c.tiles) ∧
        (m.kind = .vacczr → ∀ i r n, i < 2 → r < 128 → n < 128 →
          mNat d.tiles (i * 65536 + (r * 128 + n) * 4) 4 = if i ∈ tilesOf m.t then 0 else mNat c.tiles (i * 65536 + (r * 128 + n) * 4) 4) ∧
        (m.kind = .mma → m.m ≤ 128 → m.n ≤ (if m.t = .pair then 256 else 128) → ∀ i r n, i < 2 → r < 128 → n < 128 →
          let old := mNat c.tiles (i * 65536 + (r * 128 + n) * 4) 4
          let new := mNat d.tiles (i * 65536 + (r * 128 + n) * 4) 4
          let col := if m.t = .pair ∧ i = 1 then 128 + n else n
          (¬(r < m.m ∧ col < m.n ∧ i ∈ tilesOf m.t) → new = old) ∧
          (r < m.m → col < m.n → i ∈ tilesOf m.t → ∀ row : List (Nat × Nat), row.length = m.k →
            (∀ j < m.k, aElem c m r j = row[j]?) →
            let bt := (tyOf m.ty).getD .f32
            let ps := row.zipIdx.map fun x => (x.1, bElem c m bt x.2 col)
            (pairInt (rType m.rcd) m.ty = true → (new : Int) =
              ((old : Int) + (ps.map fun p => intValue (rTy m.rcd) p.1.1 * intValue bt p.2.1).sum) % 2 ^ 32) ∧
            (pairInt (rType m.rcd) m.ty = false → new = accumulate false (rTy m.rcd) bt old ps % 2 ^ 32))) ∧
        (m.kind = .mldb → (bElemBytes m.k m.n (rWidth m.rcd) + if tyM (rTy m.rcd) = true then ceilDiv m.k 32 * m.n else 0) ≤
            65536 * ((List.range 4).filter fun j => bitAt m.bm j).length →
          ∀ i n, i < m.k → n < m.n → ∀ p i0 row,
            (elemAt m.rcd m.rank (i + m.k * n) = .at_ p i0 row → (bElem d m (rTy m.rcd) i n).1 = elemPat c.tcm (rWidth m.rcd) p) ∧
            (tyM (rTy m.rcd) = true → elemAt m.rcd m.rank (i / 32 * 32 + m.k * n) = .at_ p i0 row →
              (bElem d m (rTy m.rcd) i n).2 = (mGet c.tcm (scaleAddr m.rcd i0 row)).toNat))) ∧
    exec .matrixScrub s = .next s ∧
    (∀ l g b s1, (c.landings.find? fun l => l.seg == s.arg.i) = some l → c.quarantined = false → l.poisoned = false →
      let c0 := { c with landings := c.landings.eraseIdx ((c.landings.findIdx? fun l => l.seg == s.arg.i).getD 0) }
      hdrValid l.hdr = true → framesUsed c0 + ceilDiv (hdrLen l.hdr) 64 ≤ Config.storeFrames →
      readBundles (setCore s k c0) s.arg.die l.src 0 (hdrLen l.hdr) = (s1, .ok b) → g = ⟨l.seg, hdrLen l.hdr, l.src, b⟩ →
      CompletesWith (exec .segmentLanded s) fun t => findSeg (getCore t k) l.seg = some g ∧
        (hdrFen l.hdr = true → let f := hdrFlag l.hdr / 8 * 8; isFull (getCore t k) f = true ∧ mWord (getCore t k).tcm f = word (hdrLen l.hdr)) ∧
        (hdrFen l.hdr = false → (getCore t k).tcm = (getCore s1 k).tcm)) ∧
    (∀ m w, (getThread s s.arg.t).mwait = some m → s.arg.t.slot < 8 → m.leftAt = some w →
      (circOpen (getCircuit s m.circ) s.wheel = true → w / s.W + 16 ≤ s.wheel / s.W →
        CompletesWith (exec .mcmdTimeout s) fun t => (getThread t s.arg.t).failed = some (13, m.cap, false)) ∧
      (circOpen (getCircuit s m.circ) s.wheel = false → s.wheel / s.W < w / s.W + 16 →
        CompletesWith (exec .mcmdTimeout s) fun t => (getThread t s.arg.t).failed = some (6, word (32 + m.port), false)))

/-! ## The die memory agent and the domes -/

/-- R276, R278, R281, R283, R285, R289: acceptance of a request that its thread, the table and the translation cache let through; the
faults it meets, in ascending order of its accesses; and the walk for a page that the cache does not hold. -/
def Obligations.RequestsAccepted : Prop :=
  ∀ (s : State) (r : Req),
    let die := s.arg.die
    let d := getDie s die
    findReq d s.arg.i = some r → r.tid.slot < 8 → r.kind ≠ .seal → r.kind ≠ .unseal → r.kind ≠ .publish →
    let good (x : Acc) : Prop := x.done = true ∨
      (r.space = .d ∧ ∃ a, sramAddr s r.ctx x.va x.len = some a ∧ (isWrite r.kind = true → sealedAt s r.ctx (some die) a x.len s.wheel = false)) ∨
      (r.space = .g ∧ x.va < 2 ^ 48 ∧ domeMask s r.ctx ≠ [] ∧
        ∃ e, tlbFind d r.ctx r.region r.mode x.va = some e ∧ permFault e r.mode (reqPerm r.kind) x.va = none ∧
        let p := reqPlace s die r e.mod (e.cpa + (x.va - e.va))
        homeOf s r.ctx p.1 p.2 ≠ .none ∧ (isWrite r.kind = true → sealedAt s r.ctx none (sealBase p.1 p.2) x.len s.wheel = false))
    let stops (x : Acc) (cause : Nat) (tval : Word) : Prop := x.done = false ∧
      ((r.space = .d ∧ tval = word x.va ∧ ((sramAddr s r.ctx x.va x.len = none ∧ cause = 6) ∨
          ∃ a, sramAddr s r.ctx x.va x.len = some a ∧ isWrite r.kind = true ∧ sealedAt s r.ctx (some die) a x.len s.wheel = true ∧ cause = 7)) ∨
        (r.space = .g ∧ (2 ^ 48 ≤ x.va ∨ domeMask s r.ctx = []) ∧ cause = 6 ∧ tval = word x.va) ∨
        (r.space = .g ∧ x.va < 2 ^ 48 ∧ domeMask s r.ctx ≠ [] ∧ ∃ e, tlbFind d r.ctx r.region r.mode x.va = some e ∧
          ((permFault e r.mode (reqPerm r.kind) x.va = some tval ∧ cause = 6) ∨
            (permFault e r.mode (reqPerm r.kind) x.va = none ∧ tval = word x.va ∧
              let p := reqPlace s die r e.mod (e.cpa + (x.va - e.va))
              ((homeOf s r.ctx p.1 p.2 = .none ∧ cause = 6) ∨
                (homeOf s r.ctx p.1 p.2 ≠ .none ∧ isWrite r.kind = true ∧ sealedAt s r.ctx none (sealBase p.1 p.2) x.len s.wheel = true ∧
                  cause = 7))))))
    let faults (o : Host.Outcome State Fault Refusal) (cause : Nat) (tval : Word) : Prop := r.who = .thread → CompletesWith o fun t =>
      (getThread t r.tid).failed = some (cause, tval, false) ∧ findReq (getDie t die) r.id = none
    (mayAccept s die r = true → (∀ x ∈ r.accs, good x) → r.brk = none → CompletesWith (exec .requestAccept s) fun t =>
      (getDie t die).seqNext = d.seqNext + 1 ∧
      (∀ x, findReq (getDie t die) r.id = some x → x.seq = d.seqNext ∧ x.at_ = s.wheel ∧ x.tid = r.tid ∧ x.kind = r.kind) ∧
      (¬(isWrite r.kind = true ∧ r.space = .g) → ∃ x, findReq (getDie t die) r.id = some x ∧ x.stage = .accepted ∧ x.due = s.wheel + 1) ∧
      ∀ f, r.who = .thread → (getThread s r.tid).inflight = some f → ∃ f', (getThread t r.tid).inflight = some f' ∧ f'.waits = f.waits ∧
        mapFind f'.got r.id = some (some [])) ∧
    (∀ a, mayAccept s die r = true → (∀ x ∈ r.accs, good x) → r.brk = some a → faults (exec .requestAccept s) 15 a) ∧
    (∀ (p q : List Acc) (x : Acc) (cause : Nat) (tval : Word), mayAccept s die r = true → r.accs = p ++ x :: q → (∀ y ∈ p, good y) →
      stops x cause tval → faults (exec .requestAccept s) cause tval) ∧
    (∀ (p q : List Acc) (x : Acc), mayAccept s die r = true → r.accs = p ++ x :: q → (∀ y ∈ p, good y) → x.done = false → r.space = .g →
      x.va < 2 ^ 48 → domeMask s r.ctx ≠ [] → tlbFind d r.ctx r.region r.mode x.va = none → walkersBusy d < 64 → walkShared d r x.va = false →
      CompletesWith (exec .translationWalk s) fun t => ∃ y now, findReq (getDie t die) r.id = some y ∧ y.stage = .walking x.va 0 now [] ∧
        y.tid = r.tid ∧ y.accs = r.accs) ∧
    (∀ va n now far, r.stage = .walking va n now far → now.endsBy s.wheel = true →
      let w := { Walk.start (n + 1) far with lost := if now.isLost then some n else none }
      (∀ e w', walkVa s d r.ctx r.region r.mode va w = (.ok e, w') → CompletesWith (exec .walkEntryReply s) fun t =>
        findReq (getDie t die) r.id = some { r with stage := .waiting } ∧ e ∈ (getDie t die).tlb) ∧
      (∀ cause tval w', walkVa s d r.ctx r.region r.mode va w = (.fault cause tval, w') → faults (exec .walkEntryReply s) cause tval) ∧
      (∀ h w', walkVa s d r.ctx r.region r.mode va w = (.need h, w') → CompletesWith (exec .walkEntryReply s) fun t =>
        ∃ now', findReq (getDie t die) r.id = some { r with stage := .walking va (n + 1) now' far }))

/-- R195, R279, R280, R288, R301, R367, R368, R194: how accepted requests are performed: the comparison of a load with the pending-store
table, what an access in `.l` or `.c` after it keeps from a load, service by the die SRAM and by a dome, and the reply to a register. -/
def Obligations.RequestsPerformed : Prop :=
  ∀ (s : State) (r : Req),
    let die := s.arg.die
    let d := getDie s die
    let dome := getDome s s.arg.unit
    let bits (x : Acc) (a : Nat) (b : Nat) : Option Bool :=
      if 8 * a + x.bit ≤ b ∧ b < 8 * a + x.bit + x.w then some (x.data.testBit (b - (8 * a + x.bit))) else none
    let once : Prop := ∀ q ∈ d.reqs, q.id = r.id → q = r
    let at_ := sramPos d r / 8
    (sramReady d = [r] → at_ ≤ s.wheel → once → (∀ x ∈ r.accs, x.done = false ∧ x.bit + x.w ≤ 8 * x.len ∧ ∃ a, x.home = .sram a) →
      (r.kind = .load → CompletesWith (exec .dieSramService s) fun t => (getDie t die).sram = d.sram ∧
        ∃ y, findReq (getDie t die) r.id = some y ∧ y.stage = .performed (at_ + 16) ∧ y.accs.length = r.accs.length ∧
          ∀ (i : Nat) (x : Acc) (a : Nat), r.accs[i]? = some x → x.home = .sram a → ∃ z : Acc, y.accs[i]? = some z ∧ z.done = true ∧ z.pos = x.pos ∧ z.w = x.w ∧
            z.data = mNat d.sram a x.len / 2 ^ x.bit % 2 ^ x.w) ∧
      (r.kind = .store → r.who = .thread → CompletesWith (exec .dieSramService s) fun t => findReq (getDie t die) r.id = none ∧
        ∀ b, memBit (getDie t die).sram b = ((lastOf r.accs.length fun i b => match r.accs[i]? with
          | some x => (match x.home with
            | .sram a => bits x a b
            | _ => none)
          | none => none) b).getD (memBit d.sram b)) ∧
      (∀ x a op, r.accs = [x] → x.home = .sram a → r.kind = .amo op → homePoison s die (.sram a) x.len = false →
        CompletesWith (exec .dieSramService s) fun t =>
          mNat (getDie t die).sram a x.len = amoNew op (8 * x.len) (mNat d.sram a x.len) x.data % 2 ^ (8 * x.len) ∧
          ∃ y, findReq (getDie t die) r.id = some y ∧ y.stage = .performed (at_ + 16) ∧
            y.accs = [{ x with data := mNat d.sram a x.len, done := true }])) ∧
    (findReq d s.arg.i = some r → once → isRead r.kind = true → isWrite r.kind = false → r.stage = .accepted →
        (∀ x ∈ r.accs, x.queued = false ∧ x.done = false) → r.accs ≠ [] → loadTurn d r = true → awaitsSeal s die r = false →
      let l := holders d r
      (l = [] → (∀ x ∈ r.accs, ∃ a, x.home = .sram a) → r.space = .d → CompletesWith (exec .loadTableCompare s) fun t =>
        ∃ y, findReq (getDie t die) r.id = some y ∧ y.stage = .accepted ∧ ∀ x ∈ y.accs, x.queued = true) ∧
      (∀ x k off c ti, l = [] → r.space = .g → r.accs = [x] → x.home = .dome k off → k < 65536 →
        sealedAt s r.ctx none (sealBase x.mod x.cpa) x.len s.wheel = false → memCirc s r.ctx die k 0 = some c →
        injectTime s (getCircuit s c) s.wheel = some ti → sendsBefore d r k = false → lostAt (getCircuit s c) ti = none →
        CompletesWith (exec .loadTableCompare s) fun t =>
          ⟨die, r.id, some 0, ti + circLatency (getCircuit s c), false⟩ ∈ mapGet [] (getDome t k).fifo r.ctx ∧
          ∃ t' ≥ ti, (getCircuit t c).lastInj = some t') ∧
      (∀ x b, l = [] → r.space = .g → r.kind = .load → r.accs = [x] → sealedAt s r.ctx none (sealBase x.mod x.cpa) x.len s.wheel = true →
        replicaOf d r.ctx x.mod x.cpa = some b → CompletesWith (exec .loadTableCompare s) fun t =>
          if Config.replicaFails s.wheel die x.mod (x.cpa / 64 * 64) = true then replicaOf (getDie t die) r.ctx x.mod x.cpa = none
          else ∃ y, findReq (getDie t die) r.id = some y ∧ y.stage = .performed (s.wheel + 16) ∧ y.accs =
            [{ x with data := bytesNat ((b.drop (x.cpa % 64)).take x.len) / 2 ^ x.bit % 2 ^ x.w, done := true }]) ∧
      (l ≠ [] → (∀ w ∈ l, givesNone w = false) → (∀ x ∈ r.accs, x.bit = 0 ∧ x.w = 8 * x.len ∧ ∀ j < x.len, ∃ b, heldByte l x j = some b) →
        CompletesWith (exec .loadTableCompare s) fun t => ∃ y, findReq (getDie t die) r.id = some y ∧ y.stage = .performed s.wheel ∧
          y.accs.length = r.accs.length ∧ ∀ (i : Nat) (x : Acc), r.accs[i]? = some x → ∃ z : Acc, y.accs[i]? = some z ∧ z.done = true ∧
            ∀ j < x.len, heldByte l x j = some (z.data / 256 ^ j % 256)) ∧
      (l ≠ [] → ((∃ w ∈ l, givesNone w = true) ∨ ∃ x ∈ r.accs, ∃ j < x.len, heldByte l x j = none) →
        CompletesWith (exec .loadTableCompare s) fun t => findReq (getDie t die) r.id = some { r with stage := .held (l.map (·.id)) })) ∧
    (∀ n, r.cap = some n → ∀ w ∈ holders d r, w.seq < n) ∧ (∀ w ∈ sramReady d, isWrite w.kind = true → boundedLoad d w = false) ∧
    (∀ ids, findReq d s.arg.i = some r → once → isRead r.kind = true → isWrite r.kind = false → r.stage = .held ids →
      (∀ x ∈ r.accs, x.queued = false ∧ x.done = false ∧ ∃ a, x.home = .sram a) → r.accs ≠ [] → r.space = .d →
      ((∀ w ∈ pendingStores d, w.id ∉ ids) → CompletesWith (exec .loadTableCompare s) fun t =>
        ∃ y, findReq (getDie t die) r.id = some y ∧ y.stage = .accepted ∧ ∀ x ∈ y.accs, x.queued = true) ∧
      ((∃ w ∈ pendingStores d, w.id ∈ ids) → CompletesWith (exec .loadTableCompare s) fun t => findReq (getDie t die) r.id = some r)) ∧
    (∀ q l p, mapGet [] dome.fifo s.arg.ctx = q :: l → findReq (getDie s q.die) q.id = some r → 0 < s.W →
      nextPosition s s.arg.unit s.arg.ctx (max (16 * (q.at_ + 1)) (mapGet 0 dome.used s.arg.ctx + 1)) = some p → p / 16 ≤ s.wheel →
      (16 * (q.at_ + 1) ≤ p ∧ mapGet 0 dome.used s.arg.ctx < p ∧ (∃ e ∈ dome.table, e.2 = s.arg.ctx ∧ p % (16 * s.W) = e.1 % (16 * s.W)) ∧
        ∀ x < p, 16 * (q.at_ + 1) ≤ x → mapGet 0 dome.used s.arg.ctx < x → ∀ e ∈ dome.table, e.2 = s.arg.ctx →
          x % (16 * s.W) ≠ e.1 % (16 * s.W)) ∧
      CompletesWith (exec .domeService s) fun t => mapGet [] (getDome t s.arg.unit).fifo s.arg.ctx = l ∧
        mapGet 0 (getDome t s.arg.unit).used s.arg.ctx = p ∧ (getDome t s.arg.unit).mem = dome.mem ∧
        (getDome t s.arg.unit).serving = dome.serving ++ [(p / 16 + (if q.acc.isSome = true ∧ isWrite r.kind = true then 104 else 96), q)]) ∧
    (∀ due q x off, dome.serving[s.arg.i]? = some (due, q) → due ≤ s.wheel → findReq (getDie s q.die) q.id = some r →
      (∀ y ∈ (getDie s q.die).reqs, y.id = r.id → y = r) → r.stage = .accepted → r.accs = [x] → q.acc = some 0 → q.applied = false →
      x.done = false → x.bit + x.w ≤ 8 * x.len → performHome s q.die r x = .dome s.arg.unit off →
      (∀ e ∈ dome.serving.take s.arg.i, e.2.applied = true ∨ servedCtx s e.2 ≠ r.ctx) →
      atDomes (modDome s s.arg.unit fun d => { d with serving := d.serving.eraseIdx s.arg.i }) q.die q.id = false →
      (∀ c ti, r.kind = .load → memCirc s r.ctx q.die s.arg.unit 1 = some c → injectTime s (getCircuit s c) due = some ti →
        lostAt (getCircuit s c) ti = none →
        CompletesWith (exec .domeRequestComplete s) fun t => (getDome t s.arg.unit).mem = dome.mem ∧
          (getDome t s.arg.unit).serving = dome.serving.eraseIdx s.arg.i ∧
          ∃ y, findReq (getDie t q.die) r.id = some y ∧ y.stage = .performed (max r.due (ti + circLatency (getCircuit s c))) ∧
            y.accs = [{ x with
              data := mNat dome.mem off x.len / 2 ^ x.bit % 2 ^ x.w, done := true, bad := homePoison s q.die (.dome s.arg.unit off) x.len }]) ∧
      (r.kind = .store → r.who = .thread → CompletesWith (exec .domeRequestComplete s) fun t => findReq (getDie t q.die) r.id = none ∧
        (getDome t s.arg.unit).serving = dome.serving.eraseIdx s.arg.i ∧
        ∀ b, memBit (getDome t s.arg.unit).mem b = (bits x off b).getD (memBit dome.mem b))) ∧
    (∀ due, findReq d s.arg.i = some r → r.stage = .performed due → due + 2 ≤ s.wheel → r.who = .thread → r.tid.slot < 8 →
      let th := getThread s r.tid
      leavesPending th r.dest = false →
      let on (t : State) := getThread t r.tid
      CompletesWith (exec .memoryReply s) fun t => findReq (getDie t die) r.id = none ∧
        (∀ n sx, r.dest = .sreg n sx → 1 ≤ n → n < 32 → getFeS th n = .pending → (∀ h ∈ th.heldFills, ¬(h.1 = false ∧ h.2.1 = n)) →
          keepsScalars th (on t) [n] ∧ keepsVectors th (on t) [] ∧
          (r.poisoned = false → getFeS (on t) n = .full ∧ getS (on t) n = extendLoad (reqBytes r).length sx (accsValue r.accs)) ∧
          (r.poisoned = true → getFeS (on t) n = .poisoned r.pc)) ∧
        (∀ n, r.dest = .vreg n → n < 16 → getFeV th n = .pending → (∀ h ∈ th.heldFills, ¬(h.1 = true ∧ h.2.1 = n)) →
          keepsVectors th (on t) [n] ∧ keepsScalars th (on t) [] ∧
          (r.poisoned = false → getFeV (on t) n = .full ∧ getV (on t) n = BitVec.ofNat 512 (accsValue r.accs)) ∧
          (r.poisoned = true → getFeV (on t) n = .poisoned r.pc)) ∧
        (∀ k f, r.dest = .bundle k → th.inflight = some f → ∃ f', (on t).inflight = some f' ∧ f'.waits = f.waits ∧ f'.eff6 = f.eff6 ∧
          mapFind f'.got k = some (if r.poisoned then none else some (reqBytes r))))

/-- R289 to R291, R293, R277: what acceptance of `seal` and `unseal` fixes and refuses; seals, unseals and publishes taking effect; the
published count of a die; a replica joins the pool. -/
def Obligations.SealsPublishesPhases : Prop :=
  ∀ s : State,
    let die := s.arg.die
    let d := getDie s die
    let id := s.arg.i
    let E := (s.wheel / s.W + 8) * s.W
    let gave (t : State) (r : Req) (k : Nat) : Prop := ∀ f, (getThread s r.tid).inflight = some f →
      ∃ f', (getThread t r.tid).inflight = some f' ∧ mapFind f'.got k = some (some [])
    (∀ r x l b p, findReq d id = some r → mayAccept s die r = true → r.accs = x :: l → sealRange s die r x = (.ok p, some b) → r.tid.slot < 8 →
      r.who = .thread → r.brk = none →
      let dd := if r.space = .d then some die else none
      let mine (z : Seal) : Prop := z.ctx = r.ctx ∧ z.die = dd
      let refused (t : State) : Prop := (getThread t r.tid).failed = some (6, word x.va, false) ∧ findReq (getDie t die) r.id = none ∧
        t.seals = s.seals
      (r.kind = .seal → (∀ z ∈ s.seals, mine z → z.base + z.len ≤ b ∨ b + x.len ≤ z.base) →
        (s.seals.filter fun z => z.ctx == r.ctx).length < 64 → CompletesWith (exec .requestAccept s) fun t =>
          t.seals = s.seals ++ [⟨r.ctx, dd, b, x.len, E, none, some (die, r.id), none⟩] ∧ gave t r r.id) ∧
      (r.kind = .seal → ((∃ z ∈ s.seals, mine z ∧ b < z.base + z.len ∧ z.base < b + x.len) ∨
        64 ≤ (s.seals.filter fun z => z.ctx == r.ctx).length) → CompletesWith (exec .requestAccept s) refused) ∧
      (∀ z, r.kind = .unseal → s.seals = [z] → mine z → z.base = b → z.len = x.len → z.until_ = none →
        CompletesWith (exec .requestAccept s) fun t =>
          t.seals = [{ z with until_ := some (max E z.from_), unsealer := some (die, r.id) }] ∧ gave t r r.id) ∧
      (r.kind = .unseal → (∀ z ∈ s.seals, ¬(mine z ∧ z.base = b ∧ z.len = x.len ∧ z.until_ = none)) →
        CompletesWith (exec .requestAccept s) refused)) ∧
    (∀ z r k, (s.seals.find? fun z => z.sealer == some (die, id)) = some z → findReq d id = some r → r.dest = .bundle k → r.tid.slot < 8 →
      (z.from_ ≤ s.wheel → rangeWrites s z = false → CompletesWith (exec .sealEffect s) fun t =>
        findReq (getDie t die) id = none ∧ gave t r k ∧ (∀ y ∈ t.seals, y.sealer ≠ some (die, id)) ∧ { z with sealer := none } ∈ t.seals) ∧
      (s.wheel < z.from_ ∨ rangeWrites s z = true → exec .sealEffect s = .next s)) ∧
    (∀ z r e, (s.seals.find? fun z => z.unsealer == some (die, id)) = some z → findReq d id = some r → z.until_ = some e → e < 2 ^ 64 →
      (e ≤ s.wheel → CompletesWith (exec .unsealEffect s) fun t => (∀ y ∈ t.seals, y.unsealer ≠ some (die, id)) ∧
        (∃ y, findReq (getDie t die) id = some y ∧ y.stage = .performed s.wheel ∧ y.dest = r.dest ∧ accsValue y.accs = e) ∧
        (z.die = none → ∀ i, ∀ x ∈ (getDie t i).replicas,
          ¬(x.2.2.1 = z.ctx ∧ z.base ≤ sealBase x.1 x.2.1 ∧ sealBase x.1 x.2.1 < z.base + z.len))) ∧
      (s.wheel < e → exec .unsealEffect s = .next s)) ∧
    (∀ r x l pages, findReq d id = some r → r.kind = .publish → r.stage = .accepted → r.accs = x :: l →
      flipPages s die r.ctx r.mode x.va = some pages →
      ((∃ w ∈ pendingWrites d, w.seq < r.seq) → exec .publishSerialise s = .next s) ∧
      ((∀ w ∈ pendingWrites d, r.seq ≤ w.seq) →
        ((∀ f ∈ (getCtx s r.ctx).flips, f.base ≠ x.va) → CompletesWith (exec .publishSerialise s) fun t =>
          findReq (getDie t die) id = some { r with stage := .performed E } ∧
          (getCtx t r.ctx).flips = ⟨x.va, E, pages⟩ :: (getCtx s r.ctx).flips) ∧
        (∀ f, ((getCtx s r.ctx).flips.find? fun f => f.base == x.va) = some f → CompletesWith (exec .publishSerialise s) fun t =>
          findReq (getDie t die) id = some { r with stage := .performed (max E (f.e + s.W)) } ∧
          (getCtx t r.ctx).flips = ⟨x.va, max E (f.e + s.W), pages⟩ :: (getCtx s r.ctx).flips))) ∧
    (∀ c w b e (p q : Nat × Nat) o, (getCtx s c).flips = [⟨b, e, [(p, q)]⟩] → p.2 % 4096 = 0 → q.2 % 4096 = 0 → p ≠ q → o < 4096 →
      flipCpa s c w p.1 (p.2 + o) = (if e ≤ w then (q.1, q.2 + o) else (p.1, p.2 + o)) ∧
      flipCpa s c w q.1 (q.2 + o) = (if e ≤ w then (p.1, p.2 + o) else (q.1, q.2 + o))) ∧
    (∀ r e k, findReq d id = some r → r.kind = .publish → r.stage = .performed e → r.dest = .bundle k → r.tid.slot < 8 →
      (e ≤ s.wheel → CompletesWith (exec .publishEffect s) fun t => findReq (getDie t die) id = none ∧ gave t r k) ∧
      (s.wheel < e → exec .publishEffect s = .next s)) ∧
    (let old := mapGet 0 d.pd s.arg.ctx;
      ∃ k, old ≤ k ∧ (k = old ∨ ∀ p ∈ livePhases s die s.arg.ctx, k < p) ∧
        (k = old ∨ k = mapGet 0 d.pmax s.arg.ctx ∨ k + 1 ∈ livePhases s die s.arg.ctx) ∧
        CompletesWith (exec .phasePublish s) fun t => mapGet 0 (getDie t die).pd s.arg.ctx = k ∧
          (k ≠ old → ∀ i ∈ ctxTowers s s.arg.ctx, i ≠ die → mapGet 0 (getDie t i).held (256 * die + s.arg.ctx) = k)) ∧
    (∀ k off, homeOf s s.arg.ctx s.arg.unit s.arg.n = .dome k off → s.arg.unit = s.modNo → s.arg.n % 64 = 0 →
      sealedAt s s.arg.ctx none (sealBase s.arg.unit s.arg.n) 64 s.wheel = true → replicaOf d s.arg.ctx s.arg.unit s.arg.n = none →
      homePoison s die (.dome k off) 64 = false → d.replicas.length < poolGranules s die →
      (∀ z ∈ s.seals, z.ctx = s.arg.ctx → rangeWrites s z = false) → CompletesWith (exec .replicaFill s) fun t =>
        ∃ l, replicaOf (getDie t die) s.arg.ctx s.arg.unit s.arg.n = some l ∧ l.length = 64 ∧
          ∀ j < 64, l[j]? = some (mGet (getDome s k).mem (off + j)))

/-! ## The copy engine at work -/

/-- R221, R222, R256, R257, R259, R262, R264, R265, R266, R278: a channel begins its oldest transfer; a beat of it moves or adds its
elements in a local space, or asks the memory agent for them and for its writes; a register is filled; a fault is recorded and ends the
transfer; a transfer completes and its channel's users learn of it; a refill brings a stream its next elements. -/
def Obligations.EngineRuns : Prop :=
  ∀ (s : State) (ch : Nat) (x : Transfer) (l : List Transfer), ch < 8 →
    let cl := clusterKey s.arg.die s.arg.unit
    let c := getChan s cl ch
    let k := tidKey x.tid
    let die := x.tid.die
    let tcm := (getCore s k).tcm
    let n := 512 / max (rWidth x.src) (match x.dst with
      | .rcd d => rWidth d
      | _ => rWidth x.src)
    let only : Prop := ∀ r < 16, r ≠ 8 + ch → if r < 8 then coreRefill s (cl / 8) (coreAt (cl % 8) r) = none else chanReady s cl (r - 8) = false
    let head : Prop := c.q = x :: l ∧ x.begun = true
    let serves : Prop := head ∧ x.stage = .idle ∧ x.pos < xferCount x ∧ only
    let fits (r : Rec) (p : Place) : Prop := p.addr % elemBytes (rWidth r) = 0 ∧ p.addr + elemBytes (rWidth r) ≤ 512 * 1024 ∧
      p.bit + rWidth r ≤ 8 * elemBytes (rWidth r)
    let ends (t : State) (cause : Nat) (tval : Word) : Prop :=
      (getChan t cl ch).q = l ∧ (getChan t cl ch).done = x.id ∧ (getCore t k).tcm = tcm ∧
        (c.fault = none → (getChan t cl ch).fault = some (x.id, cause, tval)) ∧
        (c.fault ≠ none → (getChan t cl ch).fault = c.fault ∧ (getChan t cl ch).more = true)
    let fresh (d : Nat) : Prop := ∀ q ∈ (getDie s d).reqs, q.id ≠ s.nextId
    let posted (t : State) (g : XStage) (sp : Space) (kind : ReqKind) (accs : List Acc) (doom : Option (Nat × Nat × Word)) : Prop :=
      (getChan t cl ch).q = { x with stage := g } :: l ∧ ∃ y, findReq (getDie t die) s.nextId = some y ∧ y.who = .engine cl ch ∧ y.tid = x.tid ∧
        y.ctx = x.ctx ∧ y.region = x.region ∧ y.mode = x.mode ∧ y.space = sp ∧ y.kind = kind ∧ y.accs = accs ∧ y.doom = doom ∧ y.stage = .waiting
    (s.arg.i = ch → c.q = x :: l → CompletesWith (exec .transferBegin s) fun t => getChan t cl ch = { c with q := { x with begun := true } :: l }) ∧
    (∀ (d : Rec) (pS pD : Nat → Place), serves → x.pos = 0 → x.dst = .rcd d → xferCount x ≤ n → rSpace x.src = .l → rSpace d = .l →
      tyM (rTy x.src) = false → tyM (rTy d) = false →
      (∀ e < xferCount x, (∃ i0 row, elemAt x.src x.rank e = .at_ (pS e) i0 row) ∧ (∃ i0 row, elemAt d x.rank e = .at_ (pD e) i0 row) ∧
        fits x.src (pS e) ∧ fits d (pD e)) →
      (∀ e < xferCount x, ∀ f < xferCount x,
        (e ≠ f → 8 * (pD e).addr + (pD e).bit + rWidth d ≤ 8 * (pD f).addr + (pD f).bit ∨
          8 * (pD f).addr + (pD f).bit + rWidth d ≤ 8 * (pD e).addr + (pD e).bit) ∧
        (8 * (pD e).addr + (pD e).bit + rWidth d ≤ 8 * (pS f).addr + (pS f).bit ∨
          8 * (pS f).addr + (pS f).bit + rWidth x.src ≤ 8 * (pD e).addr + (pD e).bit)) →
      CompletesWith (exec .engineSlotService s) fun t =>
        (getChan t cl ch).q = { x with pos := xferCount x } :: l ∧ (getChan t cl ch).fault = c.fault ∧ (getChan t cl ch).done = c.done ∧
        ∀ e < xferCount x,
          let v := elemPat tcm (rWidth x.src) (pS e)
          let old := elemPat tcm (rWidth d) (pD e)
          let new := elemPat (getCore t k).tcm (rWidth d) (pD e)
          (x.op = .copy → rType x.src = rType d → new = v) ∧
          (x.op = .copy → rType x.src ≠ rType d → new = convert (rTy x.src) (rTy d) .rne false 0 v % 2 ^ rWidth d) ∧
          (x.op = .addI32 → rTy d = .i32 → (new : Int) = (intValue .i32 old + intValue (rTy x.src) v) % 2 ^ 32) ∧
          (x.op = .addF32 → rTy d = .f32 →
            new = roundTo .f32 .rne false 0 (fAdd .rne (valueOf .f32 old) (valueOf (rTy x.src) v)) % 2 ^ 32)) ∧
    (∀ (core slot r : Nat) (p : Place) (i0 row : Nat), serves → x.pos = 0 → x.dst = .reg false core slot r → xferCount x = 1 →
      rTy x.src = .i64 → rSpace x.src = .l → elemAt x.src x.rank 0 = .at_ p i0 row → fits x.src p → slot < 8 → 1 ≤ r → r < 32 →
      let u : Tid := ⟨die, core, slot⟩
      let th := getThread s u
      hasThread th = true → streamS th r = none → getFeS th r ≠ .pending → CompletesWith (exec .engineSlotService s) fun t =>
        getS (getThread t u) r = word (elemPat tcm 64 p) ∧ getFeS (getThread t u) r = .full ∧ keepsScalars th (getThread t u) [r] ∧
        (getChan t cl ch).q = { x with pos := 1 } :: l) ∧
    (serves → fresh die → (rSpace x.src = .d ∨ rSpace x.src = .g) →
      let b := beatReads x.src x.rank true x.pos 0 (beatLen x)
      b.1 ≠ [] → CompletesWith (exec .engineSlotService s) fun t =>
        posted t (.reading s.nextId (beatLen x)) (rSpace x.src) .load b.1 (b.2.map fun f => (f.1, f.2.1, f.2.2))) ∧
    (∀ (d : Rec) (p : Place) (i0 row : Nat), serves → l = [] → x.dst = .rcd d → elemAt x.src x.rank x.pos = .at_ p i0 row →
      p.addr % elemBytes (rWidth x.src) ≠ 0 → CompletesWith (exec .engineSlotService s) fun t => ends t 4 (word p.addr)) ∧
    (∀ (r : Req) (due m : Nat), head → x.stage = .reading r.id m → findReq (getDie s s.arg.die) s.arg.i = some r → r.who = .engine cl ch →
      r.stage = .performed due → due + 2 ≤ s.wheel → CompletesWith (exec .memoryReply s) fun t =>
        findReq (getDie t s.arg.die) r.id = none ∧
        ((∀ y ∈ r.accs, y.bad = false) → r.doom = none → (∀ d, x.dst = .rcd d → rSpace x.src ≠ rSpace d) →
          (getChan t cl ch).q = { x with
            stage := .fetched ((List.range m).map fun i => beatValue x.src x.rank (x.pos + i) i true r.accs) none } :: l) ∧
        (∀ cause tval, r.accs = [] → r.doom = some (0, cause, tval) →
          (getChan t cl ch).q = { x with stage := .fetched [] (some (cause, tval)) } :: l)) ∧
    (∀ d vals, head → only → fresh die → x.stage = .fetched vals none → x.dst = .rcd d → (rSpace d = .d ∨ rSpace d = .g) →
      let w := beatWrites d x.rank x.pos (beatData x d vals)
      w ≠ [] → CompletesWith (exec .engineSlotService s) fun t =>
        posted t (.writing s.nextId vals.length none) (rSpace d) (if x.op = .copy then .store else .add x.op (rType x.src)) w none) ∧
    (∀ d cause tval, head → only → l = [] → x.stage = .fetched [] (some (cause, tval)) → x.dst = .rcd d → encodes x d = false →
      CompletesWith (exec .engineSlotService s) fun t => ends t cause tval) ∧
    (∀ (r : Req) (due m : Nat), head → x.stage = .writing r.id m none → findReq (getDie s s.arg.die) s.arg.i = some r → r.who = .engine cl ch →
      r.stage = .performed due → due + 2 ≤ s.wheel → (∀ y ∈ r.accs, y.bad = false) → CompletesWith (exec .memoryReply s) fun t =>
        findReq (getDie t s.arg.die) r.id = none ∧
        (r.doom = none → (getChan t cl ch).q = { x with pos := x.pos + m, stage := .idle } :: l) ∧
        (∀ i cause tval, r.doom = some (i, cause, tval) → ends t cause tval)) ∧
    (s.arg.i = ch → head → x.stage = .idle → xferCount x ≤ x.pos → beatsLeft s cl ch x.id = false →
      CompletesWith (exec .transferComplete s) fun t =>
        getChan t cl ch = { c with q := l, done := x.id } ∧
        (∀ d, x.dst = .rcd d → recTagen d = true → tagAddr d % 8 = 0 →
          mNat (getCore t k).tcm (tagAddr d) 8 = recTag d % 2 ^ 64 ∧ isFull (getCore t k) (tagAddr d) = true) ∧
        (getCore t k).heavy = (getCore s k).heavy - (if x.heavy then 1 else 0) ∧
        ∀ i < 8, ∀ j < 8, let u : Tid := ⟨cl / 8, coreAt (cl % 8) i, j⟩
          hasThread (getThread s u) = true → bitAt (getThread s u).used ch = true → bitAt (getThread t u).status 22 = true) ∧
    (∀ j, s.arg.i = j → j < 8 → s.arg.t.slot < 8 →
      let th := getThread s s.arg.t
      let y := getStream th j
      let z (t : State) := getStream (getThread t s.arg.t) j
      let w := rWidth y.rcd
      let m := (getCore s (tidKey s.arg.t)).tcm
      let d (s : State) := getDie s s.arg.t.die
      let asks : Prop := refillReady s s.arg.t j = true
      let inL : Prop := rSpace y.rcd = .l ∧ ∀ i < elemCount y.rcd th.rank, ∀ p i0 row, elemAt y.rcd th.rank i = .at_ p i0 row → fits y.rcd p
      (asks → inL → j < 4 → let n := min (512 / w) (min (32 - y.fifo.length) (elemCount y.rcd th.rank - y.next))
        CompletesWith (exec .streamRefillArrival s) fun t => (z t).next = y.next + n ∧ ∃ f, (z t).fifo = y.fifo ++ f ∧ f.length = n ∧
          (tyM (rTy y.rcd) = false → ∀ i < n, ∀ p i0 row, elemAt y.rcd th.rank (y.next + i) = .at_ p i0 row →
            f[i]? = some (.val ((extendElem (rTy y.rcd) (elemPat m w p)).setWidth 512)))) ∧
      (asks → inL → 4 ≤ j → CompletesWith (exec .streamRefillArrival s) fun t => (z t).next = y.next + 512 / w ∧
        ∃ v, (z t).fifo = y.fifo ++ [.val v] ∧ ∀ i < 512 / w,
          (elemCount y.rcd th.rank ≤ y.next + i → vElem w v i = padOf y.rcd % 2 ^ w) ∧
          (∀ p i0 row, y.next + i < elemCount y.rcd th.rank → elemAt y.rcd th.rank (y.next + i) = .at_ p i0 row →
            vElem w v i = elemPat m w p)) ∧
      (∀ q, asks → (rSpace y.rcd = .d ∨ rSpace y.rcd = .g) → (getCluster s cl).rr = q → q < 8 →
        coreRefill s (cl / 8) (coreAt (cl % 8) q) = some (s.arg.t, j) → fresh s.arg.t.die →
        let b := beatReads y.rcd th.rank false y.next 0 (refillLen th y j)
        b.1 ≠ [] → CompletesWith (exec .engineSlotService s) fun t => (z t).asked = some (s.nextId, refillLen th y j) ∧ (z t).fifo = y.fifo ∧
          ∃ r, findReq (d t) s.nextId = some r ∧ r.who = .stream j ∧ r.tid = s.arg.t ∧ r.space = rSpace y.rcd ∧ r.kind = .load ∧ r.accs = b.1 ∧
            r.doom = b.2.map fun f => (f.1, f.2.1, f.2.2)) ∧
      (∀ id m r due, y.asked = some (id, m) → findReq (d s) id = some r → r.stage = .performed due → r.doom = none →
        (∀ a ∈ r.accs, a.bad = false) →
        (due + 2 ≤ s.wheel → CompletesWith (exec .streamRefillArrival s) fun t => findReq (d t) id = none ∧ (z t).asked = none ∧
          (z t).next = y.next + m ∧
          let v (i : Nat) := (beatValue y.rcd th.rank (y.next + i) i false r.accs).1
          (j < 4 → tyM (rTy y.rcd) = false →
            (z t).fifo = y.fifo ++ (List.range m).map fun i => .val ((extendElem (rTy y.rcd) (v i)).setWidth 512)) ∧
          (4 ≤ j → (z t).fifo = y.fifo ++ [.val (vPack w ((List.range m).map v))])) ∧
        (s.wheel < due + 2 → exec .streamRefillArrival s = .next s)) ∧
      (refillReady s s.arg.t j = false → y.asked = none → exec .streamRefillArrival s = .next s))

/-! ## Deliveries of the spire network -/

/-! ## Circuits at work -/

/-- R342, R343, R348, R355, R339: the head of a circuit's beats is injected in the first owned slot; a word goes on where the entry of its
slot sends it, or is discarded and counted; a marker steps the phases it passes; a configuration beat moves a die a revolution. -/
def Obligations.WordsOnTheirWay : Prop :=
  ∀ s : State,
    let k := s.arg.n
    let c := getCircuit s k
    let i := s.arg.i
    (∀ b l t, c.inj = b :: l → heldBack s b = false → circStopped s c = false → ctxFrozen s c.ctx c.region = false → injectTime s c b.t0 = some t → 0 < s.W →
      (∀ x ∈ c.slots, x < s.W) →
      (b.t0 ≤ t ∧ c.opened ≤ t ∧ (∀ x, c.lastInj = some x → x < t) ∧ t % s.W ∈ c.slots ∧
        ∀ x < t, b.t0 ≤ x → c.opened ≤ x → (∀ y, c.lastInj = some y → y < x) → x % s.W ∉ c.slots) ∧
      (t ≤ s.wheel → CompletesWith (exec .inject s) fun u => (getCircuit u k).inj = l ∧ (getCircuit u k).lastInj = some t ∧
        u.words = s.words ++ [⟨t, false, injectPort c, k, b.beat, b.src, none⟩]) ∧
      (s.wheel < t → exec .inject s = .next s)) ∧
    (∀ f, s.words[i]? = some f → f.eject = false → bitsAt f.beat.env 0 4 ≠ 1 →
      (s.wheel < f.at_ → exec .wordForward s = .next s) ∧
      (f.at_ ≤ s.wheel →
        let r := f.port / 8
        let leave := f.at_ + (if r < 10240 then 1 else 2)
        (∀ e d, entryAt s f.port f.at_ = some e → outDirs (vget e.outs e.cur 0) = [d] →
          (d = 4 → r < 10240 → CompletesWith (exec .wordForward s) fun t =>
            t.words = s.words.eraseIdx i ++ [{ f with at_ := f.at_ + 2, eject := true, port := r }]) ∧
          (∀ r' dir x, d ≠ 4 → nextRouter r d = some (r', dir, x) →
            CompletesWith (exec .wordForward s) fun t =>
              if edgeLoses r d leave = true then t.words = s.words.eraseIdx i ∧ mapGet 0 t.discards r' = mapGet 0 s.discards r' + 1
              else t.words = s.words.eraseIdx i ++ [{ f with at_ := leave + x, port := 8 * r' + dir }])) ∧
        ((entryAt s f.port f.at_ = none ∨ ∃ e, entryAt s f.port f.at_ = some e ∧ outDirs (vget e.outs e.cur 0) = []) →
          CompletesWith (exec .wordForward s) fun t => t.words = s.words.eraseIdx i ∧
            mapGet 0 t.discards r = mapGet 0 s.discards r + 1))) ∧
    (∀ f e, s.words[i]? = some f → f.eject = false → bitsAt f.beat.env 0 4 = 1 → f.at_ ≤ s.wheel → entryAt s f.port f.at_ = some e →
      CompletesWith (exec .markerPhaseStep s) fun t =>
        (∀ key x, mapFind s.slotTab key = some x → mapFind t.slotTab key =
          some (if key / 1024 = f.port ∧ x.circ = e.circ then { x with cur := (x.cur + 1) % (x.nph + 1) } else x)) ∧
        (∀ d r' dir x, outDirs (allOuts e) = [d] → d ≠ 4 → nextRouter (f.port / 8) d = some (r', dir, x) →
          edgeLoses (f.port / 8) d (f.at_ + (if f.port / 8 < 10240 then 1 else 2)) = false →
          t.words = s.words.eraseIdx i ++
            [{ f with at_ := f.at_ + (if f.port / 8 < 10240 then 1 else 2) + x, port := 8 * r' + dir }]) ∧
        (outDirs (allOuts e) = [4] → f.port / 8 < 10240 → t.words = s.words.eraseIdx i ++
          (if (vget e.outs e.cur 0).testBit 4 then [{ f with at_ := f.at_ + 2, eject := true, port := f.port / 8 }] else []))) ∧
    (∀ b, s.cfgBeats[i]? = some b →
      (s.wheel < b.at_ → exec .configBeat s = .next s) ∧
      (b.at_ ≤ s.wheel → b.left = 0 →
        exec .configBeat s = .next { s with cfgBeats := s.cfgBeats.eraseIdx i, tabWrites := s.tabWrites ++ b.writes }) ∧
      (b.at_ ≤ s.wheel → b.left ≠ 0 →
        exec .configBeat s = .next { s with cfgBeats := s.cfgBeats.set i { b with left := b.left - 1, at_ := b.at_ + s.W } })) ∧
    (∀ q, s.arg.t.slot < 8 → s.arg.unit < 4 → (getRx (getThread s s.arg.t) s.arg.unit).circ = some q →
      let r := getRx (getThread s s.arg.t) s.arg.unit
      (circOpen (getCircuit s q) s.wheel = false → r.q = [] → r.rcount = 0 → (∀ f ∈ s.words, f.circ ≠ q) →
        CompletesWith (exec .receivePortCloseUnbind s) fun t => getRx (getThread t s.arg.t) s.arg.unit = Rx.reset ∧
          keepsScalars (getThread s s.arg.t) (getThread t s.arg.t) []) ∧
      (circOpen (getCircuit s q) s.wheel = true ∨ r.q ≠ [] ∨ r.rcount ≠ 0 → exec .receivePortCloseUnbind s = .next s))

/-- R128, R211, R213, R215, R219, R243, R245, R246, R351: what a core does with a beat that has reached it, by its kind: the queue, ring
and overflow of a receive port, a register fill, a write of TCM, a tag, a command of the multiplier and its reply. -/
def Obligations.BeatsDelivered : Prop :=
  ∀ (s : State) (f : Flight),
    let i := s.arg.i
    let c := getCore s f.port
    let env := f.beat.env
    let kind := bitsAt env 0 4
    s.words[i]? = some f → f.eject = true → f.at_ + 2 ≤ s.wheel → c.quarantined = false →
    let dropped (o : Host.Outcome State Fault Refusal) : Prop := CompletesWith o fun t => t.words = s.words.eraseIdx i ∧ t.cores = s.cores ∧
      mapGet 0 t.discards f.port = mapGet 0 s.discards f.port + 1
    let at_ (t : State) := getCore t f.port
    (kind ≤ 1 →
      (boundRx c f.circ = [] → dropped (exec .queueBeat s)) ∧
      (∀ slot n, boundRx c f.circ = [(slot, n)] →
        let r := getRx (slotOf c slot) n
        let r' (t : State) := getRx (slotOf (at_ t) slot) n
        (r.overflow = false → r.q.length < 16 → r.rcount = 0 → CompletesWith (exec .queueBeat s) fun t =>
          r' t = { r with q := r.q ++ [f.beat.data] } ∧ (at_ t).tcm = c.tcm ∧ t.words = s.words.eraseIdx i) ∧
        (r.overflow = false → (16 ≤ r.q.length ∨ 0 < r.rcount) → r.rcount < r.rlen → CompletesWith (exec .queueBeat s) fun t =>
          r' t = { r with rcount := r.rcount + 1 } ∧
          ∀ a, mGet (at_ t).tcm a = let b := r.rbase + 64 * ((r.rhead + r.rcount) % r.rlen)
            if b ≤ a ∧ a < b + 64 then f.beat.data.extractLsb' (8 * (a - b)) 8 else mGet c.tcm a) ∧
        (r.overflow = false → (16 ≤ r.q.length ∨ 0 < r.rcount) → r.rlen ≤ r.rcount → CompletesWith (exec .queueBeat s) fun t =>
          r' t = { r with overflow := true } ∧ (at_ t).tcm = c.tcm) ∧
        (r.overflow = true → CompletesWith (exec .queueBeat s) fun t => r' t = r ∧ (at_ t).tcm = c.tcm))) ∧
    (kind = 2 →
      (boundRx c f.circ = [] → exec .fill s = .next { s with words := s.words.eraseIdx i }) ∧
      (∀ slot n l, boundRx c f.circ = (slot, n) :: l →
        let r := bitsAt env 24 6
        let th := slotOf c slot
        let th' (t : State) := slotOf (at_ t) slot
        (bitAt env 30 = false → 1 ≤ r → r < 32 → streamS th r = none →
          (getFeS th r ≠ .pending → CompletesWith (exec .fill s) fun t => getS (th' t) r = f.beat.data.setWidth 64 ∧
            getFeS (th' t) r = .full ∧ keepsScalars th (th' t) [r] ∧ keepsVectors th (th' t) []) ∧
          (getFeS th r = .pending → CompletesWith (exec .fill s) fun t => keepsScalars th (th' t) [] ∧
            (th' t).heldFills = th.heldFills ++ [(false, r, (f.beat.data.setWidth 64).setWidth 512)])) ∧
        (bitAt env 30 = false → (r = 0 ∨ streamS th r ≠ none) → CompletesWith (exec .fill s) fun t => th' t = th) ∧
        (bitAt env 30 = true → r < 16 → streamV th r = none → getFeV th r ≠ .pending → CompletesWith (exec .fill s) fun t =>
          getV (th' t) r = f.beat.data ∧ getFeV (th' t) r = .full ∧ keepsVectors th (th' t) [r] ∧ keepsScalars th (th' t) []))) ∧
    (kind = 3 →
      let a := 64 * bitsAt env 8 13
      let w := match bitsAt env 4 3 with
        | 0 => 64
        | 1 => 32
        | 2 => 16
        | 3 => 8
        | 4 => 4
        | _ => 2
      let on (j : Nat) : Bool := if bitAt env 7 then decide (j < bitsAt env 24 9) else bitAt (word (bitsAt env 24 64)) (predBit w j)
      CompletesWith (exec .windowBeat s) fun t =>
        (∀ b, memBit (at_ t).tcm b =
          if 8 * a ≤ b ∧ b < 8 * a + 512 ∧ on ((b - 8 * a) / w) = true then f.beat.data.getLsbD (b - 8 * a) else memBit c.tcm b) ∧
        ∀ j, isFull (at_ t) (8 * j) =
          (isFull c (8 * j) || (List.range (512 / w)).any fun e => on e && decide (8 * j = a + w * e / 64 * 8))) ∧
    (kind = 4 → CompletesWith (exec .tagWrite s) fun t => let a := 8 * bitsAt env 8 16
      isFull (at_ t) a = true ∧ ∀ x, mGet (at_ t).tcm x =
        if x = a then f.beat.data.extractLsb' 0 8 else if x = a + 1 then f.beat.data.extractLsb' 8 8
        else if a ≤ x ∧ x < a + 8 then 0 else mGet c.tcm x) ∧
    (kind = 5 → earlierCommand s i f = false →
      let cap := word (bitsAt f.beat.data 256 64)
      let w0 := word (bitsAt f.beat.data 0 64)
      let answers (t : State) (rh : Word) : Prop := ∀ q, replyCirc s f.port (getCircuit s f.circ).ctx rh = some q →
        ∃ b, (getCircuit t q).inj = (getCircuit s q).inj ++ [b] ∧ bitsAt b.beat.env 0 4 = 6 ∧
          bitsAt b.beat.env 40 3 = bitsAt env 40 3 ∧ bitsAt b.beat.env 24 16 = bitsAt env 24 16
      ∀ gr, (f.grant = some gr ∨
          (f.grant = none ∧ gr = (grantOf c cap).map fun n => (mWord c.tcm (32 * n + 8), mWord c.tcm (32 * n + 16)))) →
      (gr = none → CompletesWith (exec .matrixCommand s) fun t => t.cores = s.cores ∧ t.words = s.words.eraseIdx i) ∧
      (∀ g rh, gr = some (g, rh) → (bitAt g (bitsAt w0 0 2) = false ∨ 8 ≤ c.remote.length) →
        CompletesWith (exec .matrixCommand s) fun t => t.cores = s.cores ∧ t.words = s.words.eraseIdx i ∧ answers t rh) ∧
      (∀ rh, decideRemote c gr f.beat.data = (.hold, rh) →
        exec .matrixCommand s = .next { s with words := s.words.set i { f with grant := some gr } }) ∧
      (∀ m o rh, decideRemote c gr f.beat.data = (.accept m o, rh) → CompletesWith (exec .matrixCommand s) fun t =>
        ∃ m', (at_ t).remote = c.remote ++ [m'] ∧
          (at_ t).gate = c.gate ++ [⟨none, m'.id, if m.kind = .mma then .mma else .plain, false, false⟩] ∧
          m'.kind = m.kind ∧ m'.t = m.t ∧ m'.bm = m.bm ∧ m'.rcd = m.rcd ∧ m'.at_ = s.wheel ∧ answers t rh)) ∧
    (kind = 6 →
      let u : Tid := ⟨f.port / 64, f.port % 64, bitsAt env 40 3⟩
      let th := getThread s u
      ((∀ m, th.mwait = some m → m.seq % 2 ^ 16 ≠ bitsAt env 24 16) →
        exec .commandReply s = .next { s with words := s.words.eraseIdx i }) ∧
      (∀ m n, th.mwait = some m → th.inflight = some n → m.seq % 2 ^ 16 = bitsAt env 24 16 →
        (bitAt f.beat.data 0 = false → CompletesWith (exec .commandReply s) fun t => (getThread t u).mwait = none ∧
          ∃ n', (getThread t u).inflight = some n' ∧ mapFind n'.got m.key = some (some (natBytes 8 (bitsAt f.beat.data 128 64)))) ∧
        (bitAt f.beat.data 0 = true → CompletesWith (exec .commandReply s) fun t =>
          (getThread t u).failed = some (bitsAt f.beat.data 8 8, word (bitsAt f.beat.data 64 64), false))))

/-! ## The belfry -/

/-- R346, R347, R357, R359 to R362: the belfry takes the contexts in turn; what an OPEN, RESIZE, CLOSE, JOIN, LEAVE and QUERY does and
answers, with the statuses of a failure, which changes no circuit. R355, R362: a change of a circuit at its boundary: table writes that
are due, the new slots or members, the end of a closed circuit's ports, and the status that its thread waits for. -/
def Obligations.BelfryAndChanges : Prop :=
    (∀ (s : State) (r : BelReq), belReady s s.arg.ctx = some r → r.launch = none → 0 < s.W →
      let ctx := s.arg.ctx
      let s0 := belTaken s ctx
      let cmd := bBits r.blk 0 0 4
      let answer := (s.wheel / s.W + 2) * s.W
      let answers (t : State) (e key : Nat) (k : ChangeKind) (v : Word) : Prop := t.changes = s.changes ++ [⟨e, key, k, some (r.t, r.key, v)⟩]
      let fails (o : Host.Outcome State Fault Refusal) (n : Nat) : Prop := CompletesWith o fun t =>
        t.circuits = s.circuits ∧ answers t answer 0 .none (word (2 ^ 63 + n))
      let later (e : Nat) : Prop := s.wheel < e ∧ e % s.W = 0
      (∀ c < 256, belHead s c ≠ none → (ctx + 255 - s.belTurn % 256) % 256 ≤ (c + 255 - s.belTurn % 256) % 256) ∧
      (blockBad r.blk = true → (cmd = 0 → fails (exec .openCircuit s) 1) ∧ (cmd = 1 → fails (exec .resizeCircuit s) 1) ∧
        (cmd = 2 → fails (exec .closeCircuit s) 1) ∧ (cmd = 3 → fails (exec .joinMember s) 1) ∧ (cmd = 4 → fails (exec .leaveMember s) 1) ∧
        (5 ≤ cmd → fails (exec .queryCircuit s) 1)) ∧
      (blockBad r.blk = false → cmd = 0 →
        let desc := (bWord r.blk 0x10).toNat
        (desc % 64 ≠ 0 → fails (exec .openCircuit s) 1) ∧
        (desc % 64 = 0 → (∀ v, (readVa s0 r.t.die r.ctx r.region r.mode desc 64 .r).2 ≠ .ok (some v)) → fails (exec .openCircuit s) 6) ∧
        (∀ s1 v, desc % 64 = 0 → readVa s0 r.t.die r.ctx r.region r.mode desc 64 .r = (s1, .ok (some v)) →
          let d := natBytes 64 v
          (∀ s2 n, openCirc s1 r.ctx r.region d = (s2, .error n) → fails (exec .openCircuit s) n) ∧
          (descBad d s.W = true → fails (exec .openCircuit s) 1) ∧
          (descBad d s.W = false → (endpointOk s1 r.ctx (bBits d 0 0 21) = false ∨ ∃ e ∈ descDsts d, dstOk s1 r.ctx e = false) →
            fails (exec .openCircuit s) 4) ∧
          (∀ s2 key, openCirc s1 r.ctx r.region d = (s2, .ok key) → CompletesWith (exec .openCircuit s) fun t =>
            let c := getCircuit t key
            later c.opened ∧ answers t c.opened key .open_ 0 ∧ c.ctx = r.ctx ∧ c.region = r.region ∧ c.src = bBits d 0 0 21 ∧ c.dsts = descDsts d ∧
              c.slots.length = bBits d 0x10 0 10 ∧ c.gen = key / 65536 ∧ c.closed = none ∧ 1 ≤ key % 65536 ∧
              key % 65536 ∉ usedNumbers s1))) ∧
      (blockBad r.blk = false → belHandle s0 r = none → (cmd = 1 → fails (exec .resizeCircuit s) 2) ∧ (cmd = 2 → fails (exec .closeCircuit s) 2) ∧
        (cmd = 3 → fails (exec .joinMember s) 2) ∧ (cmd = 4 → fails (exec .leaveMember s) 2) ∧
        (cmd = 5 → bWord r.blk 8 ≠ 0 → (bWord r.blk 0x28).toNat % 64 = 0 → fails (exec .queryCircuit s) 2)) ∧
      (∀ key, blockBad r.blk = false → belHandle s0 r = some key →
        let c := viewCirc s key
        let later (e : Nat) : Prop := s.wheel < e ∧ c.eff + s.W ≤ e ∧ (c.eff % s.W = 0 → e % s.W = 0)
        let n := bBits r.blk 0x18 0 10
        let m := bBits r.blk 0x20 0 21
        (cmd = 2 → CompletesWith (exec .closeCircuit s) fun t => ∃ e, later e ∧ answers t e key .close 0 ∧
          (getCircuit t key).closed = some e ∧ (getCircuit t key).held = []) ∧
        (cmd = 1 → (n = 0 ∨ s.W ≤ n) → fails (exec .resizeCircuit s) 1) ∧
        (cmd = 1 → 0 < n → n < s.W → n ≤ c.slots.length → let l := c.slots.take n
          (c.maxgap ≠ 0 → c.maxgap < maxGapOf l s.W → fails (exec .resizeCircuit s) 3) ∧
          ((c.maxgap = 0 ∨ maxGapOf l s.W ≤ c.maxgap) → CompletesWith (exec .resizeCircuit s) fun t =>
            ∃ e, later e ∧ answers t e key (.slots l) 0 ∧ (getCircuit t key).hops = c.hops)) ∧
        (cmd = 1 → n < s.W → c.slots.length < n →
          (pickSlots s0 r.ctx c.region (circLinks s0 c) c.slots n 0 = none → fails (exec .resizeCircuit s) 3) ∧
          (∀ l, pickSlots s0 r.ctx c.region (circLinks s0 c) c.slots n 0 = some l → l.length = n ∧ (∀ i ∈ c.slots, i ∈ l) ∧
            CompletesWith (exec .resizeCircuit s) fun t => ∃ e, later e ∧ answers t e key (.slots l) 0 ∧ (getCircuit t key).hops = c.hops)) ∧
        (cmd = 3 → c.mc = false → fails (exec .joinMember s) 2) ∧
        (cmd = 3 → c.mc = true → dstOk s0 r.ctx m = false → fails (exec .joinMember s) 4) ∧
        (cmd = 3 → c.mc = true → dstOk s0 r.ctx m = true → m ∈ c.dsts → CompletesWith (exec .joinMember s) fun t =>
          t.circuits = s.circuits ∧ answers t answer key .none 0) ∧
        (∀ b, cmd = 3 → c.mc = true → dstOk s0 r.ctx m = true → m ∉ c.dsts → (routeEndOf s0 m).bind (bestBranch c.hops) = some b →
          let new := (hopLinks (mergeRoute c.hops 0 b) ++ portLink s0 m b).filter fun l => !(circLinks s0 c).contains l
          ((∀ i ∈ c.slots, i ∈ usableSlots s0 new) → withinBudget s0 r.ctx c.region c.slots.length (laneLinks new) = true →
            CompletesWith (exec .joinMember s) fun t => ∃ e, later e ∧ answers t e key (.join m) 0 ∧
              (getCircuit t key).hops = mergeRoute c.hops 0 b) ∧
          ((∃ i ∈ c.slots, i ∉ usableSlots s0 new) → fails (exec .joinMember s) 3)) ∧
        (cmd = 4 → c.mc = false → fails (exec .leaveMember s) 2) ∧
        (cmd = 4 → c.mc = true → m ∉ c.dsts → CompletesWith (exec .leaveMember s) fun t =>
          t.circuits = s.circuits ∧ answers t answer key .none 0) ∧
        (cmd = 4 → c.mc = true → m ∈ c.dsts → CompletesWith (exec .leaveMember s) fun t => ∃ e, later e ∧
          answers t e key (.leave m) 0)) ∧
      (let out := (bWord r.blk 0x28).toNat
        let writes (i : Nat) : Prop := (writeVa s0 r.t.die r.ctx r.region r.mode (out + 64 * i) 64 0).2 = .ok ()
        blockBad r.blk = false → cmd = 5 → out % 64 = 0 → (bWord r.blk 8 = 0 ∨ belHandle s0 r ≠ none) →
        ((∃ i < 3, ¬ writes i) → fails (exec .queryCircuit s) 6) ∧
        ∀ s1 c, ((bWord r.blk 8 = 0 ∧ c = none) ∨ ∃ key, bWord r.blk 8 ≠ 0 ∧ belHandle s0 r = some key ∧ c = some (getCircuit s key)) →
        (∀ i < 3, writes i) →
        writeBytes s0 r out 3 (queryBytes s0 ctx c) = (s1, true) →
        CompletesWith (exec .queryCircuit s) fun t => t.circuits = s.circuits ∧ answers t answer 0 .none 0) ∧
      (blockBad r.blk = false → cmd = 5 → (bWord r.blk 0x28).toNat % 64 ≠ 0 → fails (exec .queryCircuit s) 1)) ∧
    (∀ (s : State) (c : Change), s.changes[s.arg.i]? = some c →
      (∀ w e, s.tabWrites = [w] → w.entry = some e → w.at_ ≤ s.arg.n → w.at_ ≤ s.wheel → (s.wheel < c.e) →
        CompletesWith (exec .circuitChangeEffect s) fun t => t.tabWrites = [] ∧ ∃ p, mapFind t.slotTab w.key = some { e with cur := p } ∧
          ∀ x ∈ s.slotTab, x.1 / 1024 = w.key / 1024 → x.2.circ = e.circ →
            (∀ y ∈ s.slotTab, y.1 / 1024 = w.key / 1024 → y.2.circ = e.circ → y.2.cur = x.2.cur) → p = x.2.cur) ∧
      (∀ w, s.tabWrites = [w] → w.entry = none → w.at_ ≤ s.arg.n → w.at_ ≤ s.wheel → s.wheel < c.e →
        CompletesWith (exec .circuitChangeEffect s) fun t => t.tabWrites = [] ∧
          ∀ x, x ∈ t.slotTab ↔ x ∈ s.slotTab ∧ ¬(x.1 = w.key ∧ x.2.circ = w.circ)) ∧
      (s.tabWrites = [] → s.wheel < c.e → exec .circuitChangeEffect s = .next s) ∧
      (s.tabWrites = [] → c.e ≤ s.wheel → CompletesWith (exec .circuitChangeEffect s) fun t =>
        t.changes = s.changes.eraseIdx s.arg.i ∧
        (c.kind = .close → (getCircuit t c.circ).inj = [] ∧ ∀ u : Tid, u.slot < 8 → ∀ j < 4,
          (getTx (getThread t u) j = if getTx (getThread s u) j = some c.circ then none else getTx (getThread s u) j) ∧
          (getRx (getThread t u) j = if (getRx (getThread s u) j).circ = some c.circ then { getRx (getThread s u) j with closing := true }
            else getRx (getThread s u) j)) ∧
        (∀ l, c.kind = .slots l → getCircuit t c.circ = { getCircuit s c.circ with slots := l }) ∧
        (∀ e, c.kind = .join e → getCircuit t c.circ = { getCircuit s c.circ with dsts := (getCircuit s c.circ).dsts ++ [e] }) ∧
        (∀ e, c.kind = .leave e →
          getCircuit t c.circ = { getCircuit s c.circ with dsts := (getCircuit s c.circ).dsts.filter (· ≠ e) }) ∧
        (∀ u key v f, c.reply = some (u, key, v) → u.slot < 8 → c.kind ≠ .open_ → (getThread s u).inflight = some f →
          ∃ f', (getThread t u).inflight = some f' ∧ mapFind f'.got key = some (some (natBytes 8 v.toNat)))))

/-! ## Launches and tasks at work -/

/-- R318 to R320, R322, R326 to R332, R374, R416: dependences, abortion and the start of a launch; selection and binding of a task; a task
that faults; completion, its record, stealing and the sink watchdog. -/
def Obligations.LaunchesRun : Prop :=
  ∀ s : State,
    let ctx := s.arg.ctx
    let h := s.arg.i
    let die := s.arg.die
    let c := getCtx s ctx
    let d := getDie s die
    let after (t : State) (l : Launch) : Prop := getLaunch t ctx h = some l
    let cut (t : State) (l : Launch) (n : Nat) : Prop := ∃ x, after t x ∧ x.stage = .running ∧ x.left = 0 ∧ x.spawned = 0 ∧
      x.status = (if l.status = 0 then n else min l.status n)
    (∀ l, getLaunch s ctx h = some l → l.stage = .waiting →
      (∀ j x, j < 4 → let w := vget l.blk (8 + j) 0
        bitAt w 62 = true → getLaunch s ctx (bitsAt w 0 62) = some x → x.stage = .done → x.status ≠ 0 →
        CompletesWith (exec .launchReady s) fun t => cut t l 5) ∧
      ((∀ j < 4, depAborts s ctx (vget l.blk (8 + j) 0) = false) →
        (∀ j x, j < 4 → let w := vget l.blk (8 + j) 0
          bitAt w 63 = false → bitsAt w 0 62 ≠ 0 → getLaunch s ctx (bitsAt w 0 62) = some x → x.stage ≠ .done →
          exec .launchReady s = .next s) ∧
        ((∀ j < 4, depMet s ctx (vget l.blk (8 + j) 0) = true) →
          (let ch := lBits l.blk 0x20 32 5;
            (lTasks l.blk = 0 → lBits l.blk 0x20 37 1 = 0 → CompletesWith (exec .launchReady s) fun t => after t { l with stage := .running }) ∧
            (lTasks l.blk = 0 → lBits l.blk 0x20 37 1 = 1 → cBits s ctx 0x28 ch 1 = 1 → (getSpire s ch).holder = none →
              CompletesWith (exec .launchReady s) fun t => after t { l with stage := .running } ∧ (getSpire t ch).holder = some (ctx, h)) ∧
            (lBits l.blk 0x20 37 1 = 1 → cBits s ctx 0x28 ch 1 = 0 → CompletesWith (exec .launchReady s) fun t => cut t l 3) ∧
            (∀ x, lBits l.blk 0x20 37 1 = 1 → cBits s ctx 0x28 ch 1 = 1 → (getSpire s ch).holder = some x → x ≠ (ctx, h) →
              exec .launchReady s = .next s)) ∧
          (0 < lTasks l.blk → lBits l.blk 0x20 37 1 = 0 → vget l.blk 5 0 = 0 → lBits l.blk 0x20 20 4 = 0 → lBits l.blk 0x20 24 5 = 0 →
            CompletesWith (exec .launchReady s) fun t =>
              let towers := ctxTowers s ctx
              (∃ x, after t x ∧ x.stage = .running ∧ x.left = l.left ∧ x.status = l.status) ∧
              (getCtx t ctx).nextTask = c.nextTask + lTasks l.blk ∧
              ∀ k, (getDie t k).queue = (getDie s k).queue ++ (List.range (lTasks l.blk)).filterMap fun i =>
                if (towers[i % towers.length]?).getD 0 = k then some (launchTask ctx h (c.nextTask + i) i l.blk false) else none)))) ∧
    ((∀ k ∈ d.selected, k.1.ctx ≠ ctx) →
      (∀ k lv, chooseTask s die ctx = some (k, lv) →
        (k ∈ d.queue ∧ k.ctx = ctx ∧ taskLevel s k = lv ∧ taskPlace s die k ≠ none ∧
          ∀ lv' < 8, lv < lv' → ∀ r < 64, ∀ k', (d.queue.find? fun x => x.ctx == ctx && x.region == r && taskLevel s x == lv') = some k' →
            taskPlace s die k' = none) ∧
        CompletesWith (exec .taskSelect s) fun t => (getDie t die).selected = d.selected ++ [(k, lv)] ∧
          (getDie t die).queue = d.queue.filter (fun x => !(x.ctx == ctx && x.id == k.id)) ∧
          mapFind (getDie t die).served (8 * ctx + lv) = some k.region) ∧
      (chooseTask s die ctx = none → exec .taskSelect s = .next s)) ∧
    (∀ k lv cores slots, (d.selected.find? fun k => k.1.ctx == ctx) = some (k, lv) → ctxActive s ctx k.region = true →
      taskPlace s die k = some (cores, slots) →
      let s0 := setDie s die { d with selected := d.selected.filter fun x => !(x.1.ctx == ctx && x.1.id == k.id) }
      (∀ s1, landAll s0 die k cores = (s1, true) → cores.Nodup → slots.Nodup → (∀ i ∈ slots, i < 8) →
        CompletesWith (exec .taskBind s) fun t =>
          (∀ m core n slot, cores[m]? = some core → slots[n]? = some slot →
            let th := getThread t ⟨die, core, slot⟩
            th.run = .running ∧ th.pc = k.entry ∧ th.status = word k.mode ∧ th.ctx = ctx ∧ th.region = k.region ∧ th.launch = k.launch ∧
              th.task = k.id ∧ getS th 2 = (if k.spawned then BitVec.allOnes 64 else word (k.index * 2 ^ k.gang + m)) ∧ getS th 3 = word n ∧
              (k.spawned = false → getS th 4 = word k.index) ∧ getS th 6 = k.arg ∧
              th.gang = (if k.gang = 0 then none else some ⟨k.gang, false, true, 0⟩)) ∧
          mapFind (getCtx t ctx).tasks k.id = some { k with live := k.thr * 2 ^ k.gang, untrig := k.thr * 2 ^ k.gang }) ∧
      (∀ s1 l, landAll s0 die k cores = (s1, false) → getLaunch s1 ctx k.launch = some l → k.spawned = false →
        effBits s1 ctx k.region 1 0x00 28 2 = 0 → CompletesWith (exec .taskBind s) fun t => ∃ x, getLaunch t ctx k.launch = some x ∧
          x.status = (if l.status = 0 then 4 else min l.status 4) ∧ x.left = l.left - 1 ∧ mapFind (getCtx t ctx).tasks k.id = none)) ∧
    (∀ k l, mapFind c.tasks s.arg.i = some k → getLaunch s ctx k.launch = some l → effBits s ctx k.region 1 0x00 28 2 = 0 →
      CompletesWith (exec .taskFaultEnd s) fun t => mapFind (getCtx t ctx).tasks s.arg.i = none ∧
        (∃ x, getLaunch t ctx k.launch = some x ∧ x.status = (if l.status = 0 then 1 else min l.status 1) ∧
          x.left = l.left - (if k.spawned then 0 else 1) ∧ x.lost = l.lost + (if k.spawned then 0 else k.untrig)) ∧
        ∀ u : Tid, u.core < 64 → u.slot < 8 → hasThread (getThread s u) = true → (getThread s u).ctx = ctx → (getThread s u).task = s.arg.i →
          (getThread t u).run = .vacant) ∧
    (∀ l, getLaunch s ctx h = some l →
      (l.stage = .running → l.left = 0 → l.spawned = 0 → launchTransfers s ctx h = false → launchWrites s ctx h = false →
        CompletesWith (exec .launchComplete s) fun t => after t { l with stage := .done, wheel := s.wheel } ∧
          ∀ ch, (getSpire s ch).holder = some (ctx, h) → getSpire t ch = SpireChan.reset) ∧
      (l.stage ≠ .running ∨ l.left ≠ 0 ∨ l.spawned ≠ 0 ∨ launchTransfers s ctx h = true ∨ launchWrites s ctx h = true →
        exec .launchComplete s = .next s)) ∧
    (let k := ctxFunc s ctx;
      let f := getFunc s k;
      let full : Prop := (f.cqtail + 1) % 2 ^ f.cqlog2 = f.cqhead;
      let written (t : State) (v : Nat) : Prop := mNat t.hostMem (k / 512 * 2 ^ 64 + f.cqbase.toNat + 32 * f.cqtail) 32 = v % 2 ^ 256 ∧
        (getFunc t k).cqtail = (f.cqtail + 1) % 2 ^ f.cqlog2;
      (∀ r l, c.records = r :: l → f.cqen = true → ¬ full → CompletesWith (exec .completionRecordWrite s) fun t =>
        (getCtx t ctx).records = l ∧ written t (recordNat r.status r.handle r.ordsig r.wheel)) ∧
      (∀ r l, c.records = r :: l → f.cqen = true → full → exec .completionRecordWrite s = .next s) ∧
      (∀ n l, c.records = [] → c.launches = [(n, l)] → l.stage = .done → l.ordsig = 0 → lBits l.blk 0x20 40 2 = 1 →
        l.wheel / s.W < s.wheel / s.W → f.cqen = true → ¬ full → CompletesWith (exec .completionRecordWrite s) fun t =>
          written t (recordNat l.status n c.ordsig l.wheel) ∧ (getCtx t ctx).ordsig = c.ordsig + 1)) ∧
    (dieIdle s die ctx = true → (diagonals s die ctx).Nodup → CompletesWith (exec .stealRequestSend s) fun t => ∀ n,
      (getDie t n).steals = (getDie s n).steals ++ if n ∈ diagonals s die ctx then [(die, ctx)] else []) ∧
    (dieIdle s die ctx = false → exec .stealRequestSend s = .next s) ∧
    (∀ thief x l r lv, d.steals = (thief, x) :: l → thief ≠ die → lv < 8 → (∀ k ∈ d.queue, k.region = r) → r < 64 →
      let soft (lv : Nat) (k : Task) : Bool := k.ctx == x && !k.hard && taskLevel s k == lv;
      let n := ((d.queue.filter (soft lv)).length + 1) / 2;
      (∀ k ∈ d.queue, ∀ lv' < lv, soft lv' k = false) → (∃ k ∈ d.queue, soft lv k = true) →
        CompletesWith (exec .stealRequest s) fun t => (getDie t die).steals = l ∧
          (getDie t thief).queue = (getDie s thief).queue ++ (d.queue.filter (soft lv)).drop ((d.queue.filter (soft lv)).length - n) ∧
          (getDie t die).queue.filter (fun k => !soft lv k) = d.queue.filter (fun k => !soft lv k) ∧
          (getDie t die).queue.filter (soft lv) = (d.queue.filter (soft lv)).take ((d.queue.filter (soft lv)).length - n)) ∧
    (let n := cBits s ctx 0x18 32 32;
      (n ≠ 0 → c.silent = false → c.out = false → c.sinkAt + n * s.W ≤ s.wheel →
        (∃ u : Tid, u.core < 64 ∧ u.slot < 8 ∧ hasThread (getThread s u) = true ∧ (getThread s u).ctx = ctx) →
        CompletesWith (exec .sinkWatchdog s) fun t => (getCtx t ctx).silent = true ∧
          (getCtx t ctx).records = c.records ++ [⟨6, 0, 0, c.sinkAt + n * s.W, 2⟩] ∧
          vget (getFunc t (ctxFunc s ctx)).raised 1 0 = vget (getFunc s (ctxFunc s ctx)).raised 1 0 + 1 ∧
          ∀ u : Tid, u.slot < 8 → hasThread (getThread s u) = true → (getThread s u).ctx = ctx → bitAt (getThread t u).status 19 = true) ∧
      (n = 0 ∨ c.silent = true ∨ c.out = true ∨ s.wheel < c.sinkAt + n * s.W → exec .sinkWatchdog s = .next s))

/-! ## Hosts and the keep -/

/-- R13, R414 to R418, R411, R413, R428, R437, R486: the queue registers as the host writes and reads them, and the host commands of R417
with FABRIC: who may send each, the statuses of a failure, which changes nothing, and the effect; a change of a block waits for a
revolution boundary at least 64 revolutions on. -/
def Obligations.HostCommands : Prop :=
  ∀ s : State, 0 < s.W →
    let port := s.arg.port
    let fn := s.arg.fn
    let k := funcKey port fn
    let f := getFunc s k
    let n := s.arg.v.toNat % 4096
    let refused (o : Host.Outcome State Fault Refusal) : Prop :=
      o = .next { s with unsupported := vset s.unsupported port (vget s.unsupported port 0 + 1) }
    let sets (o : Host.Outcome State Fault Refusal) (f' : Func) : Prop := CompletesWith o fun t =>
      getFunc t k = f' ∧ (∀ k', k' ≠ k → getFunc t k' = getFunc s k') ∧ t = { s with funcs := t.funcs }
    let opc := entryOpc s port fn
    let a := entryArg s port fn 0
    let b := entryArg s port fn 1
    let failed := s.arg.ok
    let runs (o : Nat) : Prop := hostReady s port fn = true ∧ opc = o ∧ entryStray s port fn = false
    -- doorbells and registers
    (fnPresent s port fn = true → f.owed = none → sets (exec .doorbell s) (if n < 2 ^ f.qlog2 then { f with tail := n } else f)) ∧
    (fnPresent s port fn = true → f.owed = none → sets (exec .cqheadWrite s) (if n < 2 ^ f.cqlog2 then { f with cqhead := n } else f)) ∧
    (∀ st w, fnPresent s port fn = true → f.owed = some (st, w) → f.cqen = true → n < 2 ^ f.cqlog2 → (f.cqtail + 1) % 2 ^ f.cqlog2 ≠ n →
      CompletesWith (exec .cqheadWrite s) fun t => Answered s t k st w ∧ (getFunc t k).owed = none ∧ (getFunc t k).cqhead = n) ∧
    (fnPresent s port fn = false → refused (exec .doorbell s) ∧ refused (exec .cqheadWrite s) ∧ refused (exec .registerWrite s) ∧
      refused (exec .vfAbsentRequest s) ∧ ∀ off, hostRead s port fn off = none) ∧
    (fnPresent s port fn = true → exec .vfAbsentRequest s = .next s ∧ hostRead s port fn 0x000 = some f.qbase ∧
      hostRead s port fn 0x010 = some (word f.tail) ∧ hostRead s port fn 0x018 = some (word f.head) ∧
      hostRead s port fn 0x020 = some f.cqbase ∧ hostRead s port fn 0x030 = some (word f.cqhead) ∧
      hostRead s port fn 0x038 = some (word f.cqtail) ∧
      (f.qlog2 ≤ 12 → ∃ w, hostRead s port fn 0x008 = some w ∧ bitAt w 63 = f.qen ∧ bitsAt w 0 4 = f.qlog2 ∧ bitsAt w 4 59 = 0) ∧
      (f.cqlog2 ≤ 12 → ∃ w, hostRead s port fn 0x028 = some w ∧ bitAt w 63 = f.cqen ∧ bitAt w 62 = f.msie ∧ bitsAt w 0 4 = f.cqlog2 ∧
        bitsAt w 4 58 = 0)) ∧
    (fnPresent s port fn = true → s.arg.ok = true → fn = 0 →
      (s.arg.n = 0 → CompletesWith (exec .registerWrite s) fun t => t = { s with vfEnable := t.vfEnable } ∧
        ∀ p, t.vfEnable.testBit p = if p = port then bitAt s.arg.v 0 else s.vfEnable.testBit p) ∧
      (s.arg.n = 1 → s.arg.v.toNat ≤ 256 → exec .registerWrite s = .next { s with numVfs := vset s.numVfs port s.arg.v.toNat })) ∧
    (fnPresent s port fn = true → s.arg.ok = false → f.owed = none →
      let v := s.arg.v;
      let size (old : Nat) : Nat := if 6 ≤ bitsAt v 0 4 ∧ bitsAt v 0 4 ≤ 12 then bitsAt v 0 4 else old;
      (s.arg.n = 0x000 → sets (exec .registerWrite s) { f with qbase := v &&& ~~~0xFFF }) ∧
      (s.arg.n = 0x008 → sets (exec .registerWrite s) { f with qen := bitAt v 63, qlog2 := size f.qlog2 }) ∧
      (s.arg.n = 0x020 → sets (exec .registerWrite s) { f with cqbase := v &&& ~~~0xFFF }) ∧
      (s.arg.n = 0x028 → sets (exec .registerWrite s) { f with cqen := bitAt v 63, msie := bitAt v 62, cqlog2 := size f.cqlog2 }) ∧
      (s.arg.n = 0x018 ∨ s.arg.n = 0x038 → sets (exec .registerWrite s) f)) ∧
    (∀ (i : Instr) (o : Nat) (may : Bool), (i, o, may) ∈ ([(.launchCmd, 0x01, fn != 0), (.regset, 0x02, fn != 0), (.regdrop, 0x03, fn != 0),
        (.ctxset, 0x10, fn == 0), (.ctxdrop, 0x11, fn == 0), (.switchCmd, 0x12, fn == 0), (.sched, 0x13, fn == 0),
        (.hostSplit, 0x14, port == 0 && fn == 0), (.fabric, 0x1A, fn == 0)] : List (Instr × Nat × Bool)) →
      (hostReady s port fn = false → exec i s = .next s) ∧
      (hostReady s port fn = true → opc = o → may = false → TurnedAway s k 18 (exec i s)) ∧
      (hostReady s port fn = true → opc = o → may = true → entryStray s port fn = true → TurnedAway s k 17 (exec i s))) ∧
    (hostReady s port fn = true → cmdKnown opc = false → TurnedAway s k 17 (exec .launchCmd s)) ∧
    -- LAUNCH
    (∀ ctx, runs 0x01 → vfCtx s port fn = some ctx →
      let l := hostBlock s port a.toNat 16;
      (bitsAt a 0 6 ≠ 0 → TurnedAway s k 17 (exec .launchCmd s)) ∧
      (bitsAt a 0 6 = 0 → failed = true → TurnedAway s k 21 (exec .launchCmd s)) ∧
      (bitsAt a 0 6 = 0 → failed = false → (launchFault s ctx (lBits l 0x08 16 6) false a l).isSome = true →
        TurnedAway s k 17 (exec .launchCmd s)) ∧
      (bitsAt a 0 6 = 0 → failed = false → launchFault s ctx (lBits l 0x08 16 6) false a l = none →
        CompletesWith (exec .launchCmd s) fun t =>
          (∃ x, getLaunch t ctx (getCtx s ctx).nextHandle = some x ∧ x.blk = l ∧ x.stage = .waiting ∧ x.status = 0) ∧
          (getCtx t ctx).nextHandle = (getCtx s ctx).nextHandle + 1 ∧
          getFunc t k = { f with head := (f.head + 1) % 2 ^ f.qlog2, busy := false, owed := none } ∧ t.hostMem = s.hostMem)) ∧
    -- blocks
    (∀ ctx, runs 0x02 → vfCtx s port fn = some ctx →
      let l := controlBlock s port a.toNat;
      let fine : Prop := bitsAt a 0 6 = 0 ∧ blockValid s.W 2 l = true ∧ blkBits l 0 8 8 = ctx ∧ (getCtx s ctx).installed = true ∧
        regionFits (getCtx s ctx).blk l = true;
      (failed = true → TurnedAway s k 21 (exec .regset s)) ∧
      (failed = false → ¬ fine → TurnedAway s k 17 (exec .regset s)) ∧
      (failed = false → fine → Defers s k (exec .regset s) { BlockChange.none with ctx := ctx, region := some (blkBits l 0 16 6), blk := some l })) ∧
    (∀ ctx, runs 0x03 → vfCtx s port fn = some ctx →
      (mapFind (getCtx s ctx).regions a.toNat = none → TurnedAway s k 17 (exec .regdrop s)) ∧
      (∀ r, mapFind (getCtx s ctx).regions a.toNat = some r →
        (regionBusy s ctx a.toNat = true → TurnedAway s k 20 (exec .regdrop s)) ∧
        (regionBusy s ctx a.toNat = false →
          Defers s k (exec .regdrop s) { BlockChange.none with ctx := ctx, region := some a.toNat }))) ∧
    (runs 0x10 → fn = 0 →
      let l := controlBlock s port a.toNat;
      let ctx := blkBits l 0 8 8;
      let fine : Prop := bitsAt a 0 6 = 0 ∧ blockValid s.W 1 l = true ∧ ∀ r ∈ (getCtx s ctx).regions, regionFits l r.2 = true;
      (failed = true → TurnedAway s k 21 (exec .ctxset s)) ∧
      (failed = false → ¬ fine → TurnedAway s k 17 (exec .ctxset s)) ∧
      (failed = false → fine → ctxClash s ctx l = true → TurnedAway s k 19 (exec .ctxset s)) ∧
      (failed = false → fine → installCtx s ctx l = none → TurnedAway s k 19 (exec .ctxset s)) ∧
      (failed = false → fine → (installCtx s ctx l).isSome = true →
        Defers s k (exec .ctxset s) { BlockChange.none with ctx := ctx, blk := some l })) ∧
    (runs 0x11 → fn = 0 →
      (256 ≤ a.toNat ∨ (getCtx s a.toNat).installed = false → TurnedAway s k 17 (exec .ctxdrop s)) ∧
      (a.toNat < 256 → (getCtx s a.toNat).installed = true →
        (ctxBusy s a.toNat = true → TurnedAway s k 20 (exec .ctxdrop s)) ∧
        (ctxBusy s a.toNat = false → Defers s k (exec .ctxdrop s) { BlockChange.none with ctx := a.toNat }))) ∧
    (runs 0x1A → fn = 0 →
      let fine : Prop := a.toNat < 256 ∧ (getCtx s a.toNat).installed = true ∧
        ∀ i < 64, bitAt b i = true → i ≠ s.modNo ∧ portTo s i ≠ none;
      (¬ fine → TurnedAway s k 17 (exec .fabric s)) ∧
      (fine → ∃ w : Word, (∀ i < 64, w.getLsbD i = (bitAt b i && Config.farHolds i a.toNat)) ∧
        Defers s k (exec .fabric s) { BlockChange.none with ctx := a.toNat, modules := some w })) ∧
    -- switches, rotation, split
    (runs 0x12 → fn = 0 → Done s k (exec .switchCmd s) fun t =>
      t.agenda = s.agenda ++ [⟨if bitAt a 63 then .hswitchSchedule else .hswitchCancel, { EvArg.none with v := a }⟩] ∧
      t = { s with funcs := t.funcs, hostMem := t.hostMem, agenda := t.agenda }) ∧
    (runs 0x13 → fn = 0 →
      let l := (List.range b.toNat).map fun i => hostNat s port (a.toNat + i) 1;
      let sets (l : List Nat) : Prop := Done s k (exec .sched s) fun t => t.sched = l ∧
        t = { s with funcs := t.funcs, hostMem := t.hostMem, sched := l };
      (b = 0 → sets []) ∧
      (b = 1 ∨ 16 < b.toNat → TurnedAway s k 17 (exec .sched s)) ∧
      (2 ≤ b.toNat → b.toNat ≤ 16 → failed = true → TurnedAway s k 21 (exec .sched s)) ∧
      (2 ≤ b.toNat → b.toNat ≤ 16 → failed = false → (∃ c ∈ l, (getCtx s c).installed = false) ∨ ¬ l.Nodup →
        TurnedAway s k 17 (exec .sched s)) ∧
      (2 ≤ b.toNat → b.toNat ≤ 16 → failed = false → (∀ c ∈ l, (getCtx s c).installed = true) → l.Nodup → sets l)) ∧
    (runs 0x14 → port = 0 → fn = 0 →
      (256 < a.toNat → TurnedAway s k 17 (exec .hostSplit s)) ∧
      (a.toNat ≤ 256 → s.vfEnable ≠ 0 → TurnedAway s k 20 (exec .hostSplit s)) ∧
      (a.toNat ≤ 256 → s.vfEnable = 0 → Done s k (exec .hostSplit s) fun t =>
        t = { s with funcs := t.funcs, hostMem := t.hostMem, spl := a.toNat }))

/-- R413, R438, R473, R475 to R479: the keep's commands for power, telemetry, firmware, attestation and service, and the change of a block
at its boundary, whose command finishes with the wheel count E (layouts of TELEM and of the patch table: log 38; the end of a retrain: log
34). -/
def Obligations.KeepCommands : Prop :=
  ∀ s : State, 0 < s.W →
    let port := s.arg.port
    let fn := s.arg.fn
    let k := funcKey port fn
    let f := getFunc s k
    let opc := entryOpc s port fn
    let a := entryArg s port fn 0
    let b := entryArg s port fn 1
    let runs (o : Nat) : Prop := hostReady s port fn = true ∧ opc = o ∧ entryStray s port fn = false
    let rec_ := k / 512 * 2 ^ 64 + f.cqbase.toNat + 32 * f.cqtail
    let finishes (t : State) (q n w : Nat) : Prop :=
      let x := getFunc s q
      if x.cqen = true ∧ (x.cqtail + 1) % 2 ^ x.cqlog2 = x.cqhead then (getFunc t q).owed = some (n, w) ∧ (getFunc t q).busy = true
      else Answered s t q n w
    let clear (at_ n : Nat) : Prop := f.cqen = false ∨ rec_ + 32 ≤ at_ ∨ at_ + n ≤ rec_
    (∀ (i : Instr) (o : Nat) (may : Bool), (i, o, may) ∈ ([(.power, 0x15, fn == 0), (.telem, 0x16, true), (.patch, 0x17, port == 0 && fn == 0),
        (.attest, 0x18, true), (.serviceQuarantine, 0x19, fn == 0), (.serviceRetest, 0x19, fn == 0), (.serviceRetrain, 0x19, fn == 0),
        (.serviceRetireDome, 0x19, fn == 0)] : List (Instr × Nat × Bool)) → (i = .serviceRetrain → edgeWaiting s k = none) →
      (hostReady s port fn = false → exec i s = .next s) ∧
      (hostReady s port fn = true → opc = o → may = false → TurnedAway s k 18 (exec i s)) ∧
      (hostReady s port fn = true → opc = o → may = true → entryStray s port fn = true → TurnedAway s k 17 (exec i s))) ∧
    (runs 0x15 → fn = 0 →
      (6000 ≤ a.toNat → a.toNat ≤ 24000 → Done s k (exec .power s) fun t => t.power = { s.power with limitNext := some a.toNat }) ∧
      (a.toNat < 6000 ∨ 24000 < a.toNat → TurnedAway s k 17 (exec .power s))) ∧
    (runs 0x16 → Done s k (exec .telem s) fun t =>
      let x := 2 ^ 64 * port + a.toNat;
      t = { s with funcs := t.funcs, hostMem := t.hostMem } ∧ (clear x 64 → mNat t.hostMem x 8 = s.wheel % 2 ^ 64 ∧
        mNat t.hostMem (x + 8) 8 = s.power.reading % 2 ^ 64 ∧ mNat t.hostMem (x + 16) 8 = topTemp s % 2 ^ 64 ∧
        (∀ c, vfCtx s port fn = some c → mNat t.hostMem (x + 24) 8 = rawNow s c 5 % 2 ^ 64))) ∧
    (runs 0x17 → port = 0 → fn = 0 → 144 ≤ b.toNat → b.toNat ≤ 65664 →
      let l := hostBytes s port a.toNat b.toNat;
      let r := bytesNat (l.take 8) % 2 ^ 16;
      let v := bytesNat (l.take 8) / 2 ^ 16 % 2 ^ 32;
      let len := bytesNat ((l.drop 8).take 8);
      let fine : Prop := b.toNat = 128 + len ∧ len % 16 = 0 ∧ Config.routineKnown r = true ∧ (∀ p ∈ s.patches, p.routine = r → p.version < v) ∧
        (s.patches.length < 256 ∨ ∃ p ∈ s.patches, p.routine = r) ∧ Config.sigOk l = true;
      (s.arg.ok = true → TurnedAway s k 21 (exec .patch s)) ∧
      (s.arg.ok = false → ¬ fine → TurnedAway s k 17 (exec .patch s)) ∧
      (s.arg.ok = false → fine → Done s k (exec .patch s) fun t => (⟨r, v, (l.drop 64).take len⟩ : Patch) ∈ t.patches ∧
        (∀ p ∈ t.patches, p.routine = r → p.version = v) ∧ ∀ p : Patch, p.routine ≠ r → (p ∈ t.patches ↔ p ∈ s.patches))) ∧
    (runs 0x17 → port = 0 → fn = 0 → b.toNat < 144 ∨ 65664 < b.toNat → TurnedAway s k 17 (exec .patch s)) ∧
    (runs 0x18 → s.arg.ok = true → TurnedAway s k 21 (exec .attest s)) ∧
    (runs 0x18 → s.arg.ok = false → clear (2 ^ 64 * port + b.toNat) 288 → Done s k (exec .attest s) fun t =>
      let x := 2 ^ 64 * port + b.toNat;
      let part (o n : Nat) : List Byte := mBytes t.hostMem (x + o) n;
      part 0 0x20 = sha (part 0x20 0x40) ∧ part 0x20 0x40 = exactBytes 64 Config.identity ∧ part 0x60 8 = natBytes 8 Config.romVersion.toNat ∧
        part 0x68 0x20 = sha (patchBytes s.patches) ∧ (vfCtx s port fn = none → part 0x88 0x20 = natBytes 32 0) ∧
        (∀ c, vfCtx s port fn = some c → part 0x88 0x20 = sha ((getCtx s c).blk.toList.flatMap fun w => natBytes 8 w.toNat)) ∧
        part 0xA8 0x20 = hostBytes s port a.toNat 32 ∧ part 0xC8 8 = natBytes 8 s.wheel ∧ part 0xD0 16 = natBytes 16 0 ∧
        part 0xE0 0x40 = exactBytes 64 (Config.sign (part 0 0xE0))) ∧
    -- service
    (runs 0x19 → fn = 0 → serviceOk a = false →
      (swKind a = 1 ∨ swKind a = 0 ∨ 4 < swKind a → TurnedAway s k 17 (exec .serviceQuarantine s)) ∧
      (swKind a = 2 → TurnedAway s k 17 (exec .serviceRetest s)) ∧ (swKind a = 4 → TurnedAway s k 17 (exec .serviceRetireDome s)) ∧
      (swKind a = 3 → edgeWaiting s k = none → TurnedAway s k 17 (exec .serviceRetrain s))) ∧
    (runs 0x19 → fn = 0 → serviceOk a = true →
      let die := swTower a;
      let x := swX a;
      let y := swY a;
      let p := physNum x y;
      let ed (t : State) : Edge := vget (getDie t die).edges (swEdge a) Edge.reset;
      (∀ c, swKind a = 1 → holeOf s die y ≤ 8 → archOf s die x y = some c → (getCore s (coreKey die c)).quarantined = false →
        Done s k (exec .serviceQuarantine s) fun t => (∀ i < 8, (getThread t ⟨die, c, i⟩).run = .quarantined) ∧
          (getCore t (coreKey die c)).quarantined = true ∧ p ∈ (getDie t die).bad) ∧
      (swKind a = 1 → archOf s die x y = none → Done s k (exec .serviceQuarantine s) fun t => t.cores = s.cores ∧ p ∈ (getDie t die).bad) ∧
      (swKind a = 2 → physQuarantined s die x y = false → TurnedAway s k 17 (exec .serviceRetest s)) ∧
      (swKind a = 2 → physQuarantined s die x y = true →
        let n := mapGet 0 (getDie s die).tests p;
        CompletesWith (exec .serviceRetest s) (fun t => mapGet 0 (getDie t die).tests p = n + 1) ∧
        (Config.selfTest die x y n = false → CompletesWith (exec .serviceRetest s) fun t => Answered s t k 20 s.wheel ∧ t.cores = s.cores ∧
          (getDie t die).bad = (getDie s die).bad) ∧
        (Config.selfTest die x y n = true → Done s k (exec .serviceRetest s) fun t => p ∉ (getDie t die).bad ∧
          (archOf s die x y = none → t.cores = s.cores) ∧
          ∀ c, archOf s die x y = some c → getCore t (coreKey die c) = Core.reset ∧ c ∉ (getDie t die).absent)) ∧
      (swKind a = 3 → edgeWaiting s k = none → (ed s).suspended ≠ none → TurnedAway s k 20 (exec .serviceRetrain s)) ∧
      (swKind a = 3 → edgeWaiting s k = none → (ed s).suspended = none → CompletesWith (exec .serviceRetrain s) fun t =>
        ed t = { ed s with suspended := some ((s.wheel / s.W + 1) * s.W), cmd := some k } ∧ getFunc t k = { f with busy := true }) ∧
      (swKind a = 4 → 256 ≤ b.toNat → TurnedAway s k 17 (exec .serviceRetireDome s)) ∧
      (swKind a = 4 → b.toNat < 256 →
        ((getCtx s b.toNat).installed = false ∨ (domeMask s b.toNat).contains die = false → TurnedAway s k 17 (exec .serviceRetireDome s)) ∧
        ((getCtx s b.toNat).installed = true → (domeMask s b.toNat).contains die = true →
          ((getCtx s b.toNat).out = false → TurnedAway s k 20 (exec .serviceRetireDome s)) ∧
          (∀ n, retireDome s b.toNat die = .error n → TurnedAway s k n (exec .serviceRetireDome s)) ∧
          (∀ t, retireDome s b.toNat die = .ok t →
            Defers s k (exec .serviceRetireDome s) { BlockChange.none with ctx := b.toNat, dome := some die })))) ∧
    (∀ die e, edgeWaiting s k = some (die, e) → CompletesWith (exec .serviceRetrain s) fun t =>
      (e < 4 → (vget (getDie t die).edges e Edge.reset).begun = true) ∧
      ∀ (key : Nat) (c : Circuit) (u : Tid), (key, c) ∈ s.circuits → circOpen c s.wheel = true →
        (∃ h ∈ c.held, h / 1024 ∈ edgeLinks (dieX die) (dieY die) e) → u.slot < 8 → hasThread (getThread s u) = true →
        (getThread s u).ctx = c.ctx → bitAt (getThread t u).status 19 = true) ∧
    (let die := s.arg.die;
      let e := s.arg.i;
      let x := vget (getDie s die).edges e Edge.reset;
      (∀ w, x.suspended = some w → x.begun = true → x.failed = false → w + s.W ≤ s.wheel →
        (Config.retrainOk (4 * die + e) w = true → CompletesWith (exec .retrainComplete s) fun t =>
          vget (getDie t die).edges e Edge.reset = { x with suspended := none, begun := false, cmd := none } ∧ t.circuits = s.circuits) ∧
        (Config.retrainOk (4 * die + e) w = false → CompletesWith (exec .retrainComplete s) fun t =>
          (vget (getDie t die).edges e Edge.reset).failed = true ∧
            ∀ c < 64, (getCore t (coreKey die c)).quarantined = true ∧ c ∈ (getDie t die).absent) ∧
        (∀ k', x.cmd = some k' → CompletesWith (exec .retrainComplete s) fun t => finishes t k' 0 s.wheel)) ∧
      (∀ w, x.suspended = some w → x.begun = false ∨ x.failed = true ∨ s.wheel < w + s.W → exec .retrainComplete s = .next s) ∧
      (x.suspended = none → exec .retrainComplete s = .next s)) ∧
    -- the change of a block
    (s.blkChanges[s.arg.i]? = none → exec .blockChangeEffect s = .next s) ∧
    (∀ c, s.blkChanges[s.arg.i]? = some c →
      let s0 : State := { s with blkChanges := s.blkChanges.eraseIdx s.arg.i };
      let answers (t : State) (n : Nat) : Prop := t.blkChanges = s0.blkChanges ∧ ∀ q, c.cmd = some q → finishes t q.1 n c.e;
      let makes (p : State → Prop) : Prop := CompletesWith (exec .blockChangeEffect s) fun t => answers t 0 ∧ p t;
      let fails (n : Nat) : Prop := CompletesWith (exec .blockChangeEffect s) fun t => answers t n ∧
        t = { s with blkChanges := t.blkChanges, funcs := t.funcs, hostMem := t.hostMem };
      let x := getCtx s c.ctx;
      (s.wheel < c.e → exec .blockChangeEffect s = .next s) ∧
      (∀ r l, c.e ≤ s.wheel → c.region = some r → c.blk = some l →
        (x.installed = true → regionFits x.blk l = true → makes fun t => (getCtx t c.ctx).regions = mapSet x.regions r l) ∧
        (x.installed = false ∨ regionFits x.blk l = false → fails 17)) ∧
      (∀ r, c.e ≤ s.wheel → c.region = some r → c.blk = none →
        (regionBusy s0 c.ctx r = true → fails 20) ∧
        (regionBusy s0 c.ctx r = false → makes fun t => mapFind (getCtx t c.ctx).regions r = none)) ∧
      (∀ l, c.e ≤ s.wheel → c.region = none → c.blk = some l →
        (installCtx s0 c.ctx l = none → fails 19) ∧
        (∀ s1, installCtx s0 c.ctx l = some s1 → makes fun t => (getCtx t c.ctx).installed = true ∧ (getCtx t c.ctx).blk = l ∧
          (x.installed = true → (getCtx t c.ctx).out = x.out) ∧
          (x.installed = false → ((getCtx t c.ctx).out = true ↔ ∃ y ∈ s.ctxs, y.2.installed = true ∧ y.2.out = false ∧
              ∃ d < 160, blkSet l 0x50 d = true ∧ blkSet y.2.blk 0x50 d = true) ∧
            ∀ d < 160, blkSet l 0x50 d = true → ∀ h ∈ towerDomes d, ∀ r ∈ saveRanges (blkBits l 0x40 0 48) d h.1, ∀ i,
              r.1 ≤ i → i < r.1 + r.2 → mGet (getDome t h.1).mem i = 0))) ∧
      (∀ m, c.e ≤ s.wheel → c.region = none → c.blk = none → c.modules = some m →
        (installModules s0 c.ctx m = none → fails 19) ∧
        (∀ s1, installModules s0 c.ctx m = some s1 → makes fun t => (getCtx t c.ctx).modules = m)) ∧
      (∀ d, c.e ≤ s.wheel → c.region = none → c.blk = none → c.modules = none → c.dome = some d →
        (∀ n, retireDome s0 c.ctx d = .error n → fails n) ∧
        (∀ s1, d < 160 → retireDome s0 c.ctx d = .ok s1 → makes fun t => blkSet (getCtx t c.ctx).blk 0x68 d = false)) ∧
      (c.e ≤ s.wheel → c.region = none → c.blk = none → c.modules = none → c.dome = none →
        (ctxBusy s0 c.ctx = true → fails 20) ∧
        (ctxBusy s0 c.ctx = false → makes fun t => (getCtx t c.ctx).installed = false ∧ c.ctx ∉ t.sched ∧ ∀ z ∈ t.seals, z.ctx ≠ c.ctx)))

/-! ## Switches -/

/-- R419 to R424, R426 to R428, R469: the switch registers and what they ignore, the warning, the beginning of a switch, the save of the
images, the restore, the resumption of a core, and the rotation of contexts. -/
def Obligations.ScheduledSwitches : Prop :=
  ∀ s : State,
    let ctx := s.arg.ctx
    let v := s.arg.v
    let c := getCtx s ctx
    let now := s.wheel / s.W
    let onlyCtx (t : State) (c' : Ctx) : Prop := getCtx t ctx = c' ∧ (∀ k, k ≠ ctx → getCtx t k = getCtx s k) ∧ t = { s with ctxs := t.ctxs }
    let shut := swLocked s c.switch (regionWarn s ctx (swOutr c.switch))
    let has (r : Nat) : Prop := mapFind c.regions r ≠ none
    let rev := if swRev v < now + 64 then now + 64 else swRev v
    -- the registers
    (shut = true → exec .switchSchedule s = .next s ∧ exec .switchCancel s = .next s) ∧
    (swOutr v = swInr v ∨ ¬ has (swOutr v) ∨ ¬ has (swInr v) → exec .switchSchedule s = .next s) ∧
    (shut = false → swOutr v ≠ swInr v → has (swOutr v) → has (swInr v) → now + 64 < 2 ^ 40 →
      CompletesWith (exec .switchSchedule s) fun t => ∃ x, onlyCtx t { c with switch := x, warned := false } ∧
        swArm x = true ∧ swOutr x = swOutr v ∧ swInr x = swInr v ∧ swRev x = rev ∧ x &&& 0x7FC0C00000000000 = 0) ∧
    (shut = false → CompletesWith (exec .switchCancel s) fun t => ∃ x, onlyCtx t { c with switch := x } ∧ swArm x = false) ∧
    (hswitchShut s v = true → exec .hswitchSchedule s = .next s ∧ exec .hswitchCancel s = .next s) ∧
    ((getCtx s (swOutc v)).installed = false ∨ (getCtx s (swInc v)).installed = false → exec .hswitchSchedule s = .next s) ∧
    (∀ y die, swInc v ≠ swOutc v → y ∈ s.ctxs → y.2.installed = true → y.2.out = false → y.1 ≠ swOutc v → y.1 ≠ swInc v →
      getCtx s y.1 = y.2 → die < 160 → ctxTower s (swInc v) die = true → ctxTower s y.1 die = true → exec .hswitchSchedule s = .next s) ∧
    (hswitchShut s v = false → (getCtx s (swOutc v)).installed = true → (getCtx s (swInc v)).installed = true →
      (swInc v = swOutc v ∨ towersTaken s (swInc v) (swOutc v) = false) → now + 64 < 2 ^ 40 →
      CompletesWith (exec .hswitchSchedule s) fun t => ∃ x, t = { s with hswitch := x, hwarned := false } ∧
        swArm x = true ∧ swOutc x = swOutc v ∧ swInc x = swInc v ∧ swRev x = rev ∧ x &&& 0x7F00000000000000 = 0) ∧
    (hswitchShut s v = false → CompletesWith (exec .hswitchCancel s) fun t => ∃ x, t = { s with hswitch := x } ∧ swArm x = false) ∧
    -- the warning, from REV - WARN on
    (s.hwarned = false → swArm s.hswitch = true → (swRev s.hswitch - ctxWarn s (swOutc s.hswitch)) * s.W ≤ s.wheel → swOutc s.hswitch = ctx →
      CompletesWith (exec .switchWarning s) fun t => t.hwarned = true ∧ ∀ u : Tid, u.core < 64 → u.slot < 8 →
        hasThread (getThread s u) = true → (getThread s u).ctx = ctx → bitAt (getThread t u).status 18 = true) ∧
    (c.warned = false → swArm c.switch = true → (swRev c.switch - regionWarn s ctx (swOutr c.switch)) * s.W ≤ s.wheel →
      CompletesWith (exec .switchWarning s) fun t => (getCtx t ctx).warned = true ∧ ∀ u : Tid, u.core < 64 → u.slot < 8 →
        hasThread (getThread s u) = true → (getThread s u).ctx = ctx → (getThread s u).region = swOutr c.switch →
        bitAt (getThread t u).status 18 = true) ∧
    ((hwarnDue s = false ∨ swOutc s.hswitch ≠ ctx) → warnDue s ctx = false → exec .switchWarning s = .next s) ∧
    -- the beginning, a context's switch before that of its regions
    (hswitchDue s = true → swOutc s.hswitch = ctx → CompletesWith (exec .scheduledSwitch s) fun t => ∃ w,
      t = { s with switching := s.switching.filter (fun x => x.ctx != ctx) ++ [w] } ∧ w.ctx = ctx ∧ w.regions = none ∧ w.inc = swInc s.hswitch ∧ (c.out = false → w.stage = .drain) ∧ (c.out = true → w.stage = .save)) ∧
    ((hswitchDue s = false ∨ swOutc s.hswitch ≠ ctx) → switchDue s ctx = true → CompletesWith (exec .scheduledSwitch s) fun t =>
      ∃ w, t = { s with switching := s.switching ++ [w] } ∧ w.ctx = ctx ∧ w.regions = some (swOutr c.switch, swInr c.switch) ∧
        (swOutr c.switch ∉ c.outRegions → w.stage = .drain) ∧ (swOutr c.switch ∈ c.outRegions → w.stage = .save)) ∧
    ((hswitchDue s = false ∨ swOutc s.hswitch ≠ ctx) → switchDue s ctx = false → exec .scheduledSwitch s = .next s) ∧
    -- the save
    (switchOf s ctx .drain = none → exec .switchSave s = .next s) ∧
    (∀ w, switchOf s ctx .drain = some w →
      let who := switchWho w;
      (switchDrained s who = false → exec .switchSave s = .next s) ∧
      (switchDrained s who = true → CompletesWith (exec .switchSave s) fun t =>
        (∃ due, s.wheel ≤ due ∧ t.switching = s.switching.map fun x => if x = w then { w with stage := .save, due := due } else x) ∧
        (who.region = none → (getCtx t ctx).out = true) ∧ (∀ r, who.region = some r → r ∈ (getCtx t ctx).outRegions) ∧
        (∀ die core i, die ∈ who.towers s → core < 64 → who.core s die core = true → i < 8 →
          hasThread (getThread t ⟨die, core, i⟩) = false ∧
          (getThread t ⟨die, core, i⟩).hstatus = (getThread s ⟨die, core, i⟩).hstatus ∧
          (getThread t ⟨die, core, i⟩).hdeleg = (getThread s ⟨die, core, i⟩).hdeleg) ∧
        (∀ die, who.towers s = [die] → (∀ u ∈ threadsWhere s who.has, (getThread s u).mwait = none) →
          ∀ o, o < 0x4000000 → o % 8 = 0 → beatSaved who s die (o / 64) = true →
            imageWord who t die o = if predUnused s die o then imageWord who s die o else towerDW who s die o))) ∧
    -- the restore
    (switchOf s ctx .save = none → exec .switchRestore s = .next s) ∧
    (∀ w, switchOf s ctx .save = some w →
      (s.wheel < w.due → exec .switchRestore s = .next s) ∧
      (w.due ≤ s.wheel → CompletesWith (exec .switchRestore s) fun t =>
        t.switching = s.switching.filter (· ≠ w) ∧ (w.regions = none → swArm t.hswitch = false) ∧
        (w.regions ≠ none → swArm (getCtx t ctx).switch = false) ∧
        (∀ a b, w.regions = some (a, b) → b ∈ c.outRegions → b ∉ (getCtx t ctx).outRegions) ∧
        (w.regions = none → w.inc ≠ ctx → (getCtx s w.inc).out = true → (getCtx t w.inc).out = false ∧
          (swArm (getCtx s w.inc).switch = false → ∀ die core, die ∈ ctxTowers s w.inc → core < 64 → coreGone s (coreKey die core) = false →
            ∀ a < 0x80000, let p := imageBeat (cBits s w.inc 0x40 0 48) die ((0x100000 * core + a) / 64);
              mGet (getCore t (coreKey die core)).tcm a = mGet (getDome s p.1).mem (p.2 + a % 64))))) ∧
    (let k := coreKey s.arg.die s.arg.unit;
      ((getCore s k).held = true → railCarries s k = true → CompletesWith (exec .coreResume s) fun t =>
        getCore t k = { getCore s k with held := false } ∧ ∀ j, j ≠ k → getCore t j = getCore s j) ∧
      ((getCore s k).held = false ∨ railCarries s k = false → exec .coreResume s = .next s)) ∧
    -- the rotation
    (∀ a b, quantumDue s = true → schedTurn s = some (a, b) → a < 256 → b < 256 → now < 2 ^ 40 →
      (getCtx s a).resumed + cBits s a 0x18 0 32 < 2 ^ 40 → CompletesWith (exec .schedQuantum s) fun t =>
        ∃ x, t = { s with hswitch := x, hwarned := false } ∧ swArm x = true ∧ swOutc x = a ∧ swInc x = b ∧
          swRev x = max ((getCtx s a).resumed + cBits s a 0x18 0 32) now) ∧
    (quantumDue s = false → exec .schedQuantum s = .next s)

/-! ## Power, clocks and the lantern -/

/-- R138, R338, R341, R466 to R474: power-on, the repair of a lane, frequency levels and their registers, the rails and DUTY at an epoch
boundary, and the module's power reading. -/
def Obligations.PowerAndLevels : Prop :=
  ∀ s : State,
    let now := s.wheel / s.W
    let rest : Rail := ⟨550, 0, 550⟩
    -- power-on
    (let n := s.arg.n;
      let pass (die x y : Nat) : Prop := Config.selfTest die x y 0 = true;
      let fine : Prop := s.boot = 0 ∧ 64 ≤ n ∧ n ≤ 1024 ∧ n % 16 = 0 ∧ s.arg.unit < 64;
      (¬ fine → exec .powerOn s = .next s) ∧
      (fine → CompletesWith (exec .powerOn s) fun t => t.W = n ∧ t.wheel = s.arg.i ∧ t.modNo = s.arg.unit ∧ t.boot = 6 ∧
        t.ctxs = s.ctxs ∧ t.domes = s.domes ∧ t.hostMem = s.hostMem ∧
        (∀ die y, die < 160 → y < 8 →
          (∀ x ≤ 8, physNum x y ∈ (getDie t die).bad ↔ physNum x y ∈ (getDie s die).bad ∨ ¬ pass die x y) ∧
          ((∀ x < 8, pass die x y) → mapFind t.shifted (8 * die + y) = mapFind s.shifted (8 * die + y)) ∧
          (¬ pass die 8 y → mapFind t.shifted (8 * die + y) = mapFind s.shifted (8 * die + y) ∧
            ∀ x < 8, ¬ pass die x y → 8 * y + x ∈ (getDie t die).absent ∧ (getCore t (coreKey die (8 * y + x))).quarantined = true) ∧
          (∀ x < 8, pass die 8 y → ¬ pass die x y → (∀ x' < x, pass die x' y) → mapFind t.shifted (8 * die + y) = some x ∧
            ∀ x' < 8, x < x' → ¬ pass die x' y → 8 * y + (x' - 1) ∈ (getDie t die).absent ∧
              (getCore t (coreKey die (8 * y + (x' - 1)))).quarantined = true)) ∧
        ∀ p < 32, let b := s.arg.data.toNat / 2 ^ (16 * p) % 2 ^ 16;
          (b % 2 = 1 → 1 ≤ b / 2 ^ 12 → mapFind t.ports p = some { FabPort.reset with
            up := true, peermod := b / 2 % 64, peerport := b / 2 ^ 7 % 32, lanes := min 8 (b / 2 ^ 12), f := Config.pathDelay p + 24 }) ∧
          (b % 2 = 0 ∨ b / 2 ^ 12 = 0 → mapFind t.ports p = none))) ∧
    (s.arg.unit < 4 → CompletesWith (exec .laneRepair s) fun t => t = { s with dies := t.dies } ∧
      let x := vget (getDie s s.arg.die).edges s.arg.unit Edge.reset;
      let y := vget (getDie t s.arg.die).edges s.arg.unit Edge.reset;
      y = { x with repaired := setIns x.repaired s.arg.i } ∧ ∀ d, d ≠ s.arg.die → getDie t d = getDie s d) ∧
    -- levels
    (let v := s.arg.v;
      let ctx := bitsAt v 48 8;
      let level := fLevel v;
      let rev := max (fRev v) (now + 64);
      (level < 6 ∨ 18 < level → exec .fcmdWrite s = .next s) ∧
      (6 ≤ level → level ≤ 18 → fArm (fcmdReg s ctx) = true → exec .fcmdWrite s = .next { s with fcmdSel := ctx }) ∧
      (6 ≤ level → level ≤ 18 → fArm (fcmdReg s ctx) = false → fArm v = false → CompletesWith (exec .fcmdWrite s) fun t =>
        t.fcmdSel = ctx ∧ fArm (fcmdReg t ctx) = false ∧ fLevel (fcmdReg t ctx) = level) ∧
      (6 ≤ level → level ≤ 18 → fArm (fcmdReg s ctx) = false → fArm v = true → 0 < s.W → levelRev s (fcmdNames s ctx) level rev < 2 ^ 40 →
        CompletesWith (exec .fcmdWrite s) fun t => let x := fcmdReg t ctx;
          t.fcmdSel = ctx ∧ fArm x = true ∧ fLevel x = level ∧ rev ≤ fRev x ∧ ((∀ c ∈ fcmdNames s ctx, level ≤ c.2.level) → fRev x = rev) ∧
          ∀ i < 10, ∀ c ∈ fcmdNames s ctx, onRail c.2 i = true → c.2.level < level →
            railArrives s (vget s.rails i rest) (levelMv level) ≤ fRev x * s.W)) ∧
    (let ctx := s.arg.ctx;
      (fcmdDue s ctx = false → exec .frequencyChange s = .next s) ∧
      (fcmdDue s ctx = true → CompletesWith (exec .frequencyChange s) fun t => fArm (fcmdReg t ctx) = false ∧
        (ctx ≠ 255 → (getCtx t ctx).level = fLevel (fcmdReg s ctx) ∧ ∀ k, k ≠ ctx → getCtx t k = getCtx s k) ∧
        (ctx = 255 → ∀ k, (getCtx s k).installed = true → (getCtx t k).level = fLevel (fcmdReg s ctx)))) ∧
    -- the epoch
    (newEpoch s = false → exec .powerEpoch s = .next s) ∧
    (newEpoch s = true → CompletesWith (exec .powerEpoch s) fun t =>
      let s1 : State := { s with rails := t.rails, power := t.power, dies := t.dies };
      t.power = { s.power with limit := s.power.limitNext.getD s.power.limit, limitNext := none } ∧
      (∀ i < 10, let r := vget s.rails i rest;
        vget t.rails i rest = if railVote s i = r.target then r else ⟨railMv r s.wheel, s.wheel, railVote s i⟩) ∧
      (∀ d < 160, let n := Config.towerTemp (160 * s.wheel + d);
        (110000 < n → (getDie t d).hot = true) ∧ (n < 100000 → (getDie t d).hot = false) ∧
        (100000 ≤ n → n ≤ 110000 → (getDie t d).hot = (getDie s d).hot)) ∧
      (∀ k, (getCore t k).epochRot = 0 ∧ (getCore t k).epochIssued = 0 ∧ (getCore t k).epochClosed = false) ∧
      ∀ c ∈ runningCtxs s, (∀ d < 160, ctxTower s c.1 d = true → ∀ c' ∈ runningCtxs s, ctxTower s c'.1 d = true → c'.1 = c.1) →
        let cores := ctxCores s c.1;
        let level := (getCtx s c.1).level;
        ∃ u, 1 ≤ u ∧ u ≤ 16 ∧ (u = 1 ∨ ctxPower s1 level u cores ≤ powerShare s1 c.1) ∧
          (∀ u', u < u' → u' ≤ 16 → powerShare s1 c.1 < ctxPower s1 level u' cores) ∧
          ∀ k ∈ cores, let d := if (getDie t (k / 64)).hot then 1 else min (coreDemand (getCore s k)) u;
            (getCore t k).dutyNext = some d ∨ ((getCore t k).dutyNext = none ∧ (getCore t k).duty = d)) ∧
    -- telemetry
    (s.wheel < s.telemAt → exec .telemetryRead s = .next s) ∧
    (s.telemAt ≤ s.wheel → let p := s.power;
      let mw := s.arg.n;
      exec .telemetryRead s = .next { s with telemAt := s.telemAt + 2000000, power := { p with
        reading := mw, excess := if p.limit * 1000 < mw then p.excess + (mw - p.limit * 1000) else
          if mw * 100 ≤ p.limit * 1000 * 95 then 0 else p.excess } })

/-! ## The fabric -/

/-- R478, R482 to R484, R488 to R490: the wheel offset, the suspension and resumption of the ports, cells that arrive or are lost, lanes
that are shed, retrained or fail, and a port that goes down (answers of other modules: log 41). -/
def Obligations.FabricLinks : Prop :=
  ∀ s : State, 0 < s.W →
    let p := s.arg.port
    let x := getPort s p
    let link := portLinkNo p
    let told (t : State) (links : List Nat) : Prop := ∀ (key : Nat) (c : Circuit) (u : Tid), (key, c) ∈ s.circuits → circOpen c s.wheel = true →
      (∃ h ∈ c.held, h / 1024 ∈ links) → u.slot < 8 → hasThread (getThread s u) = true → (getThread s u).ctx = c.ctx →
      bitAt (getThread t u).status 19 = true
    let port (t : State) (y : FabPort) : Prop := getPort t p = y ∧ ∀ q, q ≠ p → getPort t q = getPort s q
    let boundary := (s.wheel / s.W + 1) * s.W
    -- the wheel offset
    (let z := s.arg.z;
      exec .ptpMessage s = .next { s with offs := z, offsBelow := if z.natAbs < 250 then some (s.offsBelow.getD s.wheel) else none }) ∧
    (500 < s.offs.natAbs → s.offsSince = none → CompletesWith (exec .portOffsetSuspend s) fun t => t.offsSince = some s.wheel ∧
      told t ((List.range 32).map portLinkNo)) ∧
    (s.offs.natAbs ≤ 500 ∨ s.offsSince ≠ none → exec .portOffsetSuspend s = .next s) ∧
    (∀ w, s.offsSince ≠ none → s.offsBelow = some w → w + 16 * s.W ≤ s.wheel → exec .portOffsetResume s = .next { s with offsSince := none }) ∧
    (s.offsSince = none ∨ s.offsBelow = none ∨ (∃ w, s.offsBelow = some w ∧ s.wheel < w + 16 * s.W) → exec .portOffsetResume s = .next s) ∧
    -- cells
    (x.up = false → exec .fabricCellReceive s = .next s) ∧
    (x.up = true → s.arg.ok = false → CompletesWith (exec .fabricCellReceive s) fun t => port t { x with lostc := x.lostc + 1 }) ∧
    (∀ key h, x.up = true → s.arg.n < 65536 → cellCircuit s s.arg.n s.arg.die = some (key, h) →
      (s.arg.ok = true → CompletesWith (exec .fabricCellReceive s) fun t => ∃ f, t = { s with words := s.words ++ [f] } ∧ f.circ = key ∧
        f.beat = ⟨s.arg.data, s.arg.env⟩ ∧ f.eject = false ∧ f.port = 8 * h.router + h.dir ∧ s.wheel ≤ f.at_ ∧ f.at_ < s.wheel + s.W ∧
        (f.at_ + 1) % s.W = (s.arg.i + x.f) % s.W) ∧
      (s.arg.ok = false → bitsAt s.arg.env 0 4 ≤ 1 → CompletesWith (exec .fabricCellReceive s) fun t => ∀ u : Tid, u.slot < 8 → ∀ j < 4,
        getRx (getThread t u) j = if (getRx (getThread s u) j).circ = some key then { getRx (getThread s u) j with overflow := true }
          else getRx (getThread s u) j) ∧
      (s.arg.ok = false → 2 ≤ bitsAt s.arg.env 0 4 → bitsAt s.arg.env 0 4 ≤ 4 → CompletesWith (exec .fabricCellReceive s) fun t =>
        ∀ u : Tid, u.slot < 8 → hasThread (getThread s u) = true → (getThread s u).ctx = (getCircuit s key).ctx →
          bitAt (getThread t u).status 19 = true)) ∧
    (∀ r, x.up = true → 65536 ≤ s.arg.n → findReq (getDie s s.arg.die) (s.arg.n - 65536) = some r →
      (∀ a m c, r.stage = .accepted → r.accs = [a] → a.home = .far m c → a.done = false → r.kind = .load →
        CompletesWith (exec .fabricCellReceive s) fun t => ∃ y, findReq (getDie t s.arg.die) r.id = some y ∧ y.stage = .performed s.wheel ∧
          (s.arg.ok = true → y.poisoned = r.poisoned ∧ y.accs = [{ a with
            data := s.arg.data.toNat / 2 ^ (8 * (a.cpa % 64)) / 2 ^ a.bit % 2 ^ a.w, done := true, bad := false }]) ∧
          (s.arg.ok = false → y.poisoned = true)) ∧
      (∀ va n far m c w, r.stage = .walking va n .sent far →
        walkVa s (getDie s s.arg.die) r.ctx r.region r.mode va (Walk.start n far) = (.need (.far m c), w) →
        CompletesWith (exec .fabricCellReceive s) fun t => ∃ e, findReq (getDie t s.arg.die) r.id =
            some { r with stage := .walking va n (.reply s.wheel) (far ++ [((m, c), e)]) } ∧
          (s.arg.ok = true → e = s.arg.data.toNat / 2 ^ (8 * (c % 64)) % 2 ^ 64) ∧ (s.arg.ok = false → e = 0))) ∧
    -- lanes
    (∀ n e, x.next = some (n, e) → e ≤ s.wheel →
      (CompletesWith (exec .tgtShed s) fun t => port t { x with lanes := n, next := none, suspended := false }) ∧
      CompletesWith (exec .tgtRetrain s) fun t => port t { x with lanes := n, next := none, suspended := false }) ∧
    (applyLanes s p = none → let n := s.arg.n;
      (n = 0 ∨ x.lanes ≤ n → exec .tgtShed s = .next s) ∧
      (1 ≤ n → n < x.lanes → (∃ c ∈ s.circuits, onLink s link c.2 = true ∧ keptSlots s link n c.2 = []) →
        CompletesWith (exec .tgtShed s) fun t => port t { x with tgt := x.lanes } ∧ t.circuits = s.circuits) ∧
      (1 ≤ n → n < x.lanes → (∀ c ∈ s.circuits, onLink s link c.2 = true → keptSlots s link n c.2 ≠ []) →
        (∀ c ∈ s.circuits, getCircuit s c.1 = c.2) → CompletesWith (exec .tgtShed s) fun t => ∃ e, s.wheel < e ∧ e % s.W = 0 ∧
          port t { x with tgt := n, next := some (n, e) } ∧
          ∀ c ∈ s.circuits, onLink s link c.2 = true → (∃ i ∈ c.2.slots, i ∉ keptSlots s link n c.2) →
            (c.2.mem = none → ∃ e' < e, (⟨e', c.1, .slots (keptSlots s link n c.2), none⟩ : Change) ∈ t.changes) ∧
            (c.2.mem ≠ none → (getCircuit t c.1).slots = keptSlots s link n c.2)) ∧
      (8 < n ∨ n < x.lanes → exec .tgtRetrain s = .next s) ∧
      (n ≤ 8 → x.lanes ≤ n → CompletesWith (exec .tgtRetrain s) fun t => t = { s with ports := t.ports } ∧
        port t { x with tgt := n, next := if x.up = true ∧ x.lanes < n then some (n, boundary) else x.next })) ∧
    -- failures
    (x.failAt = none → (x.up = false → exec .laneFailure s = .next s ∧ exec .portDown s = .next s) ∧
      (x.up = true → CompletesWith (exec .portDown s) fun t => t = { s with ports := t.ports } ∧
        port t { x with up := false, failAt := some (boundary, 0), next := none }) ∧
      (x.up = true → x.lanes ≤ 1 → CompletesWith (exec .laneFailure s) fun t => t = { s with ports := t.ports } ∧
        port t { x with up := false, failAt := some (boundary, 0), next := none }) ∧
      (x.up = true → 1 < x.lanes → CompletesWith (exec .laneFailure s) fun t => t = { s with ports := t.ports } ∧
        port t { x with failAt := some (boundary, x.lanes - 1) })) ∧
    (∀ e n, x.failAt = some (e, n + 1) →
      (s.wheel < e → 0 < n → CompletesWith (exec .laneFailure s) fun t => port t { x with failAt := some (e, n) }) ∧
      (s.wheel < e → n = 0 → x.up = true → CompletesWith (exec .laneFailure s) fun t =>
        port t { x with up := false, failAt := some (boundary, 0), next := none }) ∧
      (e ≤ s.wheel → (∃ c ∈ s.circuits, onLink s link c.2 = true ∧ keptSlots s link (n + 1) c.2 = []) → x.up = true →
        CompletesWith (exec .laneFailure s) fun t => told t [link] ∧ (getPort t p).up = false ∧ (getPort t p).suspended = true ∧
          (getPort t p).failAt = some (boundary, 0)) ∧
      (e ≤ s.wheel → (∀ c ∈ s.circuits, onLink s link c.2 = true → keptSlots s link (n + 1) c.2 ≠ []) →
        CompletesWith (exec .laneFailure s) fun t => told t [link] ∧ (getPort t p).suspended = true ∧ (getPort t p).failAt = none ∧
          ∃ e', s.wheel < e' ∧ e' % s.W = 0 ∧ (getPort t p).next = some (n + 1, e'))) ∧
    (∀ e, x.failAt = some (e, 0) → exec .laneFailure s = .next s ∧ (s.wheel < e → exec .portDown s = .next s) ∧
      (e ≤ s.wheel → CompletesWith (exec .portDown s) fun t => told t [link] ∧ (getPort t p).failAt = none ∧
        ∀ c ∈ s.circuits, getCircuit s c.1 = c.2 → c.2.mem = none → onLink s link c.2 = true →
          (getCircuit t c.1).closed = some e ∧ (⟨e, c.1, .close, none⟩ : Change) ∈ t.changes))

/-! ## The machine as a whole -/

/-- R29, R31, R32, R58: a NOP completes with no effect, and a syllable that its guard suppresses is a NOP, whatever it is. -/
def Obligations.GuardsSuppress : Prop :=
  (∀ (s : State) (g : Guard), s.pair = .alone → exec (.nop g) s = .next (completes s [])) ∧
  (∀ (i : Instr) (s : State) (g : Guard) (op : BitVec 7) (body : BitVec 40), i.wellFormed = true →
    (encodeS i = some (syl g op body) → guardBit g (me s) 0 = false → exec i s = exec (.nop g) s) ∧
    (encodeV i = some (syl g op body) → (∀ k < 64, guardBit g (me s) k = false) → exec i s = exec (.nop g) s)) ∧
  (∀ (th : Thread) (k : Nat) (p q r : BitVec 3), guardBit ⟨0xFF, p, q, r⟩ th k = true ∧ guardBit ⟨0, p, q, r⟩ th k = false) ∧
  (∀ (th : Thread) (k : Nat) (tt : BitVec 8), k < 64 → guardBit ⟨tt, 0, 0, 0⟩ th k = tt.getLsbD 7) ∧
  decodeS 0 = .ok (.nop ⟨0, 0, 0, 0⟩) ∧ decodeV 0 = .ok (.nop ⟨0, 0, 0, 0⟩) ∧
  (∀ (th : Thread) (k : Nat) (tt : BitVec 8) (p q r : BitVec 3), guardBit ⟨tt, p, q, r⟩ th k =
    tt.getLsbD (4 * (if bitAt (getP th p.toNat) k then 1 else 0) + 2 * (if bitAt (getP th q.toNat) k then 1 else 0) +
      if bitAt (getP th r.toNat) k then 1 else 0))

/-- R35 to R37: the two syllables of a bundle: both read what was there before the bundle and both write; where both write one register,
predicate or send port the bundle traps bundle-conflict with the operand number of the S syllable, and s0 and p0 never conflict. -/
def Obligations.BundlesOfTwo : Prop :=
  ∀ (s : State) (g g' : Guard), s.pair = .first → guardBit g (me s) 0 = true → (∀ k < 64, guardBit g' (me s) k = true) →
    let conflict (a b : Instr) (n : Nat) : Prop := ∃ t, exec a s = .next t ∧
      exec b t = .next (takeTrap { s with pair := .alone } s.cur 2 (word n) false 0 false)
    (∀ (r : BitVec 5) (ra : SOp) (x : SrcB) (ty : Ty) (va : VOp) (i : BitVec 8), r ≠ 0 → i.toNat < 512 / tyWidth ty →
      conflict (.add g (.s r) ra x) (.vext g' ty (.s r) va i) r.toNat) ∧
    (∀ (n : BitVec 2) (ra : SOp) (x : SrcB) (ty : Ty) (rm : Rm) (sat : Bool) (va : VOp) (vb : VSrcB),
      conflict (.add g (.port n) ra x) (.vadd g' ty rm sat (.port n) va vb) (32 + n.toNat)) ∧
    (∀ (p : BitVec 3) (m m' : PMode) (c c' : Cond) (ra rb : SOp) (ty : Ty) (va : VOp) (vb : VSrcB), p ≠ 0 →
      conflict (.cmp g p 0 m c ra rb) (.vcmp g' p 0 m' c' ty va vb) p.toNat) ∧
    (∀ (a b c : BitVec 5) (d : BitVec 4) (ty : Ty), Quiet s → a ≠ 0 → streamS (me s) a.toNat = none → streamS (me s) b.toNat = none →
      streamS (me s) c.toNat = none → streamV (me s) d.toNat = none → getFeS (me s) a.toNat = .full → getFeS (me s) b.toNat = .full →
      getFeS (me s) c.toNat = .full → getFeV (me s) d.toNat = .full →
      ∃ t u, exec (.add g (.s a) (.s b) (.reg (.s c))) s = .next t ∧ exec (.vbc g' ty (.v d) (.s a)) t = .next u ∧
        getS (me u) a.toNat = getS (me s) b.toNat + getS (me s) c.toNat ∧
        (∀ k < 512 / tyWidth ty, vElem (tyWidth ty) (getV (me u) d.toNat) k = (getS (me s) a.toNat).toNat % 2 ^ tyWidth ty) ∧
        goesOnAt (me u) ((me s).pc + 16) ∧ keepsScalars (me s) (me u) [a.toNat] ∧ keepsVectors (me s) (me u) [d.toNat]) ∧
    (∀ (ra : SOp) (x : Word) (i : BitVec 23) (ty : Ty) (r : BitVec 4) (j : BitVec 8), Quiet s →
      Reads s false (opsDAB (.s 0) ra (.imm i)) (x, i.signExtend 64) [] → streamV (me s) r.toNat = none → getFeV (me s) r.toNat = .full →
      j.toNat < 512 / tyWidth ty → ∃ t u, exec (.add g (.s 0) ra (.imm i)) s = .next t ∧ exec (.vext g' ty (.s 0) (.v r) j) t = .next u ∧
        goesOnAt (me u) ((me s).pc + 16) ∧ keepsScalars (me s) (me u) [])

/-- R43, R58, R101, R111, R122, R457 (the schedule of events is log 3's): what one step does. A thread whose turn it is, running in an
open rotation and with nothing that comes first, has the bundle at its pc fetched and decoded, and runs it; an illegal syllable traps. -/
def Obligations.StepRunsDecoded : Prop :=
  ∀ s : State,
    (∀ e l, s.agenda = e :: l → step s = onNext (exec e.what { s with agenda := l, arg := e.arg }) refill) ∧
    (∀ f w i, s.agenda = [] → s.lanRun = some f → (getLantern s f.die).code[f.index]? = some w → decodeLantern w = .ok i → step s = exec i s) ∧
    (s.agenda = [] → s.lanRun = none →
      let t := s.cur
      let th := me s
      let c := getCore s (tidKey t)
      hasThread th = true → c.held = false → ctxFrozen s th.ctx th.region = false → rotOpen c = true → th.run = .running →
      (∀ x, dueInterrupt th = some x → step s = onNext (exec .interrupt { s with arg := { EvArg.none with t := t, die := t.die } }) (afterSlot s)) ∧
      (dueInterrupt th = none → lockHeld s t = false → breakMatch th = none →
        (∀ b, th.ranOff = false → fetchBundle (codeCore s t) th.pc = some b →
          (∀ i g, decodeS (bundleS b) = .ok i → decodeV (bundleV b) = .ok (.nop g) →
            step s = onNext (exec i { s with pair := .alone }) (afterSlot s)) ∧
          (∀ g i, decodeS (bundleS b) = .ok (.nop g) → decodeV (bundleV b) = .ok i →
            step s = onNext (exec i { s with pair := .alone }) (afterSlot s)) ∧
          (∀ i j u, decodeS (bundleS b) = .ok i → decodeV (bundleV b) = .ok j → (∀ g, i ≠ .nop g) → (∀ g, j ≠ .nop g) →
            exec i { s with pair := .first } = .next u → step s = onNext (exec j u) (afterSlot s)) ∧
          (∀ e, decodeS (bundleS b) = .error e → step s = .next (afterSlot s (takeTrap s t 1 (bundleS b) false 0 false))) ∧
          (∀ i e, decodeS (bundleS b) = .ok i → decodeV (bundleV b) = .error e →
            step s = .next (afterSlot s (takeTrap s t 1 (bundleV b) true 0 false)))) ∧
        (th.fresh = 0 → (th.ranOff = true ∨ (fetchBundle (codeCore s t) th.pc = none ∧ ¬ landed s th.pc ∧ bitsAt th.pc 28 36 = 0 ∧
          bitsAt th.pc 0 4 = 0)) → step s = .next (afterSlot s (takeTrap s t 12 th.pc false 0 false))))) ∧
    (∀ (c : Core) (pc : Word) (b : Bundle), fetchBundle c pc = some b ↔ bitsAt pc 28 36 = 0 ∧ bitsAt pc 0 4 = 0 ∧
      ∃ g, findSeg c (bitsAt pc 16 12) = some g ∧ g.bundles[bitsAt pc 4 12]? = some b)

/-- R44, R45 and the entries of the instructions: words as the manual prints them, bit by bit, and the instructions that they stand for.
-/
def Obligations.DecodeWords : Prop :=
  let on : Guard := ⟨0xFF, 0, 0, 0⟩
  decodeS 0 = .ok (.nop ⟨0, 0, 0, 0⟩) ∧
  decodeS 0xFF00011460800064 = .ok (.add on (.s 5) (.s 6) (.imm 100)) ∧
  decodeS 0xFF00141C8180070C = .ok (.bext on true (.s 7) (.s 8) (.imm 0x70C)) ∧
  decodeS 0xFF002129213FFFFD = .ok (.cmpi on 1 2 .and .lt (.s 4) 0x3FFFFD) ∧
  decodeS 0xFF002A37FFFFFFF3 = .ok (.loop on (.s 13) 0x3FFFFFFF3) ∧
  decodeS 0xFF00300000000007 = .ok (.trap on 7) ∧
  decodeS 0xFF00690150000402 = .ok (.csrw on (.s 0) (.s 21) 0x402) ∧
  decodeS 0xFF0034105EAB0010 = .ok (.ld on .g 2 true .acq .cx (.s 4) (.s 5) (.off 16)) ∧
  decodeS 0xFF003728A0004200 = .ok (.vst on .l .plain .th (.v 10) (.s 10) (.idx (.s 16) .x64)) ∧
  decodeS 0xFF003C7183010000 = .ok (.ldfe on .plain .th (.s 28) (.s 24) (.off 0)) ∧
  decodeS 0xFF0041105F001800 = .ok (.amo on .add .g true .plain .th (.s 4) (.s 5) (.s 6)) ∧
  decodeS 0xFF00430003040000 = .ok (.fence on .eng .cl) ∧
  decodeS 0xFF004700AC010005 = .ok (.cfetch on .g (.s 10) 5) ∧
  decodeS 0xFF00520130000004 = .ok (.bind on (.s 19) (.s 0) 4) ∧
  decodeS 0xFF005950A2C00002 = .ok (.cpyr on false (.s 20) (.s 10) (.s 11) 2) ∧
  decodeS 0xFF006050A2C20000 = .ok (.spawn on true (.s 20) (.s 10) (.s 11)) ∧
  decodeS 0xFF006D50A0000000 = .ok (.cmreq on (.s 20) (.s 10)) ∧
  decodeV 0xFF000208400A8C08 = .ok (.vsub on .u32 .rne true (.v 1) (.v 1) (.imm 8)) ∧
  decodeV 0xFF001D4020801000 = .ok (.vcmp on 2 0 .set .lt .f32 (.v 1) (.imm 0)) ∧
  decodeV 0xFF0046184A0A0001 = .ok (.vuzp on .i32 true (.v 3) (.v 1) (.v 5)) ∧
  decodeV 0xFF00471A40018802 = .ok (.vcvt on .e4m3 .f32 .rne true (.v 3) (.v 9) 2) ∧
  decodeV 0xFF00532149000000 = .ok (.vscan on .f32 (.v 4) (.v 5) (.s 9)) ∧
  decodeV 0xFF005800900A0000 = .ok (.vaccrd on .a0 (.s 9) (.v 5) 0) ∧
  decodeV 0xFF005C04A0000000 = .ok (.mma on .a0 1 (.s 10)) ∧
  decodeV 0xFF006210452A0000 = .ok (.spred on .rel 5 (.v 2) (.v 1) (.s 5)) ∧
  decodeLantern 0x04400000 = .ok (.lanternLdr 1 0 0) ∧ decodeLantern 0x2CD00004 = .ok (.lanternBne 3 4 4) ∧
  decodeLantern 0x40000000 = .ok (.lanternKeep 0 0 0) ∧ decodeLantern 0x48000001 = .ok (.lanternCnt 0 0 1)

/-- Decoding what an instruction is encoded to gives it back, for every instruction and every operand (R44 to R58, R457). -/
def Obligations.DecodeOfEncode : Prop := ∀ i : Instr, Laws.RoundTrip.Statement i

/-- R124, R198, R225, R380, R414, R415, R447, R466, R469, R474, R481: the state after reset, where the rules give it. -/
def Obligations.ResetState : Prop :=
  let s := State.reset
  (∀ k a, mGet (getCore s k).tcm a = 0 ∧ isFull (getCore s k) a = false ∧ mGet (getCluster s k).scratch a = 0) ∧
  (∀ k, (getCore s k).duty = 16 ∧ (∀ i < 4, (bankOf (getCore s k) i).loaded = false) ∧ (∀ i < 2, ownerOf (getCore s k) i = none) ∧
    (∀ a, mGet (getCore s k).tiles a = 0) ∧ (getCore s k).segs = []) ∧
  (∀ u, hasThread (getThread s u) = false) ∧
  (∀ c, (getCtx s c).installed = false ∧ (getCtx s c).level = 15 ∧ (getCtx s c).switch = 0) ∧
  (∀ k, getFunc s k = { Func.reset with qlog2 := 6, cqlog2 := 6 } ∧ (getFunc s k).qen = false ∧ (getFunc s k).head = 0 ∧
    (getFunc s k).tail = 0 ∧ (getFunc s k).cqhead = 0 ∧ (getFunc s k).cqtail = 0) ∧
  s.spl = 128 ∧ s.hswitch = 0 ∧ s.bell = 0 ∧ s.bellbuf = 0 ∧ fLevel s.fcmdAll = 15 ∧ fArm s.fcmdAll = false ∧ s.patches = [] ∧
  (∀ p, (getPort s p).up = false ∧ (getPort s p).tgt = 8 ∧ (getPort s p).lanes = 0) ∧
  (∀ d, lanEn (getLantern s d) = false) ∧ (∀ i < 10, (vget s.rails i ⟨0, 0, 0⟩).target = 550) ∧ s.memoriesWf

/-- Every step keeps every memory in its canonical form (log 2). -/
def Obligations.StepKeepsMemories : Prop := ∀ s t : State, s.memoriesWf → step s = .next t → t.memoriesWf

/-- R117, R193, R413, R414, R420, R467: no syllable of a thread changes by itself the host's memory and queues, the domes, the wheel, the
switches, the power, the ports and the patches: what it asks of the keep, the towers and the domes happens later, by events. R28, R111,
R113, R119: no syllable leaves a thread in an illegal mode, or with one saved to return to. -/
def Obligations.SyllablesStayLocal : Prop :=
    (∀ (i : Instr) (s t : State), encodeS i ≠ none ∨ encodeV i ≠ none → exec i s = .next t →
      t.hostMem = s.hostMem ∧ t.funcs = s.funcs ∧ t.domes = s.domes ∧ t.wheel = s.wheel ∧ t.W = s.W ∧ t.modNo = s.modNo ∧
      t.hswitch = s.hswitch ∧ t.switching = s.switching ∧ t.sched = s.sched ∧ t.spl = s.spl ∧ t.patches = s.patches ∧ t.power = s.power ∧
      t.rails = s.rails ∧ t.ports = s.ports ∧ t.boot = s.boot ∧ t.bell = s.bell ∧ t.fcmdAll = s.fcmdAll ∧ t.belfry = s.belfry ∧
      t.slotTab = s.slotTab ∧ t.words = s.words ∧ t.cur = s.cur) ∧
    (∀ (i : Instr) (s t : State), encodeS i ≠ none ∨ encodeV i ≠ none →
      (∀ u, bitsAt (getThread s u).status 0 2 ≠ 2 ∧ bitsAt (getThread s u).hstatus 0 2 ≠ 2) → exec i s = .next t →
      ∀ u, bitsAt (getThread t u).status 0 2 ≠ 2 ∧ bitsAt (getThread t u).hstatus 0 2 ≠ 2)

/-! ## Cores that fail -/

/-- R137, R138, R274, R296: the quarantine of a core, the shift of its row onto the spare, the failure of a cluster and of a die's memory
agent. -/
def Obligations.CoresFail : Prop :=
  ∀ s : State,
    let die := s.arg.die
    let gone (t : State) (c : Nat) : Prop := (getCore t (coreKey die c)).quarantined = true ∧ c ∈ (getDie t die).absent
    (let c := s.arg.unit;
      let k := coreKey die c;
      ((getCore s k).quarantined = true → exec .coreQuarantine s = .next s) ∧
      ((getCore s k).quarantined = false → CompletesWith (exec .coreQuarantine s) fun t =>
        (∀ i < 8, (getThread t ⟨die, c, i⟩).run = .quarantined ∧ (getThread t ⟨die, c, i⟩).hstatus = (getThread s ⟨die, c, i⟩).hstatus) ∧
        (getCore t k).quarantined = true ∧ (getCore t k).mq = [] ∧ (getCore t k).landings = [] ∧ (getCore t k).remote = [] ∧
        physNum (physX s die c) (coreY c) ∈ (getDie t die).bad ∧
        (∀ ctx id, (ctx, id) ∈ coreTasks (getCore s k) → mapFind (getCtx t ctx).tasks id = none) ∧
        (∀ key ∈ coreCircuits s die c, (getCircuit t key).closed ≠ none) ∧
        (spareFree s die (coreY c) = true → shiftAt s die (coreY c) = none → (getDie t die).absent = (getDie s die).absent) ∧
        (spareFree s die (coreY c) = false ∨ shiftAt s die (coreY c) ≠ none → c ∈ (getDie t die).absent))) ∧
    (let row := s.arg.i;
      let core (t : State) (x : Nat) : Core := getCore t (coreKey die (8 * row + x));
      let hole := holeOf s die row;
      (shiftAt s die row = none → exec .spareShift s = .next s) ∧
      (∀ q, shiftAt s die row = some q →
        (newRevolution s = false ∨ rowIdle s die row (shiftRange hole q) = false → exec .spareShift s = .next s) ∧
        (newRevolution s = true → rowIdle s die row (shiftRange hole q) = true → CompletesWith (exec .spareShift s) fun t =>
          mapFind t.shifted (8 * die + row) = some (if q < hole then q else q + 1) ∧
          (q < hole → (∀ x, q ≤ x → x + 1 < hole → core t x = core s (x + 1)) ∧ core t (hole - 1) = Core.reset) ∧
          (hole ≤ q → (∀ x, hole < x → x ≤ q → core t x = core s (x - 1)) ∧ core t hole = Core.reset)))) ∧
    (let cl := s.arg.unit;
      CompletesWith (exec .clusterFailure s) fun t => (∀ i < 8, gone t (coreAt cl i)) ∧ (getCluster t (clusterKey die cl)).failed = true ∧
        ∀ i < 8, (getChan t (clusterKey die cl) i).q = []) ∧
    (CompletesWith (exec .agentStateError s) fun t => (∀ c < 64, gone t c) ∧ pendingStores (getDie t die) = [] ∧
      ∀ r ∈ pendingStores (getDie s die), ∀ a ∈ r.accs, a.done = false → ∀ d o, a.home = .dome d o →
        o / 64 * 64 ∈ (getDome t d).poison)

end Statements
end

