-- ==== Sys2Proof/Laws/Bits.lean ====
section
/-! SUPPORT. Laws of the bit-field helpers: what a field reads after a field has been replaced. -/

namespace Sys2Proof.Machine

set_option Elab.async false

theorem bitsAt_eq {w : Nat} (x : BitVec w) (lo n : Nat) : bitsAt x lo n = x.toNat / 2 ^ lo % 2 ^ n := by
  simp [bitsAt, Nat.shiftRight_eq_div_pow]

theorem bitAt_eq {w : Nat} (x : BitVec w) (i : Nat) : bitAt x i = x.toNat.testBit i := rfl

theorem testBit_bitsAt {w : Nat} (x : BitVec w) (lo n i : Nat) : (bitsAt x lo n).testBit i = (decide (i < n) && bitAt x (lo + i)) := by
  rw [bitsAt_eq, Nat.testBit_mod_two_pow, Nat.testBit_div_two_pow, bitAt_eq, Nat.add_comm]

theorem toNat_setBits (w : Word) (lo n v : Nat) (h : lo + n ≤ 64) :
    (setBits w lo n v).toNat = 2 ^ lo * (2 ^ n * (w.toNat / 2 ^ (lo + n)) + v % 2 ^ n) + w.toNat % 2 ^ lo := by
  have hw := w.isLt
  have e1 : w.toNat = 2 ^ lo * (w.toNat / 2 ^ lo) + w.toNat % 2 ^ lo := (Nat.div_add_mod _ _).symm
  have e2 : w.toNat / 2 ^ lo = 2 ^ n * (w.toNat / 2 ^ (lo + n)) + w.toNat / 2 ^ lo % 2 ^ n := by
    rw [pow_add, ← Nat.div_div_eq_div_mul]; exact (Nat.div_add_mod _ _).symm
  have hv : v % 2 ^ n < 2 ^ n := Nat.mod_lt _ (by positivity)
  have hl : w.toNat % 2 ^ lo < 2 ^ lo := Nat.mod_lt _ (by positivity)
  have hhi : w.toNat / 2 ^ (lo + n) < 2 ^ (64 - (lo + n)) := by
    rw [Nat.div_lt_iff_lt_mul (by positivity), ← pow_add, Nat.sub_add_cancel h]; exact hw
  have e3 : w.toNat - bitsAt w lo n * 2 ^ lo + v % 2 ^ n * 2 ^ lo =
      2 ^ lo * (2 ^ n * (w.toNat / 2 ^ (lo + n)) + v % 2 ^ n) + w.toNat % 2 ^ lo := by
    rw [bitsAt_eq]
    have e4 : w.toNat = 2 ^ lo * (2 ^ n * (w.toNat / 2 ^ (lo + n))) + w.toNat / 2 ^ lo % 2 ^ n * 2 ^ lo + w.toNat % 2 ^ lo := by
      calc w.toNat = 2 ^ lo * (w.toNat / 2 ^ lo) + w.toNat % 2 ^ lo := e1
        _ = 2 ^ lo * (2 ^ n * (w.toNat / 2 ^ (lo + n)) + w.toNat / 2 ^ lo % 2 ^ n) + w.toNat % 2 ^ lo := by rw [← e2]
        _ = _ := by ring
    have e5 : 2 ^ lo * (2 ^ n * (w.toNat / 2 ^ (lo + n)) + v % 2 ^ n) =
      2 ^ lo * (2 ^ n * (w.toNat / 2 ^ (lo + n))) + v % 2 ^ n * 2 ^ lo := by ring
    rw [e5]
    generalize 2 ^ lo * (2 ^ n * (w.toNat / 2 ^ (lo + n))) = A at *
    generalize w.toNat / 2 ^ lo % 2 ^ n * 2 ^ lo = B at *
    generalize v % 2 ^ n * 2 ^ lo = C at *
    omega
  unfold setBits word
  rw [BitVec.toNat_ofNat, e3]
  apply Nat.mod_eq_of_lt
  have h1 : 2 ^ n * (w.toNat / 2 ^ (lo + n)) + v % 2 ^ n < 2 ^ (64 - lo) := by
    have : 2 ^ n * (w.toNat / 2 ^ (lo + n) + 1) ≤ 2 ^ n * 2 ^ (64 - (lo + n)) := Nat.mul_le_mul_left _ hhi
    rw [← pow_add, show n + (64 - (lo + n)) = 64 - lo by omega] at this
    rw [Nat.mul_add] at this
    omega
  have : 2 ^ lo * (2 ^ n * (w.toNat / 2 ^ (lo + n)) + v % 2 ^ n + 1) ≤ 2 ^ lo * 2 ^ (64 - lo) := Nat.mul_le_mul_left _ h1
  rw [← pow_add, show lo + (64 - lo) = 64 by omega, Nat.mul_add] at this
  omega

/-- The bits of a word after a field has been replaced. -/
theorem bitAt_setBits (w : Word) (lo n v i : Nat) (h : lo + n ≤ 64) :
    bitAt (setBits w lo n v) i = if lo ≤ i ∧ i < lo + n then v.testBit (i - lo) else bitAt w i := by
  rw [bitAt_eq, bitAt_eq, toNat_setBits w lo n v h, Nat.testBit_two_pow_mul_add _ (Nat.mod_lt _ (by positivity))]
  by_cases h1 : i < lo
  · rw [if_pos h1, if_neg (by omega), Nat.testBit_mod_two_pow]
    simp [h1]
  · rw [if_neg h1, Nat.testBit_two_pow_mul_add _ (Nat.mod_lt _ (by positivity))]
    by_cases h2 : i < lo + n
    · rw [if_pos (by omega), if_pos ⟨by omega, h2⟩, Nat.testBit_mod_two_pow]
      simp [show i - lo < n by omega]
    · rw [if_neg (by omega), if_neg (by omega), Nat.testBit_div_two_pow]
      congr 1
      omega

theorem bitsAt_ext {x y : Nat} {n : Nat} (hx : x < 2 ^ n) (hy : y < 2 ^ n) (h : ∀ i < n, x.testBit i = y.testBit i) : x = y := by
  apply Nat.eq_of_testBit_eq
  intro i
  by_cases hi : i < n
  · exact h i hi
  · have hp : 2 ^ n ≤ 2 ^ i := Nat.pow_le_pow_right (by norm_num) (by omega)
    rw [Nat.testBit_lt_two_pow (lt_of_lt_of_le hx hp), Nat.testBit_lt_two_pow (lt_of_lt_of_le hy hp)]

theorem bitsAt_lt {w : Nat} (x : BitVec w) (lo n : Nat) : bitsAt x lo n < 2 ^ n := (x.extractLsb' lo n).isLt

/-- The field that was replaced. -/
theorem bitsAt_setBits_self (w : Word) (lo n v : Nat) (h : lo + n ≤ 64) : bitsAt (setBits w lo n v) lo n = v % 2 ^ n := by
  apply bitsAt_ext (bitsAt_lt _ _ _) (Nat.mod_lt _ (by positivity))
  intro i hi
  rw [testBit_bitsAt, bitAt_setBits _ _ _ _ _ h, Nat.testBit_mod_two_pow, if_pos (by omega)]
  simp [hi]

/-- A field that shares no bit with the one replaced. -/
theorem bitsAt_setBits_ne (w : Word) (lo n v l k : Nat) (h : lo + n ≤ 64) (hd : l + k ≤ lo ∨ lo + n ≤ l) :
    bitsAt (setBits w lo n v) l k = bitsAt w l k := by
  apply bitsAt_ext (bitsAt_lt _ _ _) (bitsAt_lt _ _ _)
  intro i hi
  rw [testBit_bitsAt, testBit_bitsAt, bitAt_setBits _ _ _ _ _ h, if_neg (by omega)]

/-- Bit 21 of a status register set (R461: source 5 pending). -/
theorem setBits21 (w : Word) : setBits w 21 1 1 = w ||| 0x200000 := by
  apply BitVec.eq_of_getLsbD_eq
  intro i hi
  have hb := bitAt_setBits w 21 1 1 i (by norm_num)
  have h2 : (0x200000 : Word).getLsbD i = decide (i = 21) := by
    interval_cases i <;> rfl
  rw [BitVec.getLsbD_or, h2]
  change (setBits w 21 1 1).getLsbD i = _ at hb
  rw [hb]
  by_cases h : i = 21
  · subst h; simp
  · rw [if_neg (by omega)]; simp [h, bitAt]

end Sys2Proof.Machine
end

