-- ==== Sys2Proof/Laws/Maps.lean ====
section
/-! SUPPORT. Laws of finite maps, register files and byte memories: what a read after a write gives, and that every write keeps the
canonical form. -/

namespace Sys2Proof.Machine

set_option Elab.async false

/-! ## Maps -/

@[simp] theorem mapGet_mapSet_self {α : Type} (d : α) (l : List (Nat × α)) (k : Nat) (v : α) : mapGet d (mapSet l k v) k = v := by
  induction l with
  | nil => simp [mapSet, mapGet]
  | cons p t ih =>
    obtain ⟨j, w⟩ := p
    unfold mapSet
    split
    · simp [mapGet]
    · split
      · simp [mapGet]
      · rw [mapGet, if_neg (by omega)]; exact ih

theorem mapGet_mapSet_ne {α : Type} (d : α) (l : List (Nat × α)) {k i : Nat} (v : α) (h : i ≠ k) :
    mapGet d (mapSet l k v) i = mapGet d l i := by
  induction l with
  | nil => simp [mapSet, mapGet, Ne.symm h]
  | cons p t ih =>
    obtain ⟨j, w⟩ := p
    unfold mapSet
    split
    · rw [mapGet, if_neg (Ne.symm h)]
    · split
      · next hk => subst hk; simp [mapGet, Ne.symm h]
      · simp only [mapGet, ih]

theorem mapGet_mapSet {α : Type} (d : α) (l : List (Nat × α)) (k i : Nat) (v : α) :
    mapGet d (mapSet l k v) i = if i = k then v else mapGet d l i := by
  split
  · next h => subst h; exact mapGet_mapSet_self d l i v
  · next h => exact mapGet_mapSet_ne d l v h

@[simp] theorem mapSet_mapSet_self {α : Type} (l : List (Nat × α)) (k : Nat) (a b : α) : mapSet (mapSet l k a) k b = mapSet l k b := by
  induction l with
  | nil => simp [mapSet]
  | cons p t ih =>
    obtain ⟨j, w⟩ := p
    by_cases h1 : k < j
    · simp [mapSet, h1]
    · by_cases h2 : k = j
      · simp [mapSet, h2]
      · simp [mapSet, h1, h2, ih]

theorem mapGet_mapDel_self {α : Type} (d : α) (l : List (Nat × α)) (k : Nat) : mapGet d (mapDel l k) k = d := by
  induction l with
  | nil => rfl
  | cons p t ih =>
    obtain ⟨j, w⟩ := p
    unfold mapDel
    split
    · exact ih
    · next h => rw [mapGet, if_neg h]; exact ih

theorem mapGet_mapDel_ne {α : Type} (d : α) (l : List (Nat × α)) {k i : Nat} (h : i ≠ k) : mapGet d (mapDel l k) i = mapGet d l i := by
  induction l with
  | nil => rfl
  | cons p t ih =>
    obtain ⟨j, w⟩ := p
    unfold mapDel
    split
    · next hj => rw [mapGet, if_neg (by omega)]; exact ih
    · simp only [mapGet, ih]

/-- Every key of a map is at or above a bound. -/
def mapAbove {α : Type} (b : Nat) (l : List (Nat × α)) : Prop := ∀ c ∈ l, b ≤ c.1

theorem mapRising_cons {α : Type} (j : Nat) (w : α) (t : List (Nat × α)) :
    mapRising ((j, w) :: t) = true ↔ mapAbove (j + 1) t ∧ mapRising t = true := by
  induction t generalizing j w with
  | nil => simp [mapRising, mapAbove]
  | cons p t ih =>
    obtain ⟨k, x⟩ := p
    have := ih k x
    simp only [mapRising, Bool.and_eq_true, decide_eq_true_eq, mapAbove, List.mem_cons, forall_eq_or_imp] at this ⊢
    constructor
    · rintro ⟨h, hr⟩
      exact ⟨⟨by omega, fun c hc => by have := (this.1 hr).1 c hc; omega⟩, hr⟩
    · rintro ⟨⟨h, -⟩, hr⟩
      exact ⟨by omega, hr⟩

theorem mapAbove_mapSet {α : Type} {b : Nat} {l : List (Nat × α)} {k : Nat} (v : α) (hk : b ≤ k) (h : mapAbove b l) :
    mapAbove b (mapSet l k v) := by
  induction l with
  | nil => intro c hc; simp [mapSet] at hc; simp [hc, hk]
  | cons p t ih =>
    obtain ⟨j, w⟩ := p
    have ht : mapAbove b t := fun c hc => h c (List.mem_cons_of_mem _ hc)
    have hj : b ≤ j := h (j, w) List.mem_cons_self
    intro c hc
    unfold mapSet at hc
    split at hc
    · rcases List.mem_cons.1 hc with rfl | hc
      · exact hk
      · exact h c hc
    · split at hc
      · rcases List.mem_cons.1 hc with rfl | hc
        · exact hk
        · exact ht c hc
      · rcases List.mem_cons.1 hc with rfl | hc
        · exact hj
        · exact ih ht c hc

theorem mapRising_mapSet {α : Type} {l : List (Nat × α)} (k : Nat) (v : α) (h : mapRising l = true) : mapRising (mapSet l k v) = true := by
  induction l with
  | nil => rfl
  | cons p t ih =>
    obtain ⟨j, w⟩ := p
    obtain ⟨ha, hr⟩ := (mapRising_cons j w t).1 h
    unfold mapSet
    split
    · next hk => exact (mapRising_cons k v _).2 ⟨fun c hc => by
        rcases List.mem_cons.1 hc with rfl | hc
        · exact hk
        · have := ha c hc; omega, h⟩
    · split
      · next hk => subst hk; exact (mapRising_cons k v t).2 ⟨ha, hr⟩
      · exact (mapRising_cons j w _).2 ⟨mapAbove_mapSet v (by omega) ha, ih hr⟩

theorem mapAbove_mapDel {α : Type} {b : Nat} {l : List (Nat × α)} (k : Nat) (h : mapAbove b l) : mapAbove b (mapDel l k) := by
  induction l with
  | nil => exact h
  | cons p t ih =>
    obtain ⟨j, w⟩ := p
    have ht := ih fun c hc => h c (List.mem_cons_of_mem _ hc)
    unfold mapDel
    split
    · exact ht
    · intro c hc
      rcases List.mem_cons.1 hc with rfl | hc
      · exact h _ List.mem_cons_self
      · exact ht c hc

theorem mapRising_mapDel {α : Type} {l : List (Nat × α)} (k : Nat) (h : mapRising l = true) : mapRising (mapDel l k) = true := by
  induction l with
  | nil => rfl
  | cons p t ih =>
    obtain ⟨j, w⟩ := p
    obtain ⟨ha, hr⟩ := (mapRising_cons j w t).1 h
    unfold mapDel
    split
    · exact ih hr
    · exact (mapRising_cons j w _).2 ⟨mapAbove_mapDel k ha, ih hr⟩

theorem mem_mapSet {α : Type} {l : List (Nat × α)} {k : Nat} {v : α} {c : Nat × α} (h : c ∈ mapSet l k v) : c = (k, v) ∨ c ∈ l := by
  induction l with
  | nil => exact .inl (by simpa [mapSet] using h)
  | cons p t ih =>
    obtain ⟨j, w⟩ := p
    unfold mapSet at h
    split at h
    · exact (List.mem_cons.1 h).imp_right id
    · split at h
      · rcases List.mem_cons.1 h with h | h
        · exact .inl h
        · exact .inr (List.mem_cons_of_mem _ h)
      · rcases List.mem_cons.1 h with h | h
        · exact .inr (h ▸ List.mem_cons_self)
        · exact (ih h).imp_right (List.mem_cons_of_mem _)

theorem mem_mapDel {α : Type} {l : List (Nat × α)} {k : Nat} {c : Nat × α} (h : c ∈ mapDel l k) : c ∈ l := by
  induction l with
  | nil => exact h
  | cons p t ih =>
    obtain ⟨j, w⟩ := p
    unfold mapDel at h
    split at h
    · exact List.mem_cons_of_mem _ (ih h)
    · rcases List.mem_cons.1 h with h | h
      · exact h ▸ List.mem_cons_self
      · exact List.mem_cons_of_mem _ (ih h)

/-- A property of every value that a map lists and of its default holds of what a key reads. -/
theorem mapGet_prop {α : Type} {P : α → Prop} {d : α} {l : List (Nat × α)} (hd : P d) (h : ∀ c ∈ l, P c.2) (k : Nat) : P (mapGet d l k) := by
  induction l with
  | nil => exact hd
  | cons p t ih =>
    obtain ⟨j, w⟩ := p
    unfold mapGet
    split
    · exact h _ List.mem_cons_self
    · exact ih fun c hc => h c (List.mem_cons_of_mem _ hc)

theorem mapSet_prop {α : Type} {P : α → Prop} {l : List (Nat × α)} {k : Nat} {v : α} (h : ∀ c ∈ l, P c.2) (hv : P v) :
    ∀ c ∈ mapSet l k v, P c.2 := fun _ hc => (mem_mapSet hc).elim (fun e => e ▸ hv) (h _)

/-! ## Register files -/

@[simp] theorem vget_vset_self {α : Type} {n : Nat} (v : Vector α n) {i : Nat} (x d : α) (h : i < n) : vget (vset v i x) i d = x := by
  simp [vget, vset, h]

theorem vget_vset_ne {α : Type} {n : Nat} (v : Vector α n) {i j : Nat} (x d : α) (h : j ≠ i) : vget (vset v i x) j d = vget v j d := by
  unfold vget vset
  rw [Vector.getElem?_setIfInBounds, if_neg (Ne.symm h)]

@[simp] theorem vset_vset_self {α : Type} {n : Nat} (v : Vector α n) (i : Nat) (x y : α) : vset (vset v i x) i y = vset v i y := by
  ext j hj
  by_cases h : i = j <;> simp [vset, h]

/-! ## Memories -/

@[simp] theorem mGet_mSet_self (m : Memory) (a : Nat) (b : Byte) : mGet (mSet m a b) a = b := by
  unfold mGet mSet
  split
  · next h => rw [mapGet_mapDel_self, h]
  · exact mapGet_mapSet_self 0 m a b

theorem mGet_mSet_ne (m : Memory) {a i : Nat} (b : Byte) (h : i ≠ a) : mGet (mSet m a b) i = mGet m i := by
  unfold mGet mSet
  split
  · exact mapGet_mapDel_ne 0 m h
  · exact mapGet_mapSet_ne 0 m b h

theorem mGet_mPut_outside (m : Memory) (a n v i : Nat) (h : i < a ∨ a + n ≤ i) : mGet (mPut m a n v) i = mGet m i := by
  induction n generalizing m a v with
  | zero => rfl
  | succ n ih => rw [mPut, ih _ _ _ (by omega), mGet_mSet_ne _ _ (by omega)]

theorem mGet_mPut_inside (m : Memory) (a n v i : Nat) (h1 : a ≤ i) (h2 : i < a + n) :
    mGet (mPut m a n v) i = BitVec.ofNat 8 (v / 256 ^ (i - a)) := by
  induction n generalizing m a v with
  | zero => omega
  | succ n ih =>
    rw [mPut]
    by_cases h : i = a
    · subst h; rw [mGet_mPut_outside _ _ _ _ _ (by omega), mGet_mSet_self]; simp
    · rw [ih _ _ _ (by omega) (by omega), Nat.div_div_eq_div_mul, ← Nat.pow_succ']
      congr 3; omega

/-- The number that n bytes hold after n bytes of a number were written there. -/
theorem mNat_mPut_self (m : Memory) (a n v : Nat) : mNat (mPut m a n v) a n = v % 256 ^ n := by
  have key : ∀ (n : Nat) (m : Memory) (a w : Nat), (∀ j < n, mGet m (a + j) = BitVec.ofNat 8 (w / 256 ^ j)) → mNat m a n = w % 256 ^ n := by
    intro n
    induction n with
    | zero => intro m a w _; simp [mNat, Nat.mod_one]
    | succ n ih =>
      intro m a w h
      have h0 := h 0 (by omega)
      have hr := ih m (a + 1) (w / 256) fun j hj => by
        have := h (j + 1) (by omega)
        rw [Nat.div_div_eq_div_mul, ← Nat.pow_succ', ← this]
        congr 1; omega
      rw [mNat, hr]
      simp only [Nat.add_zero, pow_zero, Nat.div_one] at h0
      rw [h0, BitVec.toNat_ofNat, show (256 : Nat) ^ (n + 1) = 256 * 256 ^ n from Nat.pow_succ', Nat.mod_mul]
  exact key n _ a v fun j hj => by rw [mGet_mPut_inside _ _ _ _ _ (by omega) (by omega)]; simp

theorem mNat_mPut_outside (m : Memory) (a n v b k : Nat) (h : b + k ≤ a ∨ a + n ≤ b) : mNat (mPut m a n v) b k = mNat m b k := by
  induction k generalizing b with
  | zero => rfl
  | succ k ih => rw [mNat, mNat, ih _ (by omega), mGet_mPut_outside _ _ _ _ _ (by omega)]

/-! ## The canonical form (log 2) -/

theorem mSet_wf {m : Memory} (a : Nat) (b : Byte) (h : Memory.wf m) : Memory.wf (mSet m a b) := by
  unfold mSet
  split
  · exact ⟨mapRising_mapDel a h.1, fun c hc => h.2 c (mem_mapDel hc)⟩
  · next hb => exact ⟨mapRising_mapSet a b h.1, fun c hc => (mem_mapSet hc).elim (fun e => e ▸ hb) (h.2 c)⟩

theorem mPut_wf {m : Memory} (a n v : Nat) (h : Memory.wf m) : Memory.wf (mPut m a n v) := by
  induction n generalizing m a v with
  | zero => exact h
  | succ n ih => exact ih _ _ (mSet_wf _ _ h)

theorem mPutBytes_wf {m : Memory} (a : Nat) (l : List Byte) (h : Memory.wf m) : Memory.wf (mPutBytes m a l) := by
  induction l generalizing m a with
  | nil => exact h
  | cons b t ih => exact ih _ (mSet_wf _ _ h)

theorem empty_wf : Memory.wf [] := ⟨rfl, fun _ h => absurd h (by simp)⟩

theorem mapRising_filter {α : Type} (p : Nat × α → Bool) {l : List (Nat × α)} (h : mapRising l = true) : mapRising (l.filter p) = true := by
  induction l with
  | nil => exact h
  | cons q t ih =>
    obtain ⟨j, w⟩ := q
    obtain ⟨ha, hr⟩ := (mapRising_cons j w t).1 h
    rw [List.filter_cons]
    split
    · exact (mapRising_cons j w _).2 ⟨fun c hc => ha c (List.mem_of_mem_filter hc), ih hr⟩
    · exact ih hr

theorem filter_wf {m : Memory} (p : Nat × Byte → Bool) (h : Memory.wf m) : Memory.wf (List.filter p m) :=
  ⟨mapRising_filter p h.1, fun c hc => h.2 c (List.mem_of_mem_filter hc)⟩

/-- Two memories in canonical form that read alike everywhere are one memory. -/
theorem wf_ext {m n : Memory} (hm : Memory.wf m) (hn : Memory.wf n) (h : ∀ a, mGet m a = mGet n a) : m = n := by
  have above : ∀ (l : Memory) (j : Nat), mapAbove (j + 1) l → ∀ i ≤ j, mGet l i = 0 := by
    intro l
    induction l with
    | nil => intros; rfl
    | cons p t ih =>
      intro j hj i hi
      have := hj p List.mem_cons_self
      show mapGet 0 (p :: t) i = 0
      obtain ⟨k, w⟩ := p
      rw [mapGet, if_neg (by simp at this; omega)]
      exact ih j (fun c hc => hj c (List.mem_cons_of_mem _ hc)) i hi
  induction m generalizing n with
  | nil =>
    cases n with
    | nil => rfl
    | cons q t =>
      obtain ⟨k, w⟩ := q
      have := h k
      exact absurd (show w = 0 by simpa [mGet, mapGet] using this.symm) (hn.2 (k, w) List.mem_cons_self)
  | cons p s ih =>
    obtain ⟨j, v⟩ := p
    obtain ⟨hj, hs⟩ := (mapRising_cons j v s).1 hm.1
    have hv : v ≠ 0 := hm.2 (j, v) List.mem_cons_self
    cases n with
    | nil => exact absurd (show v = 0 by simpa [mGet, mapGet] using h j) hv
    | cons q t =>
      obtain ⟨k, w⟩ := q
      obtain ⟨hk, ht⟩ := (mapRising_cons k w t).1 hn.1
      have hw : w ≠ 0 := hn.2 (k, w) List.mem_cons_self
      have hjk : j = k := by
        rcases Nat.lt_trichotomy j k with hlt | he | hlt
        · have := h j
          rw [show mGet ((j, v) :: s) j = v by simp [mGet, mapGet], show mGet ((k, w) :: t) j = mGet t j by simp [mGet, mapGet]; omega,
            above t k hk j (by omega)] at this
          exact absurd this hv
        · exact he
        · have := h k
          rw [show mGet ((k, w) :: t) k = w by simp [mGet, mapGet], show mGet ((j, v) :: s) k = mGet s k by simp [mGet, mapGet]; omega,
            above s j hj k (by omega)] at this
          exact absurd this.symm hw
      subst hjk
      have hvw : v = w := by simpa [mGet, mapGet] using h j
      subst hvw
      congr 1
      refine ih ⟨hs, fun c hc => hm.2 c (List.mem_cons_of_mem _ hc)⟩ ⟨ht, fun c hc => hn.2 c (List.mem_cons_of_mem _ hc)⟩ fun a => ?_
      by_cases ha : a ≤ j
      · rw [above s j hj a ha, above t j hk a ha]
      · have := h a
        rwa [show mGet ((j, v) :: s) a = mGet s a by simp [mGet, mapGet]; omega, show mGet ((j, v) :: t) a = mGet t a by simp [mGet, mapGet]; omega] at this

end Sys2Proof.Machine
end

