-- ==== Sys2Proof/Laws/State.lean ====
section
/-! SUPPORT. What each update of State leaves of each field, and what a read of a core, thread, cluster, die, dome, circuit or context
gives after an update of one. -/

namespace Sys2Proof.Machine

/-! ## One field after one update -/

@[simp] theorem setCore_cur (s : State) (k : Nat) (c : Core) : (setCore s k c).cur = s.cur := rfl
@[simp] theorem setCore_pair (s : State) (k : Nat) (c : Core) : (setCore s k c).pair = s.pair := rfl
@[simp] theorem setCore_agenda (s : State) (k : Nat) (c : Core) : (setCore s k c).agenda = s.agenda := rfl
@[simp] theorem setCore_arg (s : State) (k : Nat) (c : Core) : (setCore s k c).arg = s.arg := rfl
@[simp] theorem setCore_slotsPerRotation (s : State) (k : Nat) (c : Core) : (setCore s k c).slotsPerRotation = s.slotsPerRotation := rfl
@[simp] theorem setCore_nextId (s : State) (k : Nat) (c : Core) : (setCore s k c).nextId = s.nextId := rfl
@[simp] theorem setCore_wheel (s : State) (k : Nat) (c : Core) : (setCore s k c).wheel = s.wheel := rfl
@[simp] theorem setCore_W (s : State) (k : Nat) (c : Core) : (setCore s k c).W = s.W := rfl
@[simp] theorem setCore_modNo (s : State) (k : Nat) (c : Core) : (setCore s k c).modNo = s.modNo := rfl
theorem setCore_cores (s : State) (k : Nat) (c : Core) : (setCore s k c).cores = mapSet s.cores k c := rfl
@[simp] theorem setCore_clusters (s : State) (k : Nat) (c : Core) : (setCore s k c).clusters = s.clusters := rfl
@[simp] theorem setCore_dies (s : State) (k : Nat) (c : Core) : (setCore s k c).dies = s.dies := rfl
@[simp] theorem setCore_domes (s : State) (k : Nat) (c : Core) : (setCore s k c).domes = s.domes := rfl
@[simp] theorem setCore_circuits (s : State) (k : Nat) (c : Core) : (setCore s k c).circuits = s.circuits := rfl
@[simp] theorem setCore_ipis (s : State) (k : Nat) (c : Core) : (setCore s k c).ipis = s.ipis := rfl
@[simp] theorem setCore_ctxs (s : State) (k : Nat) (c : Core) : (setCore s k c).ctxs = s.ctxs := rfl
@[simp] theorem setCore_seals (s : State) (k : Nat) (c : Core) : (setCore s k c).seals = s.seals := rfl
@[simp] theorem setCore_spire (s : State) (k : Nat) (c : Core) : (setCore s k c).spire = s.spire := rfl
@[simp] theorem setCore_slotTab (s : State) (k : Nat) (c : Core) : (setCore s k c).slotTab = s.slotTab := rfl
@[simp] theorem setCore_discards (s : State) (k : Nat) (c : Core) : (setCore s k c).discards = s.discards := rfl
@[simp] theorem setCore_words (s : State) (k : Nat) (c : Core) : (setCore s k c).words = s.words := rfl
@[simp] theorem setCore_tabWrites (s : State) (k : Nat) (c : Core) : (setCore s k c).tabWrites = s.tabWrites := rfl
@[simp] theorem setCore_gens (s : State) (k : Nat) (c : Core) : (setCore s k c).gens = s.gens := rfl
@[simp] theorem setCore_cfgBeats (s : State) (k : Nat) (c : Core) : (setCore s k c).cfgBeats = s.cfgBeats := rfl
@[simp] theorem setCore_changes (s : State) (k : Nat) (c : Core) : (setCore s k c).changes = s.changes := rfl
@[simp] theorem setCore_belfry (s : State) (k : Nat) (c : Core) : (setCore s k c).belfry = s.belfry := rfl
@[simp] theorem setCore_belTurn (s : State) (k : Nat) (c : Core) : (setCore s k c).belTurn = s.belTurn := rfl
@[simp] theorem setCore_belFree (s : State) (k : Nat) (c : Core) : (setCore s k c).belFree = s.belFree := rfl
@[simp] theorem setCore_shifted (s : State) (k : Nat) (c : Core) : (setCore s k c).shifted = s.shifted := rfl
@[simp] theorem setCore_ports (s : State) (k : Nat) (c : Core) : (setCore s k c).ports = s.ports := rfl
@[simp] theorem setCore_offs (s : State) (k : Nat) (c : Core) : (setCore s k c).offs = s.offs := rfl
@[simp] theorem setCore_offsSince (s : State) (k : Nat) (c : Core) : (setCore s k c).offsSince = s.offsSince := rfl
@[simp] theorem setCore_offsBelow (s : State) (k : Nat) (c : Core) : (setCore s k c).offsBelow = s.offsBelow := rfl
@[simp] theorem setCore_hswitch (s : State) (k : Nat) (c : Core) : (setCore s k c).hswitch = s.hswitch := rfl
@[simp] theorem setCore_hwarned (s : State) (k : Nat) (c : Core) : (setCore s k c).hwarned = s.hwarned := rfl
@[simp] theorem setCore_switching (s : State) (k : Nat) (c : Core) : (setCore s k c).switching = s.switching := rfl
@[simp] theorem setCore_sched (s : State) (k : Nat) (c : Core) : (setCore s k c).sched = s.sched := rfl
@[simp] theorem setCore_spl (s : State) (k : Nat) (c : Core) : (setCore s k c).spl = s.spl := rfl
@[simp] theorem setCore_vfEnable (s : State) (k : Nat) (c : Core) : (setCore s k c).vfEnable = s.vfEnable := rfl
@[simp] theorem setCore_numVfs (s : State) (k : Nat) (c : Core) : (setCore s k c).numVfs = s.numVfs := rfl
@[simp] theorem setCore_unsupported (s : State) (k : Nat) (c : Core) : (setCore s k c).unsupported = s.unsupported := rfl
@[simp] theorem setCore_sysBlk (s : State) (k : Nat) (c : Core) : (setCore s k c).sysBlk = s.sysBlk := rfl
@[simp] theorem setCore_funcs (s : State) (k : Nat) (c : Core) : (setCore s k c).funcs = s.funcs := rfl
@[simp] theorem setCore_hostMem (s : State) (k : Nat) (c : Core) : (setCore s k c).hostMem = s.hostMem := rfl
@[simp] theorem setCore_blkChanges (s : State) (k : Nat) (c : Core) : (setCore s k c).blkChanges = s.blkChanges := rfl
@[simp] theorem setCore_patches (s : State) (k : Nat) (c : Core) : (setCore s k c).patches = s.patches := rfl
@[simp] theorem setCore_power (s : State) (k : Nat) (c : Core) : (setCore s k c).power = s.power := rfl
@[simp] theorem setCore_rails (s : State) (k : Nat) (c : Core) : (setCore s k c).rails = s.rails := rfl
@[simp] theorem setCore_fcmdAll (s : State) (k : Nat) (c : Core) : (setCore s k c).fcmdAll = s.fcmdAll := rfl
@[simp] theorem setCore_fcmdSel (s : State) (k : Nat) (c : Core) : (setCore s k c).fcmdSel = s.fcmdSel := rfl
@[simp] theorem setCore_cntpolSel (s : State) (k : Nat) (c : Core) : (setCore s k c).cntpolSel = s.cntpolSel := rfl
@[simp] theorem setCore_telemAt (s : State) (k : Nat) (c : Core) : (setCore s k c).telemAt = s.telemAt := rfl
@[simp] theorem setCore_boot (s : State) (k : Nat) (c : Core) : (setCore s k c).boot = s.boot := rfl
@[simp] theorem setCore_bell (s : State) (k : Nat) (c : Core) : (setCore s k c).bell = s.bell := rfl
@[simp] theorem setCore_bellbuf (s : State) (k : Nat) (c : Core) : (setCore s k c).bellbuf = s.bellbuf := rfl
@[simp] theorem setCore_bellCtx (s : State) (k : Nat) (c : Core) : (setCore s k c).bellCtx = s.bellCtx := rfl
@[simp] theorem setCore_lanRun (s : State) (k : Nat) (c : Core) : (setCore s k c).lanRun = s.lanRun := rfl
@[simp] theorem setCore_errors (s : State) (k : Nat) (c : Core) : (setCore s k c).errors = s.errors := rfl

@[simp] theorem setCluster_cur (s : State) (k : Nat) (c : Cluster) : (setCluster s k c).cur = s.cur := rfl
@[simp] theorem setCluster_pair (s : State) (k : Nat) (c : Cluster) : (setCluster s k c).pair = s.pair := rfl
@[simp] theorem setCluster_agenda (s : State) (k : Nat) (c : Cluster) : (setCluster s k c).agenda = s.agenda := rfl
@[simp] theorem setCluster_arg (s : State) (k : Nat) (c : Cluster) : (setCluster s k c).arg = s.arg := rfl
@[simp] theorem setCluster_slotsPerRotation (s : State) (k : Nat) (c : Cluster) : (setCluster s k c).slotsPerRotation = s.slotsPerRotation := rfl
@[simp] theorem setCluster_nextId (s : State) (k : Nat) (c : Cluster) : (setCluster s k c).nextId = s.nextId := rfl
@[simp] theorem setCluster_wheel (s : State) (k : Nat) (c : Cluster) : (setCluster s k c).wheel = s.wheel := rfl
@[simp] theorem setCluster_W (s : State) (k : Nat) (c : Cluster) : (setCluster s k c).W = s.W := rfl
@[simp] theorem setCluster_modNo (s : State) (k : Nat) (c : Cluster) : (setCluster s k c).modNo = s.modNo := rfl
@[simp] theorem setCluster_cores (s : State) (k : Nat) (c : Cluster) : (setCluster s k c).cores = s.cores := rfl
theorem setCluster_clusters (s : State) (k : Nat) (c : Cluster) : (setCluster s k c).clusters = mapSet s.clusters k c := rfl
@[simp] theorem setCluster_dies (s : State) (k : Nat) (c : Cluster) : (setCluster s k c).dies = s.dies := rfl
@[simp] theorem setCluster_domes (s : State) (k : Nat) (c : Cluster) : (setCluster s k c).domes = s.domes := rfl
@[simp] theorem setCluster_circuits (s : State) (k : Nat) (c : Cluster) : (setCluster s k c).circuits = s.circuits := rfl
@[simp] theorem setCluster_ipis (s : State) (k : Nat) (c : Cluster) : (setCluster s k c).ipis = s.ipis := rfl
@[simp] theorem setCluster_ctxs (s : State) (k : Nat) (c : Cluster) : (setCluster s k c).ctxs = s.ctxs := rfl
@[simp] theorem setCluster_seals (s : State) (k : Nat) (c : Cluster) : (setCluster s k c).seals = s.seals := rfl
@[simp] theorem setCluster_spire (s : State) (k : Nat) (c : Cluster) : (setCluster s k c).spire = s.spire := rfl
@[simp] theorem setCluster_slotTab (s : State) (k : Nat) (c : Cluster) : (setCluster s k c).slotTab = s.slotTab := rfl
@[simp] theorem setCluster_discards (s : State) (k : Nat) (c : Cluster) : (setCluster s k c).discards = s.discards := rfl
@[simp] theorem setCluster_words (s : State) (k : Nat) (c : Cluster) : (setCluster s k c).words = s.words := rfl
@[simp] theorem setCluster_tabWrites (s : State) (k : Nat) (c : Cluster) : (setCluster s k c).tabWrites = s.tabWrites := rfl
@[simp] theorem setCluster_gens (s : State) (k : Nat) (c : Cluster) : (setCluster s k c).gens = s.gens := rfl
@[simp] theorem setCluster_cfgBeats (s : State) (k : Nat) (c : Cluster) : (setCluster s k c).cfgBeats = s.cfgBeats := rfl
@[simp] theorem setCluster_changes (s : State) (k : Nat) (c : Cluster) : (setCluster s k c).changes = s.changes := rfl
@[simp] theorem setCluster_belfry (s : State) (k : Nat) (c : Cluster) : (setCluster s k c).belfry = s.belfry := rfl
@[simp] theorem setCluster_belTurn (s : State) (k : Nat) (c : Cluster) : (setCluster s k c).belTurn = s.belTurn := rfl
@[simp] theorem setCluster_belFree (s : State) (k : Nat) (c : Cluster) : (setCluster s k c).belFree = s.belFree := rfl
@[simp] theorem setCluster_shifted (s : State) (k : Nat) (c : Cluster) : (setCluster s k c).shifted = s.shifted := rfl
@[simp] theorem setCluster_ports (s : State) (k : Nat) (c : Cluster) : (setCluster s k c).ports = s.ports := rfl
@[simp] theorem setCluster_offs (s : State) (k : Nat) (c : Cluster) : (setCluster s k c).offs = s.offs := rfl
@[simp] theorem setCluster_offsSince (s : State) (k : Nat) (c : Cluster) : (setCluster s k c).offsSince = s.offsSince := rfl
@[simp] theorem setCluster_offsBelow (s : State) (k : Nat) (c : Cluster) : (setCluster s k c).offsBelow = s.offsBelow := rfl
@[simp] theorem setCluster_hswitch (s : State) (k : Nat) (c : Cluster) : (setCluster s k c).hswitch = s.hswitch := rfl
@[simp] theorem setCluster_hwarned (s : State) (k : Nat) (c : Cluster) : (setCluster s k c).hwarned = s.hwarned := rfl
@[simp] theorem setCluster_switching (s : State) (k : Nat) (c : Cluster) : (setCluster s k c).switching = s.switching := rfl
@[simp] theorem setCluster_sched (s : State) (k : Nat) (c : Cluster) : (setCluster s k c).sched = s.sched := rfl
@[simp] theorem setCluster_spl (s : State) (k : Nat) (c : Cluster) : (setCluster s k c).spl = s.spl := rfl
@[simp] theorem setCluster_vfEnable (s : State) (k : Nat) (c : Cluster) : (setCluster s k c).vfEnable = s.vfEnable := rfl
@[simp] theorem setCluster_numVfs (s : State) (k : Nat) (c : Cluster) : (setCluster s k c).numVfs = s.numVfs := rfl
@[simp] theorem setCluster_unsupported (s : State) (k : Nat) (c : Cluster) : (setCluster s k c).unsupported = s.unsupported := rfl
@[simp] theorem setCluster_sysBlk (s : State) (k : Nat) (c : Cluster) : (setCluster s k c).sysBlk = s.sysBlk := rfl
@[simp] theorem setCluster_funcs (s : State) (k : Nat) (c : Cluster) : (setCluster s k c).funcs = s.funcs := rfl
@[simp] theorem setCluster_hostMem (s : State) (k : Nat) (c : Cluster) : (setCluster s k c).hostMem = s.hostMem := rfl
@[simp] theorem setCluster_blkChanges (s : State) (k : Nat) (c : Cluster) : (setCluster s k c).blkChanges = s.blkChanges := rfl
@[simp] theorem setCluster_patches (s : State) (k : Nat) (c : Cluster) : (setCluster s k c).patches = s.patches := rfl
@[simp] theorem setCluster_power (s : State) (k : Nat) (c : Cluster) : (setCluster s k c).power = s.power := rfl
@[simp] theorem setCluster_rails (s : State) (k : Nat) (c : Cluster) : (setCluster s k c).rails = s.rails := rfl
@[simp] theorem setCluster_fcmdAll (s : State) (k : Nat) (c : Cluster) : (setCluster s k c).fcmdAll = s.fcmdAll := rfl
@[simp] theorem setCluster_fcmdSel (s : State) (k : Nat) (c : Cluster) : (setCluster s k c).fcmdSel = s.fcmdSel := rfl
@[simp] theorem setCluster_cntpolSel (s : State) (k : Nat) (c : Cluster) : (setCluster s k c).cntpolSel = s.cntpolSel := rfl
@[simp] theorem setCluster_telemAt (s : State) (k : Nat) (c : Cluster) : (setCluster s k c).telemAt = s.telemAt := rfl
@[simp] theorem setCluster_boot (s : State) (k : Nat) (c : Cluster) : (setCluster s k c).boot = s.boot := rfl
@[simp] theorem setCluster_bell (s : State) (k : Nat) (c : Cluster) : (setCluster s k c).bell = s.bell := rfl
@[simp] theorem setCluster_bellbuf (s : State) (k : Nat) (c : Cluster) : (setCluster s k c).bellbuf = s.bellbuf := rfl
@[simp] theorem setCluster_bellCtx (s : State) (k : Nat) (c : Cluster) : (setCluster s k c).bellCtx = s.bellCtx := rfl
@[simp] theorem setCluster_lanRun (s : State) (k : Nat) (c : Cluster) : (setCluster s k c).lanRun = s.lanRun := rfl
@[simp] theorem setCluster_errors (s : State) (k : Nat) (c : Cluster) : (setCluster s k c).errors = s.errors := rfl

@[simp] theorem setDie_cur (s : State) (k : Nat) (d : Die) : (setDie s k d).cur = s.cur := rfl
@[simp] theorem setDie_pair (s : State) (k : Nat) (d : Die) : (setDie s k d).pair = s.pair := rfl
@[simp] theorem setDie_agenda (s : State) (k : Nat) (d : Die) : (setDie s k d).agenda = s.agenda := rfl
@[simp] theorem setDie_arg (s : State) (k : Nat) (d : Die) : (setDie s k d).arg = s.arg := rfl
@[simp] theorem setDie_slotsPerRotation (s : State) (k : Nat) (d : Die) : (setDie s k d).slotsPerRotation = s.slotsPerRotation := rfl
@[simp] theorem setDie_nextId (s : State) (k : Nat) (d : Die) : (setDie s k d).nextId = s.nextId := rfl
@[simp] theorem setDie_wheel (s : State) (k : Nat) (d : Die) : (setDie s k d).wheel = s.wheel := rfl
@[simp] theorem setDie_W (s : State) (k : Nat) (d : Die) : (setDie s k d).W = s.W := rfl
@[simp] theorem setDie_modNo (s : State) (k : Nat) (d : Die) : (setDie s k d).modNo = s.modNo := rfl
@[simp] theorem setDie_cores (s : State) (k : Nat) (d : Die) : (setDie s k d).cores = s.cores := rfl
@[simp] theorem setDie_clusters (s : State) (k : Nat) (d : Die) : (setDie s k d).clusters = s.clusters := rfl
theorem setDie_dies (s : State) (k : Nat) (d : Die) : (setDie s k d).dies = mapSet s.dies k d := rfl
@[simp] theorem setDie_domes (s : State) (k : Nat) (d : Die) : (setDie s k d).domes = s.domes := rfl
@[simp] theorem setDie_circuits (s : State) (k : Nat) (d : Die) : (setDie s k d).circuits = s.circuits := rfl
@[simp] theorem setDie_ipis (s : State) (k : Nat) (d : Die) : (setDie s k d).ipis = s.ipis := rfl
@[simp] theorem setDie_ctxs (s : State) (k : Nat) (d : Die) : (setDie s k d).ctxs = s.ctxs := rfl
@[simp] theorem setDie_seals (s : State) (k : Nat) (d : Die) : (setDie s k d).seals = s.seals := rfl
@[simp] theorem setDie_spire (s : State) (k : Nat) (d : Die) : (setDie s k d).spire = s.spire := rfl
@[simp] theorem setDie_slotTab (s : State) (k : Nat) (d : Die) : (setDie s k d).slotTab = s.slotTab := rfl
@[simp] theorem setDie_discards (s : State) (k : Nat) (d : Die) : (setDie s k d).discards = s.discards := rfl
@[simp] theorem setDie_words (s : State) (k : Nat) (d : Die) : (setDie s k d).words = s.words := rfl
@[simp] theorem setDie_tabWrites (s : State) (k : Nat) (d : Die) : (setDie s k d).tabWrites = s.tabWrites := rfl
@[simp] theorem setDie_gens (s : State) (k : Nat) (d : Die) : (setDie s k d).gens = s.gens := rfl
@[simp] theorem setDie_cfgBeats (s : State) (k : Nat) (d : Die) : (setDie s k d).cfgBeats = s.cfgBeats := rfl
@[simp] theorem setDie_changes (s : State) (k : Nat) (d : Die) : (setDie s k d).changes = s.changes := rfl
@[simp] theorem setDie_belfry (s : State) (k : Nat) (d : Die) : (setDie s k d).belfry = s.belfry := rfl
@[simp] theorem setDie_belTurn (s : State) (k : Nat) (d : Die) : (setDie s k d).belTurn = s.belTurn := rfl
@[simp] theorem setDie_belFree (s : State) (k : Nat) (d : Die) : (setDie s k d).belFree = s.belFree := rfl
@[simp] theorem setDie_shifted (s : State) (k : Nat) (d : Die) : (setDie s k d).shifted = s.shifted := rfl
@[simp] theorem setDie_ports (s : State) (k : Nat) (d : Die) : (setDie s k d).ports = s.ports := rfl
@[simp] theorem setDie_offs (s : State) (k : Nat) (d : Die) : (setDie s k d).offs = s.offs := rfl
@[simp] theorem setDie_offsSince (s : State) (k : Nat) (d : Die) : (setDie s k d).offsSince = s.offsSince := rfl
@[simp] theorem setDie_offsBelow (s : State) (k : Nat) (d : Die) : (setDie s k d).offsBelow = s.offsBelow := rfl
@[simp] theorem setDie_hswitch (s : State) (k : Nat) (d : Die) : (setDie s k d).hswitch = s.hswitch := rfl
@[simp] theorem setDie_hwarned (s : State) (k : Nat) (d : Die) : (setDie s k d).hwarned = s.hwarned := rfl
@[simp] theorem setDie_switching (s : State) (k : Nat) (d : Die) : (setDie s k d).switching = s.switching := rfl
@[simp] theorem setDie_sched (s : State) (k : Nat) (d : Die) : (setDie s k d).sched = s.sched := rfl
@[simp] theorem setDie_spl (s : State) (k : Nat) (d : Die) : (setDie s k d).spl = s.spl := rfl
@[simp] theorem setDie_vfEnable (s : State) (k : Nat) (d : Die) : (setDie s k d).vfEnable = s.vfEnable := rfl
@[simp] theorem setDie_numVfs (s : State) (k : Nat) (d : Die) : (setDie s k d).numVfs = s.numVfs := rfl
@[simp] theorem setDie_unsupported (s : State) (k : Nat) (d : Die) : (setDie s k d).unsupported = s.unsupported := rfl
@[simp] theorem setDie_sysBlk (s : State) (k : Nat) (d : Die) : (setDie s k d).sysBlk = s.sysBlk := rfl
@[simp] theorem setDie_funcs (s : State) (k : Nat) (d : Die) : (setDie s k d).funcs = s.funcs := rfl
@[simp] theorem setDie_hostMem (s : State) (k : Nat) (d : Die) : (setDie s k d).hostMem = s.hostMem := rfl
@[simp] theorem setDie_blkChanges (s : State) (k : Nat) (d : Die) : (setDie s k d).blkChanges = s.blkChanges := rfl
@[simp] theorem setDie_patches (s : State) (k : Nat) (d : Die) : (setDie s k d).patches = s.patches := rfl
@[simp] theorem setDie_power (s : State) (k : Nat) (d : Die) : (setDie s k d).power = s.power := rfl
@[simp] theorem setDie_rails (s : State) (k : Nat) (d : Die) : (setDie s k d).rails = s.rails := rfl
@[simp] theorem setDie_fcmdAll (s : State) (k : Nat) (d : Die) : (setDie s k d).fcmdAll = s.fcmdAll := rfl
@[simp] theorem setDie_fcmdSel (s : State) (k : Nat) (d : Die) : (setDie s k d).fcmdSel = s.fcmdSel := rfl
@[simp] theorem setDie_cntpolSel (s : State) (k : Nat) (d : Die) : (setDie s k d).cntpolSel = s.cntpolSel := rfl
@[simp] theorem setDie_telemAt (s : State) (k : Nat) (d : Die) : (setDie s k d).telemAt = s.telemAt := rfl
@[simp] theorem setDie_boot (s : State) (k : Nat) (d : Die) : (setDie s k d).boot = s.boot := rfl
@[simp] theorem setDie_bell (s : State) (k : Nat) (d : Die) : (setDie s k d).bell = s.bell := rfl
@[simp] theorem setDie_bellbuf (s : State) (k : Nat) (d : Die) : (setDie s k d).bellbuf = s.bellbuf := rfl
@[simp] theorem setDie_bellCtx (s : State) (k : Nat) (d : Die) : (setDie s k d).bellCtx = s.bellCtx := rfl
@[simp] theorem setDie_lanRun (s : State) (k : Nat) (d : Die) : (setDie s k d).lanRun = s.lanRun := rfl
@[simp] theorem setDie_errors (s : State) (k : Nat) (d : Die) : (setDie s k d).errors = s.errors := rfl

@[simp] theorem setDome_cur (s : State) (k : Nat) (d : Dome) : (setDome s k d).cur = s.cur := rfl
@[simp] theorem setDome_pair (s : State) (k : Nat) (d : Dome) : (setDome s k d).pair = s.pair := rfl
@[simp] theorem setDome_agenda (s : State) (k : Nat) (d : Dome) : (setDome s k d).agenda = s.agenda := rfl
@[simp] theorem setDome_arg (s : State) (k : Nat) (d : Dome) : (setDome s k d).arg = s.arg := rfl
@[simp] theorem setDome_slotsPerRotation (s : State) (k : Nat) (d : Dome) : (setDome s k d).slotsPerRotation = s.slotsPerRotation := rfl
@[simp] theorem setDome_nextId (s : State) (k : Nat) (d : Dome) : (setDome s k d).nextId = s.nextId := rfl
@[simp] theorem setDome_wheel (s : State) (k : Nat) (d : Dome) : (setDome s k d).wheel = s.wheel := rfl
@[simp] theorem setDome_W (s : State) (k : Nat) (d : Dome) : (setDome s k d).W = s.W := rfl
@[simp] theorem setDome_modNo (s : State) (k : Nat) (d : Dome) : (setDome s k d).modNo = s.modNo := rfl
@[simp] theorem setDome_cores (s : State) (k : Nat) (d : Dome) : (setDome s k d).cores = s.cores := rfl
@[simp] theorem setDome_clusters (s : State) (k : Nat) (d : Dome) : (setDome s k d).clusters = s.clusters := rfl
@[simp] theorem setDome_dies (s : State) (k : Nat) (d : Dome) : (setDome s k d).dies = s.dies := rfl
theorem setDome_domes (s : State) (k : Nat) (d : Dome) : (setDome s k d).domes = mapSet s.domes k d := rfl
@[simp] theorem setDome_circuits (s : State) (k : Nat) (d : Dome) : (setDome s k d).circuits = s.circuits := rfl
@[simp] theorem setDome_ipis (s : State) (k : Nat) (d : Dome) : (setDome s k d).ipis = s.ipis := rfl
@[simp] theorem setDome_ctxs (s : State) (k : Nat) (d : Dome) : (setDome s k d).ctxs = s.ctxs := rfl
@[simp] theorem setDome_seals (s : State) (k : Nat) (d : Dome) : (setDome s k d).seals = s.seals := rfl
@[simp] theorem setDome_spire (s : State) (k : Nat) (d : Dome) : (setDome s k d).spire = s.spire := rfl
@[simp] theorem setDome_slotTab (s : State) (k : Nat) (d : Dome) : (setDome s k d).slotTab = s.slotTab := rfl
@[simp] theorem setDome_discards (s : State) (k : Nat) (d : Dome) : (setDome s k d).discards = s.discards := rfl
@[simp] theorem setDome_words (s : State) (k : Nat) (d : Dome) : (setDome s k d).words = s.words := rfl
@[simp] theorem setDome_tabWrites (s : State) (k : Nat) (d : Dome) : (setDome s k d).tabWrites = s.tabWrites := rfl
@[simp] theorem setDome_gens (s : State) (k : Nat) (d : Dome) : (setDome s k d).gens = s.gens := rfl
@[simp] theorem setDome_cfgBeats (s : State) (k : Nat) (d : Dome) : (setDome s k d).cfgBeats = s.cfgBeats := rfl
@[simp] theorem setDome_changes (s : State) (k : Nat) (d : Dome) : (setDome s k d).changes = s.changes := rfl
@[simp] theorem setDome_belfry (s : State) (k : Nat) (d : Dome) : (setDome s k d).belfry = s.belfry := rfl
@[simp] theorem setDome_belTurn (s : State) (k : Nat) (d : Dome) : (setDome s k d).belTurn = s.belTurn := rfl
@[simp] theorem setDome_belFree (s : State) (k : Nat) (d : Dome) : (setDome s k d).belFree = s.belFree := rfl
@[simp] theorem setDome_shifted (s : State) (k : Nat) (d : Dome) : (setDome s k d).shifted = s.shifted := rfl
@[simp] theorem setDome_ports (s : State) (k : Nat) (d : Dome) : (setDome s k d).ports = s.ports := rfl
@[simp] theorem setDome_offs (s : State) (k : Nat) (d : Dome) : (setDome s k d).offs = s.offs := rfl
@[simp] theorem setDome_offsSince (s : State) (k : Nat) (d : Dome) : (setDome s k d).offsSince = s.offsSince := rfl
@[simp] theorem setDome_offsBelow (s : State) (k : Nat) (d : Dome) : (setDome s k d).offsBelow = s.offsBelow := rfl
@[simp] theorem setDome_hswitch (s : State) (k : Nat) (d : Dome) : (setDome s k d).hswitch = s.hswitch := rfl
@[simp] theorem setDome_hwarned (s : State) (k : Nat) (d : Dome) : (setDome s k d).hwarned = s.hwarned := rfl
@[simp] theorem setDome_switching (s : State) (k : Nat) (d : Dome) : (setDome s k d).switching = s.switching := rfl
@[simp] theorem setDome_sched (s : State) (k : Nat) (d : Dome) : (setDome s k d).sched = s.sched := rfl
@[simp] theorem setDome_spl (s : State) (k : Nat) (d : Dome) : (setDome s k d).spl = s.spl := rfl
@[simp] theorem setDome_vfEnable (s : State) (k : Nat) (d : Dome) : (setDome s k d).vfEnable = s.vfEnable := rfl
@[simp] theorem setDome_numVfs (s : State) (k : Nat) (d : Dome) : (setDome s k d).numVfs = s.numVfs := rfl
@[simp] theorem setDome_unsupported (s : State) (k : Nat) (d : Dome) : (setDome s k d).unsupported = s.unsupported := rfl
@[simp] theorem setDome_sysBlk (s : State) (k : Nat) (d : Dome) : (setDome s k d).sysBlk = s.sysBlk := rfl
@[simp] theorem setDome_funcs (s : State) (k : Nat) (d : Dome) : (setDome s k d).funcs = s.funcs := rfl
@[simp] theorem setDome_hostMem (s : State) (k : Nat) (d : Dome) : (setDome s k d).hostMem = s.hostMem := rfl
@[simp] theorem setDome_blkChanges (s : State) (k : Nat) (d : Dome) : (setDome s k d).blkChanges = s.blkChanges := rfl
@[simp] theorem setDome_patches (s : State) (k : Nat) (d : Dome) : (setDome s k d).patches = s.patches := rfl
@[simp] theorem setDome_power (s : State) (k : Nat) (d : Dome) : (setDome s k d).power = s.power := rfl
@[simp] theorem setDome_rails (s : State) (k : Nat) (d : Dome) : (setDome s k d).rails = s.rails := rfl
@[simp] theorem setDome_fcmdAll (s : State) (k : Nat) (d : Dome) : (setDome s k d).fcmdAll = s.fcmdAll := rfl
@[simp] theorem setDome_fcmdSel (s : State) (k : Nat) (d : Dome) : (setDome s k d).fcmdSel = s.fcmdSel := rfl
@[simp] theorem setDome_cntpolSel (s : State) (k : Nat) (d : Dome) : (setDome s k d).cntpolSel = s.cntpolSel := rfl
@[simp] theorem setDome_telemAt (s : State) (k : Nat) (d : Dome) : (setDome s k d).telemAt = s.telemAt := rfl
@[simp] theorem setDome_boot (s : State) (k : Nat) (d : Dome) : (setDome s k d).boot = s.boot := rfl
@[simp] theorem setDome_bell (s : State) (k : Nat) (d : Dome) : (setDome s k d).bell = s.bell := rfl
@[simp] theorem setDome_bellbuf (s : State) (k : Nat) (d : Dome) : (setDome s k d).bellbuf = s.bellbuf := rfl
@[simp] theorem setDome_bellCtx (s : State) (k : Nat) (d : Dome) : (setDome s k d).bellCtx = s.bellCtx := rfl
@[simp] theorem setDome_lanRun (s : State) (k : Nat) (d : Dome) : (setDome s k d).lanRun = s.lanRun := rfl
@[simp] theorem setDome_errors (s : State) (k : Nat) (d : Dome) : (setDome s k d).errors = s.errors := rfl

@[simp] theorem setCircuit_cur (s : State) (k : Nat) (c : Circuit) : (setCircuit s k c).cur = s.cur := rfl
@[simp] theorem setCircuit_pair (s : State) (k : Nat) (c : Circuit) : (setCircuit s k c).pair = s.pair := rfl
@[simp] theorem setCircuit_agenda (s : State) (k : Nat) (c : Circuit) : (setCircuit s k c).agenda = s.agenda := rfl
@[simp] theorem setCircuit_arg (s : State) (k : Nat) (c : Circuit) : (setCircuit s k c).arg = s.arg := rfl
@[simp] theorem setCircuit_slotsPerRotation (s : State) (k : Nat) (c : Circuit) : (setCircuit s k c).slotsPerRotation = s.slotsPerRotation := rfl
@[simp] theorem setCircuit_nextId (s : State) (k : Nat) (c : Circuit) : (setCircuit s k c).nextId = s.nextId := rfl
@[simp] theorem setCircuit_wheel (s : State) (k : Nat) (c : Circuit) : (setCircuit s k c).wheel = s.wheel := rfl
@[simp] theorem setCircuit_W (s : State) (k : Nat) (c : Circuit) : (setCircuit s k c).W = s.W := rfl
@[simp] theorem setCircuit_modNo (s : State) (k : Nat) (c : Circuit) : (setCircuit s k c).modNo = s.modNo := rfl
@[simp] theorem setCircuit_cores (s : State) (k : Nat) (c : Circuit) : (setCircuit s k c).cores = s.cores := rfl
@[simp] theorem setCircuit_clusters (s : State) (k : Nat) (c : Circuit) : (setCircuit s k c).clusters = s.clusters := rfl
@[simp] theorem setCircuit_dies (s : State) (k : Nat) (c : Circuit) : (setCircuit s k c).dies = s.dies := rfl
@[simp] theorem setCircuit_domes (s : State) (k : Nat) (c : Circuit) : (setCircuit s k c).domes = s.domes := rfl
theorem setCircuit_circuits (s : State) (k : Nat) (c : Circuit) : (setCircuit s k c).circuits = mapSet s.circuits k c := rfl
@[simp] theorem setCircuit_ipis (s : State) (k : Nat) (c : Circuit) : (setCircuit s k c).ipis = s.ipis := rfl
@[simp] theorem setCircuit_ctxs (s : State) (k : Nat) (c : Circuit) : (setCircuit s k c).ctxs = s.ctxs := rfl
@[simp] theorem setCircuit_seals (s : State) (k : Nat) (c : Circuit) : (setCircuit s k c).seals = s.seals := rfl
@[simp] theorem setCircuit_spire (s : State) (k : Nat) (c : Circuit) : (setCircuit s k c).spire = s.spire := rfl
@[simp] theorem setCircuit_slotTab (s : State) (k : Nat) (c : Circuit) : (setCircuit s k c).slotTab = s.slotTab := rfl
@[simp] theorem setCircuit_discards (s : State) (k : Nat) (c : Circuit) : (setCircuit s k c).discards = s.discards := rfl
@[simp] theorem setCircuit_words (s : State) (k : Nat) (c : Circuit) : (setCircuit s k c).words = s.words := rfl
@[simp] theorem setCircuit_tabWrites (s : State) (k : Nat) (c : Circuit) : (setCircuit s k c).tabWrites = s.tabWrites := rfl
@[simp] theorem setCircuit_gens (s : State) (k : Nat) (c : Circuit) : (setCircuit s k c).gens = s.gens := rfl
@[simp] theorem setCircuit_cfgBeats (s : State) (k : Nat) (c : Circuit) : (setCircuit s k c).cfgBeats = s.cfgBeats := rfl
@[simp] theorem setCircuit_changes (s : State) (k : Nat) (c : Circuit) : (setCircuit s k c).changes = s.changes := rfl
@[simp] theorem setCircuit_belfry (s : State) (k : Nat) (c : Circuit) : (setCircuit s k c).belfry = s.belfry := rfl
@[simp] theorem setCircuit_belTurn (s : State) (k : Nat) (c : Circuit) : (setCircuit s k c).belTurn = s.belTurn := rfl
@[simp] theorem setCircuit_belFree (s : State) (k : Nat) (c : Circuit) : (setCircuit s k c).belFree = s.belFree := rfl
@[simp] theorem setCircuit_shifted (s : State) (k : Nat) (c : Circuit) : (setCircuit s k c).shifted = s.shifted := rfl
@[simp] theorem setCircuit_ports (s : State) (k : Nat) (c : Circuit) : (setCircuit s k c).ports = s.ports := rfl
@[simp] theorem setCircuit_offs (s : State) (k : Nat) (c : Circuit) : (setCircuit s k c).offs = s.offs := rfl
@[simp] theorem setCircuit_offsSince (s : State) (k : Nat) (c : Circuit) : (setCircuit s k c).offsSince = s.offsSince := rfl
@[simp] theorem setCircuit_offsBelow (s : State) (k : Nat) (c : Circuit) : (setCircuit s k c).offsBelow = s.offsBelow := rfl
@[simp] theorem setCircuit_hswitch (s : State) (k : Nat) (c : Circuit) : (setCircuit s k c).hswitch = s.hswitch := rfl
@[simp] theorem setCircuit_hwarned (s : State) (k : Nat) (c : Circuit) : (setCircuit s k c).hwarned = s.hwarned := rfl
@[simp] theorem setCircuit_switching (s : State) (k : Nat) (c : Circuit) : (setCircuit s k c).switching = s.switching := rfl
@[simp] theorem setCircuit_sched (s : State) (k : Nat) (c : Circuit) : (setCircuit s k c).sched = s.sched := rfl
@[simp] theorem setCircuit_spl (s : State) (k : Nat) (c : Circuit) : (setCircuit s k c).spl = s.spl := rfl
@[simp] theorem setCircuit_vfEnable (s : State) (k : Nat) (c : Circuit) : (setCircuit s k c).vfEnable = s.vfEnable := rfl
@[simp] theorem setCircuit_numVfs (s : State) (k : Nat) (c : Circuit) : (setCircuit s k c).numVfs = s.numVfs := rfl
@[simp] theorem setCircuit_unsupported (s : State) (k : Nat) (c : Circuit) : (setCircuit s k c).unsupported = s.unsupported := rfl
@[simp] theorem setCircuit_sysBlk (s : State) (k : Nat) (c : Circuit) : (setCircuit s k c).sysBlk = s.sysBlk := rfl
@[simp] theorem setCircuit_funcs (s : State) (k : Nat) (c : Circuit) : (setCircuit s k c).funcs = s.funcs := rfl
@[simp] theorem setCircuit_hostMem (s : State) (k : Nat) (c : Circuit) : (setCircuit s k c).hostMem = s.hostMem := rfl
@[simp] theorem setCircuit_blkChanges (s : State) (k : Nat) (c : Circuit) : (setCircuit s k c).blkChanges = s.blkChanges := rfl
@[simp] theorem setCircuit_patches (s : State) (k : Nat) (c : Circuit) : (setCircuit s k c).patches = s.patches := rfl
@[simp] theorem setCircuit_power (s : State) (k : Nat) (c : Circuit) : (setCircuit s k c).power = s.power := rfl
@[simp] theorem setCircuit_rails (s : State) (k : Nat) (c : Circuit) : (setCircuit s k c).rails = s.rails := rfl
@[simp] theorem setCircuit_fcmdAll (s : State) (k : Nat) (c : Circuit) : (setCircuit s k c).fcmdAll = s.fcmdAll := rfl
@[simp] theorem setCircuit_fcmdSel (s : State) (k : Nat) (c : Circuit) : (setCircuit s k c).fcmdSel = s.fcmdSel := rfl
@[simp] theorem setCircuit_cntpolSel (s : State) (k : Nat) (c : Circuit) : (setCircuit s k c).cntpolSel = s.cntpolSel := rfl
@[simp] theorem setCircuit_telemAt (s : State) (k : Nat) (c : Circuit) : (setCircuit s k c).telemAt = s.telemAt := rfl
@[simp] theorem setCircuit_boot (s : State) (k : Nat) (c : Circuit) : (setCircuit s k c).boot = s.boot := rfl
@[simp] theorem setCircuit_bell (s : State) (k : Nat) (c : Circuit) : (setCircuit s k c).bell = s.bell := rfl
@[simp] theorem setCircuit_bellbuf (s : State) (k : Nat) (c : Circuit) : (setCircuit s k c).bellbuf = s.bellbuf := rfl
@[simp] theorem setCircuit_bellCtx (s : State) (k : Nat) (c : Circuit) : (setCircuit s k c).bellCtx = s.bellCtx := rfl
@[simp] theorem setCircuit_lanRun (s : State) (k : Nat) (c : Circuit) : (setCircuit s k c).lanRun = s.lanRun := rfl
@[simp] theorem setCircuit_errors (s : State) (k : Nat) (c : Circuit) : (setCircuit s k c).errors = s.errors := rfl

@[simp] theorem setCtx_cur (s : State) (k : Nat) (c : Ctx) : (setCtx s k c).cur = s.cur := rfl
@[simp] theorem setCtx_pair (s : State) (k : Nat) (c : Ctx) : (setCtx s k c).pair = s.pair := rfl
@[simp] theorem setCtx_agenda (s : State) (k : Nat) (c : Ctx) : (setCtx s k c).agenda = s.agenda := rfl
@[simp] theorem setCtx_arg (s : State) (k : Nat) (c : Ctx) : (setCtx s k c).arg = s.arg := rfl
@[simp] theorem setCtx_slotsPerRotation (s : State) (k : Nat) (c : Ctx) : (setCtx s k c).slotsPerRotation = s.slotsPerRotation := rfl
@[simp] theorem setCtx_nextId (s : State) (k : Nat) (c : Ctx) : (setCtx s k c).nextId = s.nextId := rfl
@[simp] theorem setCtx_wheel (s : State) (k : Nat) (c : Ctx) : (setCtx s k c).wheel = s.wheel := rfl
@[simp] theorem setCtx_W (s : State) (k : Nat) (c : Ctx) : (setCtx s k c).W = s.W := rfl
@[simp] theorem setCtx_modNo (s : State) (k : Nat) (c : Ctx) : (setCtx s k c).modNo = s.modNo := rfl
@[simp] theorem setCtx_cores (s : State) (k : Nat) (c : Ctx) : (setCtx s k c).cores = s.cores := rfl
@[simp] theorem setCtx_clusters (s : State) (k : Nat) (c : Ctx) : (setCtx s k c).clusters = s.clusters := rfl
@[simp] theorem setCtx_dies (s : State) (k : Nat) (c : Ctx) : (setCtx s k c).dies = s.dies := rfl
@[simp] theorem setCtx_domes (s : State) (k : Nat) (c : Ctx) : (setCtx s k c).domes = s.domes := rfl
@[simp] theorem setCtx_circuits (s : State) (k : Nat) (c : Ctx) : (setCtx s k c).circuits = s.circuits := rfl
@[simp] theorem setCtx_ipis (s : State) (k : Nat) (c : Ctx) : (setCtx s k c).ipis = s.ipis := rfl
theorem setCtx_ctxs (s : State) (k : Nat) (c : Ctx) : (setCtx s k c).ctxs = mapSet s.ctxs k c := rfl
@[simp] theorem setCtx_seals (s : State) (k : Nat) (c : Ctx) : (setCtx s k c).seals = s.seals := rfl
@[simp] theorem setCtx_spire (s : State) (k : Nat) (c : Ctx) : (setCtx s k c).spire = s.spire := rfl
@[simp] theorem setCtx_slotTab (s : State) (k : Nat) (c : Ctx) : (setCtx s k c).slotTab = s.slotTab := rfl
@[simp] theorem setCtx_discards (s : State) (k : Nat) (c : Ctx) : (setCtx s k c).discards = s.discards := rfl
@[simp] theorem setCtx_words (s : State) (k : Nat) (c : Ctx) : (setCtx s k c).words = s.words := rfl
@[simp] theorem setCtx_tabWrites (s : State) (k : Nat) (c : Ctx) : (setCtx s k c).tabWrites = s.tabWrites := rfl
@[simp] theorem setCtx_gens (s : State) (k : Nat) (c : Ctx) : (setCtx s k c).gens = s.gens := rfl
@[simp] theorem setCtx_cfgBeats (s : State) (k : Nat) (c : Ctx) : (setCtx s k c).cfgBeats = s.cfgBeats := rfl
@[simp] theorem setCtx_changes (s : State) (k : Nat) (c : Ctx) : (setCtx s k c).changes = s.changes := rfl
@[simp] theorem setCtx_belfry (s : State) (k : Nat) (c : Ctx) : (setCtx s k c).belfry = s.belfry := rfl
@[simp] theorem setCtx_belTurn (s : State) (k : Nat) (c : Ctx) : (setCtx s k c).belTurn = s.belTurn := rfl
@[simp] theorem setCtx_belFree (s : State) (k : Nat) (c : Ctx) : (setCtx s k c).belFree = s.belFree := rfl
@[simp] theorem setCtx_shifted (s : State) (k : Nat) (c : Ctx) : (setCtx s k c).shifted = s.shifted := rfl
@[simp] theorem setCtx_ports (s : State) (k : Nat) (c : Ctx) : (setCtx s k c).ports = s.ports := rfl
@[simp] theorem setCtx_offs (s : State) (k : Nat) (c : Ctx) : (setCtx s k c).offs = s.offs := rfl
@[simp] theorem setCtx_offsSince (s : State) (k : Nat) (c : Ctx) : (setCtx s k c).offsSince = s.offsSince := rfl
@[simp] theorem setCtx_offsBelow (s : State) (k : Nat) (c : Ctx) : (setCtx s k c).offsBelow = s.offsBelow := rfl
@[simp] theorem setCtx_hswitch (s : State) (k : Nat) (c : Ctx) : (setCtx s k c).hswitch = s.hswitch := rfl
@[simp] theorem setCtx_hwarned (s : State) (k : Nat) (c : Ctx) : (setCtx s k c).hwarned = s.hwarned := rfl
@[simp] theorem setCtx_switching (s : State) (k : Nat) (c : Ctx) : (setCtx s k c).switching = s.switching := rfl
@[simp] theorem setCtx_sched (s : State) (k : Nat) (c : Ctx) : (setCtx s k c).sched = s.sched := rfl
@[simp] theorem setCtx_spl (s : State) (k : Nat) (c : Ctx) : (setCtx s k c).spl = s.spl := rfl
@[simp] theorem setCtx_vfEnable (s : State) (k : Nat) (c : Ctx) : (setCtx s k c).vfEnable = s.vfEnable := rfl
@[simp] theorem setCtx_numVfs (s : State) (k : Nat) (c : Ctx) : (setCtx s k c).numVfs = s.numVfs := rfl
@[simp] theorem setCtx_unsupported (s : State) (k : Nat) (c : Ctx) : (setCtx s k c).unsupported = s.unsupported := rfl
@[simp] theorem setCtx_sysBlk (s : State) (k : Nat) (c : Ctx) : (setCtx s k c).sysBlk = s.sysBlk := rfl
@[simp] theorem setCtx_funcs (s : State) (k : Nat) (c : Ctx) : (setCtx s k c).funcs = s.funcs := rfl
@[simp] theorem setCtx_hostMem (s : State) (k : Nat) (c : Ctx) : (setCtx s k c).hostMem = s.hostMem := rfl
@[simp] theorem setCtx_blkChanges (s : State) (k : Nat) (c : Ctx) : (setCtx s k c).blkChanges = s.blkChanges := rfl
@[simp] theorem setCtx_patches (s : State) (k : Nat) (c : Ctx) : (setCtx s k c).patches = s.patches := rfl
@[simp] theorem setCtx_power (s : State) (k : Nat) (c : Ctx) : (setCtx s k c).power = s.power := rfl
@[simp] theorem setCtx_rails (s : State) (k : Nat) (c : Ctx) : (setCtx s k c).rails = s.rails := rfl
@[simp] theorem setCtx_fcmdAll (s : State) (k : Nat) (c : Ctx) : (setCtx s k c).fcmdAll = s.fcmdAll := rfl
@[simp] theorem setCtx_fcmdSel (s : State) (k : Nat) (c : Ctx) : (setCtx s k c).fcmdSel = s.fcmdSel := rfl
@[simp] theorem setCtx_cntpolSel (s : State) (k : Nat) (c : Ctx) : (setCtx s k c).cntpolSel = s.cntpolSel := rfl
@[simp] theorem setCtx_telemAt (s : State) (k : Nat) (c : Ctx) : (setCtx s k c).telemAt = s.telemAt := rfl
@[simp] theorem setCtx_boot (s : State) (k : Nat) (c : Ctx) : (setCtx s k c).boot = s.boot := rfl
@[simp] theorem setCtx_bell (s : State) (k : Nat) (c : Ctx) : (setCtx s k c).bell = s.bell := rfl
@[simp] theorem setCtx_bellbuf (s : State) (k : Nat) (c : Ctx) : (setCtx s k c).bellbuf = s.bellbuf := rfl
@[simp] theorem setCtx_bellCtx (s : State) (k : Nat) (c : Ctx) : (setCtx s k c).bellCtx = s.bellCtx := rfl
@[simp] theorem setCtx_lanRun (s : State) (k : Nat) (c : Ctx) : (setCtx s k c).lanRun = s.lanRun := rfl
@[simp] theorem setCtx_errors (s : State) (k : Nat) (c : Ctx) : (setCtx s k c).errors = s.errors := rfl

@[simp] theorem setThread_cur (s : State) (u : Tid) (th : Thread) : (setThread s u th).cur = s.cur := rfl
@[simp] theorem setThread_pair (s : State) (u : Tid) (th : Thread) : (setThread s u th).pair = s.pair := rfl
@[simp] theorem setThread_agenda (s : State) (u : Tid) (th : Thread) : (setThread s u th).agenda = s.agenda := rfl
@[simp] theorem setThread_arg (s : State) (u : Tid) (th : Thread) : (setThread s u th).arg = s.arg := rfl
@[simp] theorem setThread_slotsPerRotation (s : State) (u : Tid) (th : Thread) : (setThread s u th).slotsPerRotation = s.slotsPerRotation := rfl
@[simp] theorem setThread_nextId (s : State) (u : Tid) (th : Thread) : (setThread s u th).nextId = s.nextId := rfl
@[simp] theorem setThread_wheel (s : State) (u : Tid) (th : Thread) : (setThread s u th).wheel = s.wheel := rfl
@[simp] theorem setThread_W (s : State) (u : Tid) (th : Thread) : (setThread s u th).W = s.W := rfl
@[simp] theorem setThread_modNo (s : State) (u : Tid) (th : Thread) : (setThread s u th).modNo = s.modNo := rfl
theorem setThread_cores (s : State) (u : Tid) (th : Thread) : (setThread s u th).cores = mapSet s.cores (tidKey u) (setSlot (getCore s (tidKey u)) u.slot th) := rfl
@[simp] theorem setThread_clusters (s : State) (u : Tid) (th : Thread) : (setThread s u th).clusters = s.clusters := rfl
@[simp] theorem setThread_dies (s : State) (u : Tid) (th : Thread) : (setThread s u th).dies = s.dies := rfl
@[simp] theorem setThread_domes (s : State) (u : Tid) (th : Thread) : (setThread s u th).domes = s.domes := rfl
@[simp] theorem setThread_circuits (s : State) (u : Tid) (th : Thread) : (setThread s u th).circuits = s.circuits := rfl
@[simp] theorem setThread_ipis (s : State) (u : Tid) (th : Thread) : (setThread s u th).ipis = s.ipis := rfl
@[simp] theorem setThread_ctxs (s : State) (u : Tid) (th : Thread) : (setThread s u th).ctxs = s.ctxs := rfl
@[simp] theorem setThread_seals (s : State) (u : Tid) (th : Thread) : (setThread s u th).seals = s.seals := rfl
@[simp] theorem setThread_spire (s : State) (u : Tid) (th : Thread) : (setThread s u th).spire = s.spire := rfl
@[simp] theorem setThread_slotTab (s : State) (u : Tid) (th : Thread) : (setThread s u th).slotTab = s.slotTab := rfl
@[simp] theorem setThread_discards (s : State) (u : Tid) (th : Thread) : (setThread s u th).discards = s.discards := rfl
@[simp] theorem setThread_words (s : State) (u : Tid) (th : Thread) : (setThread s u th).words = s.words := rfl
@[simp] theorem setThread_tabWrites (s : State) (u : Tid) (th : Thread) : (setThread s u th).tabWrites = s.tabWrites := rfl
@[simp] theorem setThread_gens (s : State) (u : Tid) (th : Thread) : (setThread s u th).gens = s.gens := rfl
@[simp] theorem setThread_cfgBeats (s : State) (u : Tid) (th : Thread) : (setThread s u th).cfgBeats = s.cfgBeats := rfl
@[simp] theorem setThread_changes (s : State) (u : Tid) (th : Thread) : (setThread s u th).changes = s.changes := rfl
@[simp] theorem setThread_belfry (s : State) (u : Tid) (th : Thread) : (setThread s u th).belfry = s.belfry := rfl
@[simp] theorem setThread_belTurn (s : State) (u : Tid) (th : Thread) : (setThread s u th).belTurn = s.belTurn := rfl
@[simp] theorem setThread_belFree (s : State) (u : Tid) (th : Thread) : (setThread s u th).belFree = s.belFree := rfl
@[simp] theorem setThread_shifted (s : State) (u : Tid) (th : Thread) : (setThread s u th).shifted = s.shifted := rfl
@[simp] theorem setThread_ports (s : State) (u : Tid) (th : Thread) : (setThread s u th).ports = s.ports := rfl
@[simp] theorem setThread_offs (s : State) (u : Tid) (th : Thread) : (setThread s u th).offs = s.offs := rfl
@[simp] theorem setThread_offsSince (s : State) (u : Tid) (th : Thread) : (setThread s u th).offsSince = s.offsSince := rfl
@[simp] theorem setThread_offsBelow (s : State) (u : Tid) (th : Thread) : (setThread s u th).offsBelow = s.offsBelow := rfl
@[simp] theorem setThread_hswitch (s : State) (u : Tid) (th : Thread) : (setThread s u th).hswitch = s.hswitch := rfl
@[simp] theorem setThread_hwarned (s : State) (u : Tid) (th : Thread) : (setThread s u th).hwarned = s.hwarned := rfl
@[simp] theorem setThread_switching (s : State) (u : Tid) (th : Thread) : (setThread s u th).switching = s.switching := rfl
@[simp] theorem setThread_sched (s : State) (u : Tid) (th : Thread) : (setThread s u th).sched = s.sched := rfl
@[simp] theorem setThread_spl (s : State) (u : Tid) (th : Thread) : (setThread s u th).spl = s.spl := rfl
@[simp] theorem setThread_vfEnable (s : State) (u : Tid) (th : Thread) : (setThread s u th).vfEnable = s.vfEnable := rfl
@[simp] theorem setThread_numVfs (s : State) (u : Tid) (th : Thread) : (setThread s u th).numVfs = s.numVfs := rfl
@[simp] theorem setThread_unsupported (s : State) (u : Tid) (th : Thread) : (setThread s u th).unsupported = s.unsupported := rfl
@[simp] theorem setThread_sysBlk (s : State) (u : Tid) (th : Thread) : (setThread s u th).sysBlk = s.sysBlk := rfl
@[simp] theorem setThread_funcs (s : State) (u : Tid) (th : Thread) : (setThread s u th).funcs = s.funcs := rfl
@[simp] theorem setThread_hostMem (s : State) (u : Tid) (th : Thread) : (setThread s u th).hostMem = s.hostMem := rfl
@[simp] theorem setThread_blkChanges (s : State) (u : Tid) (th : Thread) : (setThread s u th).blkChanges = s.blkChanges := rfl
@[simp] theorem setThread_patches (s : State) (u : Tid) (th : Thread) : (setThread s u th).patches = s.patches := rfl
@[simp] theorem setThread_power (s : State) (u : Tid) (th : Thread) : (setThread s u th).power = s.power := rfl
@[simp] theorem setThread_rails (s : State) (u : Tid) (th : Thread) : (setThread s u th).rails = s.rails := rfl
@[simp] theorem setThread_fcmdAll (s : State) (u : Tid) (th : Thread) : (setThread s u th).fcmdAll = s.fcmdAll := rfl
@[simp] theorem setThread_fcmdSel (s : State) (u : Tid) (th : Thread) : (setThread s u th).fcmdSel = s.fcmdSel := rfl
@[simp] theorem setThread_cntpolSel (s : State) (u : Tid) (th : Thread) : (setThread s u th).cntpolSel = s.cntpolSel := rfl
@[simp] theorem setThread_telemAt (s : State) (u : Tid) (th : Thread) : (setThread s u th).telemAt = s.telemAt := rfl
@[simp] theorem setThread_boot (s : State) (u : Tid) (th : Thread) : (setThread s u th).boot = s.boot := rfl
@[simp] theorem setThread_bell (s : State) (u : Tid) (th : Thread) : (setThread s u th).bell = s.bell := rfl
@[simp] theorem setThread_bellbuf (s : State) (u : Tid) (th : Thread) : (setThread s u th).bellbuf = s.bellbuf := rfl
@[simp] theorem setThread_bellCtx (s : State) (u : Tid) (th : Thread) : (setThread s u th).bellCtx = s.bellCtx := rfl
@[simp] theorem setThread_lanRun (s : State) (u : Tid) (th : Thread) : (setThread s u th).lanRun = s.lanRun := rfl
@[simp] theorem setThread_errors (s : State) (u : Tid) (th : Thread) : (setThread s u th).errors = s.errors := rfl

/-! ## A change is the writing of what a function makes of the old value -/

@[simp] theorem modCore_eq (s : State) (k : Nat) (f : Core → Core) : modCore s k f = setCore s k (f (getCore s k)) := rfl
@[simp] theorem modThread_eq (s : State) (u : Tid) (f : Thread → Thread) : modThread s u f = setThread s u (f (getThread s u)) := rfl
@[simp] theorem modCluster_eq (s : State) (k : Nat) (f : Cluster → Cluster) : modCluster s k f = setCluster s k (f (getCluster s k)) := rfl
@[simp] theorem modDie_eq (s : State) (k : Nat) (f : Die → Die) : modDie s k f = setDie s k (f (getDie s k)) := rfl
@[simp] theorem modDome_eq (s : State) (k : Nat) (f : Dome → Dome) : modDome s k f = setDome s k (f (getDome s k)) := rfl
@[simp] theorem modCircuit_eq (s : State) (k : Nat) (f : Circuit → Circuit) : modCircuit s k f = setCircuit s k (f (getCircuit s k)) := rfl
@[simp] theorem modCtx_eq (s : State) (k : Nat) (f : Ctx → Ctx) : modCtx s k f = setCtx s k (f (getCtx s k)) := rfl

/-! ## Reading after an update -/

@[simp] theorem getCore_setCore_self (s : State) (k : Nat) (x : Core) : getCore (setCore s k x) k = x := mapGet_mapSet_self _ _ _ _
theorem getCore_setCore_ne (s : State) {k i : Nat} (x : Core) (h : i ≠ k) : getCore (setCore s k x) i = getCore s i := mapGet_mapSet_ne _ _ _ h
@[simp] theorem setCore_setCore (s : State) (k : Nat) (x y : Core) : setCore (setCore s k x) k y = setCore s k y := by simp [setCore]
@[simp] theorem getCore_setCluster (s : State) (k i : Nat) (x : Cluster) : getCore (setCluster s k x) i = getCore s i := rfl
@[simp] theorem getCore_setDie (s : State) (k i : Nat) (x : Die) : getCore (setDie s k x) i = getCore s i := rfl
@[simp] theorem getCore_setDome (s : State) (k i : Nat) (x : Dome) : getCore (setDome s k x) i = getCore s i := rfl
@[simp] theorem getCore_setCircuit (s : State) (k i : Nat) (x : Circuit) : getCore (setCircuit s k x) i = getCore s i := rfl
@[simp] theorem getCore_setCtx (s : State) (k i : Nat) (x : Ctx) : getCore (setCtx s k x) i = getCore s i := rfl

@[simp] theorem getCluster_setCluster_self (s : State) (k : Nat) (x : Cluster) : getCluster (setCluster s k x) k = x := mapGet_mapSet_self _ _ _ _
theorem getCluster_setCluster_ne (s : State) {k i : Nat} (x : Cluster) (h : i ≠ k) : getCluster (setCluster s k x) i = getCluster s i := mapGet_mapSet_ne _ _ _ h
@[simp] theorem setCluster_setCluster (s : State) (k : Nat) (x y : Cluster) : setCluster (setCluster s k x) k y = setCluster s k y := by simp [setCluster]
@[simp] theorem getCluster_setCore (s : State) (k i : Nat) (x : Core) : getCluster (setCore s k x) i = getCluster s i := rfl
@[simp] theorem getCluster_setDie (s : State) (k i : Nat) (x : Die) : getCluster (setDie s k x) i = getCluster s i := rfl
@[simp] theorem getCluster_setDome (s : State) (k i : Nat) (x : Dome) : getCluster (setDome s k x) i = getCluster s i := rfl
@[simp] theorem getCluster_setCircuit (s : State) (k i : Nat) (x : Circuit) : getCluster (setCircuit s k x) i = getCluster s i := rfl
@[simp] theorem getCluster_setCtx (s : State) (k i : Nat) (x : Ctx) : getCluster (setCtx s k x) i = getCluster s i := rfl
@[simp] theorem getCluster_setThread (s : State) (u : Tid) (i : Nat) (th : Thread) : getCluster (setThread s u th) i = getCluster s i := rfl

@[simp] theorem getDie_setDie_self (s : State) (k : Nat) (x : Die) : getDie (setDie s k x) k = x := mapGet_mapSet_self _ _ _ _
theorem getDie_setDie_ne (s : State) {k i : Nat} (x : Die) (h : i ≠ k) : getDie (setDie s k x) i = getDie s i := mapGet_mapSet_ne _ _ _ h
@[simp] theorem setDie_setDie (s : State) (k : Nat) (x y : Die) : setDie (setDie s k x) k y = setDie s k y := by simp [setDie]
@[simp] theorem getDie_setCore (s : State) (k i : Nat) (x : Core) : getDie (setCore s k x) i = getDie s i := rfl
@[simp] theorem getDie_setCluster (s : State) (k i : Nat) (x : Cluster) : getDie (setCluster s k x) i = getDie s i := rfl
@[simp] theorem getDie_setDome (s : State) (k i : Nat) (x : Dome) : getDie (setDome s k x) i = getDie s i := rfl
@[simp] theorem getDie_setCircuit (s : State) (k i : Nat) (x : Circuit) : getDie (setCircuit s k x) i = getDie s i := rfl
@[simp] theorem getDie_setCtx (s : State) (k i : Nat) (x : Ctx) : getDie (setCtx s k x) i = getDie s i := rfl
@[simp] theorem getDie_setThread (s : State) (u : Tid) (i : Nat) (th : Thread) : getDie (setThread s u th) i = getDie s i := rfl

@[simp] theorem getDome_setDome_self (s : State) (k : Nat) (x : Dome) : getDome (setDome s k x) k = x := mapGet_mapSet_self _ _ _ _
theorem getDome_setDome_ne (s : State) {k i : Nat} (x : Dome) (h : i ≠ k) : getDome (setDome s k x) i = getDome s i := mapGet_mapSet_ne _ _ _ h
@[simp] theorem setDome_setDome (s : State) (k : Nat) (x y : Dome) : setDome (setDome s k x) k y = setDome s k y := by simp [setDome]
@[simp] theorem getDome_setCore (s : State) (k i : Nat) (x : Core) : getDome (setCore s k x) i = getDome s i := rfl
@[simp] theorem getDome_setCluster (s : State) (k i : Nat) (x : Cluster) : getDome (setCluster s k x) i = getDome s i := rfl
@[simp] theorem getDome_setDie (s : State) (k i : Nat) (x : Die) : getDome (setDie s k x) i = getDome s i := rfl
@[simp] theorem getDome_setCircuit (s : State) (k i : Nat) (x : Circuit) : getDome (setCircuit s k x) i = getDome s i := rfl
@[simp] theorem getDome_setCtx (s : State) (k i : Nat) (x : Ctx) : getDome (setCtx s k x) i = getDome s i := rfl
@[simp] theorem getDome_setThread (s : State) (u : Tid) (i : Nat) (th : Thread) : getDome (setThread s u th) i = getDome s i := rfl

@[simp] theorem getCircuit_setCircuit_self (s : State) (k : Nat) (x : Circuit) : getCircuit (setCircuit s k x) k = x := mapGet_mapSet_self _ _ _ _
theorem getCircuit_setCircuit_ne (s : State) {k i : Nat} (x : Circuit) (h : i ≠ k) : getCircuit (setCircuit s k x) i = getCircuit s i := mapGet_mapSet_ne _ _ _ h
@[simp] theorem setCircuit_setCircuit (s : State) (k : Nat) (x y : Circuit) : setCircuit (setCircuit s k x) k y = setCircuit s k y := by simp [setCircuit]
@[simp] theorem getCircuit_setCore (s : State) (k i : Nat) (x : Core) : getCircuit (setCore s k x) i = getCircuit s i := rfl
@[simp] theorem getCircuit_setCluster (s : State) (k i : Nat) (x : Cluster) : getCircuit (setCluster s k x) i = getCircuit s i := rfl
@[simp] theorem getCircuit_setDie (s : State) (k i : Nat) (x : Die) : getCircuit (setDie s k x) i = getCircuit s i := rfl
@[simp] theorem getCircuit_setDome (s : State) (k i : Nat) (x : Dome) : getCircuit (setDome s k x) i = getCircuit s i := rfl
@[simp] theorem getCircuit_setCtx (s : State) (k i : Nat) (x : Ctx) : getCircuit (setCtx s k x) i = getCircuit s i := rfl
@[simp] theorem getCircuit_setThread (s : State) (u : Tid) (i : Nat) (th : Thread) : getCircuit (setThread s u th) i = getCircuit s i := rfl

@[simp] theorem getCtx_setCtx_self (s : State) (k : Nat) (x : Ctx) : getCtx (setCtx s k x) k = x := mapGet_mapSet_self _ _ _ _
theorem getCtx_setCtx_ne (s : State) {k i : Nat} (x : Ctx) (h : i ≠ k) : getCtx (setCtx s k x) i = getCtx s i := mapGet_mapSet_ne _ _ _ h
@[simp] theorem setCtx_setCtx (s : State) (k : Nat) (x y : Ctx) : setCtx (setCtx s k x) k y = setCtx s k y := by simp [setCtx]
@[simp] theorem getCtx_setCore (s : State) (k i : Nat) (x : Core) : getCtx (setCore s k x) i = getCtx s i := rfl
@[simp] theorem getCtx_setCluster (s : State) (k i : Nat) (x : Cluster) : getCtx (setCluster s k x) i = getCtx s i := rfl
@[simp] theorem getCtx_setDie (s : State) (k i : Nat) (x : Die) : getCtx (setDie s k x) i = getCtx s i := rfl
@[simp] theorem getCtx_setDome (s : State) (k i : Nat) (x : Dome) : getCtx (setDome s k x) i = getCtx s i := rfl
@[simp] theorem getCtx_setCircuit (s : State) (k i : Nat) (x : Circuit) : getCtx (setCircuit s k x) i = getCtx s i := rfl
@[simp] theorem getCtx_setThread (s : State) (u : Tid) (i : Nat) (th : Thread) : getCtx (setThread s u th) i = getCtx s i := rfl

/-! ## Threads -/

theorem slotOf_setSlot_self (c : Core) {i : Nat} (th : Thread) (h : i < 8) : slotOf (setSlot c i th) i = th := vget_vset_self _ _ _ h

theorem slotOf_setSlot_ne (c : Core) {i j : Nat} (th : Thread) (h : j ≠ i) : slotOf (setSlot c i th) j = slotOf c j := vget_vset_ne _ _ _ h

@[simp] theorem setSlot_setSlot (c : Core) (i : Nat) (a b : Thread) : setSlot (setSlot c i a) i b = setSlot c i b := by simp [setSlot]

theorem getThread_setThread_self (s : State) {u : Tid} (th : Thread) (h : u.slot < 8) : getThread (setThread s u th) u = th := by
  simp [getThread, setThread, slotOf_setSlot_self _ _ h]

@[simp] theorem setThread_setThread (s : State) (u : Tid) (a b : Thread) : setThread (setThread s u a) u b = setThread s u b := by
  simp [setThread]

/-- Keys of cores tell dies and cores apart. -/
theorem tidKey_inj {a b : Tid} (ha : a.core < 64) (hb : b.core < 64) (h : tidKey a = tidKey b) : a.die = b.die ∧ a.core = b.core := by
  simp only [tidKey, coreKey] at h; omega

theorem getThread_setThread_ne (s : State) {a b : Tid} (th : Thread) (ha : a.core < 64) (hb : b.core < 64) (h : b ≠ a) :
    getThread (setThread s a th) b = getThread s b := by
  unfold getThread setThread
  rw [modCore_eq]
  by_cases hk : tidKey b = tidKey a
  · obtain ⟨hd, hc⟩ := tidKey_inj hb ha hk
    rw [hk, getCore_setCore_self]
    refine slotOf_setSlot_ne _ _ fun hs => h ?_
    cases a; cases b; simp_all
  · rw [getCore_setCore_ne _ _ hk]

/-- What a core holds beside its slots, after one of its threads was written. -/
theorem getCore_setThread (s : State) (u : Tid) (th : Thread) (k : Nat) :
    getCore (setThread s u th) k = if k = tidKey u then setSlot (getCore s k) u.slot th else getCore s k := by
  split
  · next h => subst h; simp [setThread]
  · next h => simp [setThread, getCore_setCore_ne _ _ h]

@[simp] theorem setSlot_tcm (c : Core) (i : Nat) (th : Thread) : (setSlot c i th).tcm = c.tcm := rfl
@[simp] theorem setSlot_full (c : Core) (i : Nat) (th : Thread) : (setSlot c i th).full = c.full := rfl
@[simp] theorem setSlot_rot (c : Core) (i : Nat) (th : Thread) : (setSlot c i th).rot = c.rot := rfl
@[simp] theorem setSlot_duty (c : Core) (i : Nat) (th : Thread) : (setSlot c i th).duty = c.duty := rfl
@[simp] theorem setSlot_dutyNext (c : Core) (i : Nat) (th : Thread) : (setSlot c i th).dutyNext = c.dutyNext := rfl
@[simp] theorem setSlot_segs (c : Core) (i : Nat) (th : Thread) : (setSlot c i th).segs = c.segs := rfl
@[simp] theorem setSlot_landings (c : Core) (i : Nat) (th : Thread) : (setSlot c i th).landings = c.landings := rfl
@[simp] theorem setSlot_gate (c : Core) (i : Nat) (th : Thread) : (setSlot c i th).gate = c.gate := rfl
@[simp] theorem setSlot_heavy (c : Core) (i : Nat) (th : Thread) : (setSlot c i th).heavy = c.heavy := rfl
@[simp] theorem setSlot_banks (c : Core) (i : Nat) (th : Thread) : (setSlot c i th).banks = c.banks := rfl
@[simp] theorem setSlot_bankMem (c : Core) (i : Nat) (th : Thread) : (setSlot c i th).bankMem = c.bankMem := rfl
@[simp] theorem setSlot_tiles (c : Core) (i : Nat) (th : Thread) : (setSlot c i th).tiles = c.tiles := rfl
@[simp] theorem setSlot_owner (c : Core) (i : Nat) (th : Thread) : (setSlot c i th).owner = c.owner := rfl
@[simp] theorem setSlot_mq (c : Core) (i : Nat) (th : Thread) : (setSlot c i th).mq = c.mq := rfl
@[simp] theorem setSlot_remote (c : Core) (i : Nat) (th : Thread) : (setSlot c i th).remote = c.remote := rfl
@[simp] theorem setSlot_mnext (c : Core) (i : Nat) (th : Thread) : (setSlot c i th).mnext = c.mnext := rfl
@[simp] theorem setSlot_trace (c : Core) (i : Nat) (th : Thread) : (setSlot c i th).trace = c.trace := rfl
@[simp] theorem setSlot_traceLost (c : Core) (i : Nat) (th : Thread) : (setSlot c i th).traceLost = c.traceLost := rfl
@[simp] theorem setSlot_quarantined (c : Core) (i : Nat) (th : Thread) : (setSlot c i th).quarantined = c.quarantined := rfl
@[simp] theorem setSlot_written (c : Core) (i : Nat) (th : Thread) : (setSlot c i th).written = c.written := rfl
@[simp] theorem setSlot_epochRot (c : Core) (i : Nat) (th : Thread) : (setSlot c i th).epochRot = c.epochRot := rfl
@[simp] theorem setSlot_epochIssued (c : Core) (i : Nat) (th : Thread) : (setSlot c i th).epochIssued = c.epochIssued := rfl
@[simp] theorem setSlot_epochClosed (c : Core) (i : Nat) (th : Thread) : (setSlot c i th).epochClosed = c.epochClosed := rfl
@[simp] theorem setSlot_issuedNow (c : Core) (i : Nat) (th : Thread) : (setSlot c i th).issuedNow = c.issuedNow := rfl
@[simp] theorem setSlot_held (c : Core) (i : Nat) (th : Thread) : (setSlot c i th).held = c.held := rfl

@[simp] theorem getCore_setThread_tcm (s : State) (u : Tid) (th : Thread) (k : Nat) : (getCore (setThread s u th) k).tcm = (getCore s k).tcm := by
  rw [getCore_setThread]; split <;> rfl
@[simp] theorem getCore_setThread_full (s : State) (u : Tid) (th : Thread) (k : Nat) : (getCore (setThread s u th) k).full = (getCore s k).full := by
  rw [getCore_setThread]; split <;> rfl
@[simp] theorem getCore_setThread_rot (s : State) (u : Tid) (th : Thread) (k : Nat) : (getCore (setThread s u th) k).rot = (getCore s k).rot := by
  rw [getCore_setThread]; split <;> rfl
@[simp] theorem getCore_setThread_duty (s : State) (u : Tid) (th : Thread) (k : Nat) : (getCore (setThread s u th) k).duty = (getCore s k).duty := by
  rw [getCore_setThread]; split <;> rfl
@[simp] theorem getCore_setThread_dutyNext (s : State) (u : Tid) (th : Thread) (k : Nat) : (getCore (setThread s u th) k).dutyNext = (getCore s k).dutyNext := by
  rw [getCore_setThread]; split <;> rfl
@[simp] theorem getCore_setThread_segs (s : State) (u : Tid) (th : Thread) (k : Nat) : (getCore (setThread s u th) k).segs = (getCore s k).segs := by
  rw [getCore_setThread]; split <;> rfl
@[simp] theorem getCore_setThread_landings (s : State) (u : Tid) (th : Thread) (k : Nat) : (getCore (setThread s u th) k).landings = (getCore s k).landings := by
  rw [getCore_setThread]; split <;> rfl
@[simp] theorem getCore_setThread_gate (s : State) (u : Tid) (th : Thread) (k : Nat) : (getCore (setThread s u th) k).gate = (getCore s k).gate := by
  rw [getCore_setThread]; split <;> rfl
@[simp] theorem getCore_setThread_heavy (s : State) (u : Tid) (th : Thread) (k : Nat) : (getCore (setThread s u th) k).heavy = (getCore s k).heavy := by
  rw [getCore_setThread]; split <;> rfl
@[simp] theorem getCore_setThread_banks (s : State) (u : Tid) (th : Thread) (k : Nat) : (getCore (setThread s u th) k).banks = (getCore s k).banks := by
  rw [getCore_setThread]; split <;> rfl
@[simp] theorem getCore_setThread_bankMem (s : State) (u : Tid) (th : Thread) (k : Nat) : (getCore (setThread s u th) k).bankMem = (getCore s k).bankMem := by
  rw [getCore_setThread]; split <;> rfl
@[simp] theorem getCore_setThread_tiles (s : State) (u : Tid) (th : Thread) (k : Nat) : (getCore (setThread s u th) k).tiles = (getCore s k).tiles := by
  rw [getCore_setThread]; split <;> rfl
@[simp] theorem getCore_setThread_owner (s : State) (u : Tid) (th : Thread) (k : Nat) : (getCore (setThread s u th) k).owner = (getCore s k).owner := by
  rw [getCore_setThread]; split <;> rfl
@[simp] theorem getCore_setThread_mq (s : State) (u : Tid) (th : Thread) (k : Nat) : (getCore (setThread s u th) k).mq = (getCore s k).mq := by
  rw [getCore_setThread]; split <;> rfl
@[simp] theorem getCore_setThread_remote (s : State) (u : Tid) (th : Thread) (k : Nat) : (getCore (setThread s u th) k).remote = (getCore s k).remote := by
  rw [getCore_setThread]; split <;> rfl
@[simp] theorem getCore_setThread_mnext (s : State) (u : Tid) (th : Thread) (k : Nat) : (getCore (setThread s u th) k).mnext = (getCore s k).mnext := by
  rw [getCore_setThread]; split <;> rfl
@[simp] theorem getCore_setThread_trace (s : State) (u : Tid) (th : Thread) (k : Nat) : (getCore (setThread s u th) k).trace = (getCore s k).trace := by
  rw [getCore_setThread]; split <;> rfl
@[simp] theorem getCore_setThread_traceLost (s : State) (u : Tid) (th : Thread) (k : Nat) : (getCore (setThread s u th) k).traceLost = (getCore s k).traceLost := by
  rw [getCore_setThread]; split <;> rfl
@[simp] theorem getCore_setThread_quarantined (s : State) (u : Tid) (th : Thread) (k : Nat) : (getCore (setThread s u th) k).quarantined = (getCore s k).quarantined := by
  rw [getCore_setThread]; split <;> rfl
@[simp] theorem getCore_setThread_written (s : State) (u : Tid) (th : Thread) (k : Nat) : (getCore (setThread s u th) k).written = (getCore s k).written := by
  rw [getCore_setThread]; split <;> rfl
@[simp] theorem getCore_setThread_epochRot (s : State) (u : Tid) (th : Thread) (k : Nat) : (getCore (setThread s u th) k).epochRot = (getCore s k).epochRot := by
  rw [getCore_setThread]; split <;> rfl
@[simp] theorem getCore_setThread_epochIssued (s : State) (u : Tid) (th : Thread) (k : Nat) : (getCore (setThread s u th) k).epochIssued = (getCore s k).epochIssued := by
  rw [getCore_setThread]; split <;> rfl
@[simp] theorem getCore_setThread_epochClosed (s : State) (u : Tid) (th : Thread) (k : Nat) : (getCore (setThread s u th) k).epochClosed = (getCore s k).epochClosed := by
  rw [getCore_setThread]; split <;> rfl
@[simp] theorem getCore_setThread_issuedNow (s : State) (u : Tid) (th : Thread) (k : Nat) : (getCore (setThread s u th) k).issuedNow = (getCore s k).issuedNow := by
  rw [getCore_setThread]; split <;> rfl
@[simp] theorem getCore_setThread_held (s : State) (u : Tid) (th : Thread) (k : Nat) : (getCore (setThread s u th) k).held = (getCore s k).held := by
  rw [getCore_setThread]; split <;> rfl

@[simp] theorem getThread_setCluster (s : State) (k : Nat) (c : Cluster) (u : Tid) : getThread (setCluster s k c) u = getThread s u := rfl
@[simp] theorem getThread_setDie (s : State) (k : Nat) (d : Die) (u : Tid) : getThread (setDie s k d) u = getThread s u := rfl
@[simp] theorem getThread_setDome (s : State) (k : Nat) (d : Dome) (u : Tid) : getThread (setDome s k d) u = getThread s u := rfl
@[simp] theorem getThread_setCircuit (s : State) (k : Nat) (c : Circuit) (u : Tid) : getThread (setCircuit s k c) u = getThread s u := rfl
@[simp] theorem getThread_setCtx (s : State) (k : Nat) (c : Ctx) (u : Tid) : getThread (setCtx s k c) u = getThread s u := rfl

/-- A write of a core that keeps its slots keeps every thread. -/
theorem getThread_setCore_slots (s : State) (k : Nat) (c : Core) (u : Tid) (h : c.slots = (getCore s k).slots) :
    getThread (setCore s k c) u = getThread s u := by
  unfold getThread slotOf
  by_cases hk : tidKey u = k
  · subst hk; rw [getCore_setCore_self, h]
  · rw [getCore_setCore_ne _ _ hk]

end Sys2Proof.Machine
end

