-- ==== Sys2Proof/Laws/Issue.lean ====
section
/-! SUPPORT. What issuing a syllable comes to, said once: a body that answers without a stop, without waits and without requests
completes with its effects; a body that stops takes its trap or parks; a syllable that is not enabled acts as a NOP. -/

namespace Sys2Proof.Machine

set_option Elab.async false

/-! ## Evaluation -/

theorem ev_bind {α β : Type} (p : Ev α) (f : α → Ev β) (c : EvCtx) :
    (p >>= f) c = match p c with | .ok (x, d) => f x d | .error e => .error e := by
  show (StateT.bind p f) c = _
  unfold StateT.bind
  cases p c <;> rfl

theorem ev_pure {α : Type} (x : α) (c : EvCtx) : (pure x : Ev α) c = .ok (x, c) := rfl

theorem ev_get (c : EvCtx) : (get : Ev EvCtx) c = .ok (c, c) := rfl

/-- A sequence answers where both parts do. -/
theorem ev_bind_ok {α β : Type} {p : Ev α} {f : α → Ev β} {c d : EvCtx} {x : α} (h : p c = .ok (x, d)) : (p >>= f) c = f x d := by
  rw [ev_bind, h]

/-- Where a sequence answers, its first part did. -/
theorem ev_bind_inv {α β : Type} {p : Ev α} {f : α → Ev β} {c d : EvCtx} {y : β} (h : (p >>= f) c = .ok (y, d)) :
    ∃ x e, p c = .ok (x, e) ∧ f x e = .ok (y, d) := by
  rw [ev_bind] at h
  cases hp : p c with
  | error e => simp [hp] at h
  | ok r => exact ⟨r.1, r.2, rfl, by simpa [hp] using h⟩

@[simp] theorem evEff_apply (e : Eff) (c : EvCtx) : evEff e c = .ok ((), { c with eff6 := c.eff6 ++ [e] }) := rfl
@[simp] theorem evEff5_apply (e : Eff) (c : EvCtx) : evEff5 e c = .ok ((), { c with eff5 := c.eff5 ++ [e] }) := rfl
@[simp] theorem evWait_apply (w : Wait5) (c : EvCtx) : evWait w c = .ok ((), { c with waits := c.waits ++ [w] }) := rfl

theorem dstS_apply (o : SOp) (v : Word) (c : EvCtx) : dstS o v c = .ok ((), { c with eff6 := c.eff6 ++ [toS o v] }) := by
  cases o <;> rfl

theorem dstV_apply (o : VOp) (w : Nat) (m : Word) (v : Vec) (c : EvCtx) :
    dstV o w m v c = .ok ((), { c with eff6 := c.eff6 ++ [toV o w m v] }) := by
  cases o <;> rfl

/-! ## Reads take nothing but pops -/

/-- A part of a body that reads: it changes no more than the pops and the effects that they have at step 6. -/
def OnlyPops {α : Type} (p : Ev α) : Prop :=
  ∀ c x d, p c = .ok (x, d) → d.s = c.s ∧ d.t = c.t ∧ d.th = c.th ∧ d.core = c.core ∧ d.slotV = c.slotV ∧ d.eff5 = c.eff5 ∧
    d.waits = c.waits ∧ d.keys = c.keys

theorem onlyPops_pure {α : Type} (x : α) : OnlyPops (pure x : Ev α) := by
  intro c y d h
  cases h
  simp

theorem onlyPops_bind {α β : Type} {p : Ev α} {f : α → Ev β} (hp : OnlyPops p) (hf : ∀ x, OnlyPops (f x)) : OnlyPops (p >>= f) := by
  intro c y d h
  obtain ⟨x, e, h1, h2⟩ := ev_bind_inv h
  obtain ⟨a1, a2, a3, a4, a5, a6, a7, a8⟩ := hp _ _ _ h1
  obtain ⟨b1, b2, b3, b4, b5, b6, b7, b8⟩ := hf _ _ _ _ h2
  simp_all

theorem onlyPops_popPort (n k : Nat) : OnlyPops (popPort n k) := by
  intro c x d h
  unfold popPort at h
  simp only at h
  split at h
  · cases h
  · split at h
    · cases h
    · split at h
      · cases h; simp
      · cases h

theorem onlyPops_popStreamReg (j k : Nat) : OnlyPops (popStreamReg j k) := by
  intro c x d h
  unfold popStreamReg at h
  simp only at h
  split at h
  · cases h
  · split at h
    · cases h
    · split at h
      · cases h
      · cases h; simp
      · cases h
      · cases h

theorem onlyPops_srcS (o : SOp) : OnlyPops (srcS o) := by
  intro c x d h
  cases o with
  | port n =>
    simp only [srcS] at h
    cases hp : popPort n.toNat (32 + n.toNat) c with
    | error e => simp [hp, Except.map] at h
    | ok r =>
      simp [hp, Except.map] at h
      obtain ⟨h1, h2⟩ := h
      subst h2
      exact onlyPops_popPort _ _ _ _ _ hp
  | s r =>
    simp only [srcS] at h
    split at h
    · next j _ =>
      cases hp : popStreamReg j r.toNat c with
      | error e => simp [hp, Except.map] at h
      | ok q =>
        simp [hp, Except.map] at h
        obtain ⟨h1, h2⟩ := h
        subst h2
        exact onlyPops_popStreamReg _ _ _ _ _ hp
    · split at h <;> cases h
      simp

theorem onlyPops_srcV (o : VOp) : OnlyPops (srcV o) := by
  intro c x d h
  cases o with
  | port n => exact onlyPops_popPort _ _ _ _ _ h
  | win n => simp [srcV, evTrap, evStop] at h
  | v r =>
    simp only [srcV] at h
    split at h
    · exact onlyPops_popStreamReg _ _ _ _ _ h
    · split at h <;> cases h
      simp

theorem onlyPops_srcB (b : SrcB) : OnlyPops (srcB b) := by
  cases b with
  | reg o => exact onlyPops_srcS o
  | imm i => exact onlyPops_pure _

theorem onlyPops_srcP (p : BitVec 3) : OnlyPops (srcP p) := by
  intro c x d h
  cases h
  simp

theorem onlyPops_examPort (n k : Nat) : OnlyPops (examPort n k) := by
  intro c x d h
  unfold examPort at h
  split at h
  · cases h
  · split at h <;> cases h
    simp

theorem onlyPops_examS (o : SOp) : OnlyPops (examS o) := by
  cases o with
  | port n => exact onlyPops_examPort _ _
  | s r =>
    intro c x d h
    simp only [examS] at h
    split at h <;> cases h
    simp

theorem onlyPops_examV (o : VOp) (whole : Bool) : OnlyPops (examV o whole) := by
  cases o with
  | v r =>
    cases whole with
    | false => simpa [examV] using onlyPops_srcV (.v r)
    | true =>
      intro c x d h
      simp only [examV, if_true] at h
      split at h <;> cases h
      simp
  | port n => exact onlyPops_bind (onlyPops_examPort _ _) fun _ => onlyPops_pure _
  | win n =>
    intro c x d h
    simp only [examV] at h
    split at h
    · cases h
    · split at h <;> cases h
      simp

theorem onlyPops_get : OnlyPops (get : Ev EvCtx) := by
  intro c x d h
  cases h
  simp

/-! ## The thread after a bundle -/

/-- A bundle issued alone is the commit of its one syllable beside a NOP. -/
theorem issueOut_alone (s : State) (o : SylOut) (h : s.pair = .alone) (v : Bool) :
    issueOut v o s = if v then commitBundle s s.cur .off o else commitBundle s s.cur o .off := by
  simp [issueOut, h]

theorem conflictOf_off_right (a : SylOut) : conflictOf a .off = none := by simp [conflictOf, SylOut.off]
theorem conflictOf_off_left (a : SylOut) : conflictOf .off a = none := by simp [conflictOf, SylOut.off]

/-- The state in which a bundle that waits or requests under k fresh identifiers starts. -/
def withIds (s : State) (k : Nat) : State := { s with nextId := s.nextId + k }

theorem withIds_zero (s : State) : withIds s 0 = s := rfl

theorem withIds_pair (s : State) (h : s.pair = .alone) (k : Nat) : { s with nextId := s.nextId + k, pair := .alone } = withIds s k := by
  cases s
  simp only at h
  subst h
  rfl

@[simp] theorem pairWaits_nil_right (a : List Wait5) : pairWaits a [] = a := by simp [pairWaits]
@[simp] theorem pairWaits_nil_left (a : List Wait5) : pairWaits [] a = a := by simp [pairWaits]
@[simp] theorem pairEffs_nil_right (a : List Eff) : pairEffs a [] = a := by simp [pairEffs]
@[simp] theorem pairEffs_nil_left (a : List Eff) : pairEffs [] a = a := by simp [pairEffs]

/-- A bundle that stands alone has a second half that takes nothing before it. -/
theorem pairTaken_alone {s : State} (h : s.pair = .alone) : pairTaken s = ([], [], [], 0) := by simp [pairTaken, h]

theorem commitBundle_left (s : State) (o : SylOut) (h : s.pair = .alone) (ho : o.stop = none) :
    commitBundle s s.cur o .off = startBundle (withIds s o.keys) s.cur o.eff5 o.waits o.eff6 := by
  have hk : s.nextId + o.keys + SylOut.off.keys = s.nextId + o.keys := rfl
  unfold commitBundle
  rw [conflictOf_off_right, hk, withIds_pair s h]
  simp [firstStop, ho, SylOut.off]

theorem commitBundle_right (s : State) (o : SylOut) (h : s.pair = .alone) (ho : o.stop = none) :
    commitBundle s s.cur .off o = startBundle (withIds s o.keys) s.cur o.eff5 o.waits o.eff6 := by
  have hk : s.nextId + SylOut.off.keys + o.keys = s.nextId + o.keys := rfl
  unfold commitBundle
  rw [conflictOf_off_left, hk, withIds_pair s h]
  simp [firstStop, ho, SylOut.off]

theorem startBundle_none (s : State) (t : Tid) (es : List Eff) : startBundle s t [] [] es = finishBundle s t [] es := by
  simp [startBundle, applyEffs, passWaits]

/-- What an enabled syllable that stands alone in its bundle comes to when its body answers. -/
def SylOut.ofCtx (d : List (Loc × Nat)) (c : EvCtx) : SylOut :=
  ⟨true, d, none, c.eff5, c.waits, c.eff6, c.pops, c.spops, c.gates, c.fixed, c.keys⟩

theorem evalBody_ok {s : State} {v : Bool} {body : Ev Unit} (d : List (Loc × Nat)) {c : EvCtx} (h : s.pair = .alone)
    (hb : body (issueCtx s v) = .ok ((), c)) : evalBody v body d s = .ofCtx d c := by
  unfold evalBody
  rw [pairTaken_alone h]
  change (match body (issueCtx s v) with
    | .error (x, c) => (⟨true, d, some x, [], [], [], c.pops, c.spops, c.gates, c.fixed, 0⟩ : SylOut)
    | .ok (_, c) => .ofCtx d c) = _
  rw [hb]

theorem evalBody_error {s : State} {v : Bool} {body : Ev Unit} (d : List (Loc × Nat)) {x : Stop} {c : EvCtx} (h : s.pair = .alone)
    (hb : body (issueCtx s v) = .error (x, c)) :
    evalBody v body d s = ⟨true, d, some x, [], [], [], c.pops, c.spops, c.gates, c.fixed, 0⟩ := by
  unfold evalBody
  rw [pairTaken_alone h]
  change (match body (issueCtx s v) with
    | .error (x, c) => (⟨true, d, some x, [], [], [], c.pops, c.spops, c.gates, c.fixed, 0⟩ : SylOut)
    | .ok (_, c) => .ofCtx d c) = _
  rw [hb]

/-- The element of a trap matters to a syllable that traps alone. -/
theorem SylOut.atElem_none (o : SylOut) (n : Nat) (h : o.stop = none) : o.atElem n = o := by
  cases o
  simp_all [SylOut.atElem]

/-- The outcome of an enabled syllable that stands alone in its bundle and whose body answers. -/
theorem issueOut_ok {s : State} {v : Bool} {body : Ev Unit} {d : List (Loc × Nat)} {c : EvCtx} (h : s.pair = .alone)
    (hb : body (issueCtx s v) = .ok ((), c)) :
    issueOut v (evalBody v body d s) s = startBundle (withIds s c.keys) s.cur c.eff5 c.waits c.eff6 := by
  rw [issueOut_alone _ _ h, evalBody_ok d h hb]
  cases v
  · exact commitBundle_left s (.ofCtx d c) h rfl
  · exact commitBundle_right s (.ofCtx d c) h rfl

/-- An enabled syllable whose body collects only effects of step 6 completes with them. -/
theorem issueOut_plain {s : State} {v : Bool} {body : Ev Unit} {d : List (Loc × Nat)} {c : EvCtx} (h : s.pair = .alone)
    (hb : body (issueCtx s v) = .ok ((), c)) (h5 : c.eff5 = []) (hw : c.waits = []) (hk : c.keys = 0) :
    issueOut v (evalBody v body d s) s = completes s c.eff6 := by
  rw [issueOut_ok h hb, h5, hw, hk, withIds_zero, startBundle_none]
  rfl

/-- Reads followed by effects of step 6. -/
theorem reads_then {α : Type} {s : State} {v : Bool} {p : Ev α} {x : α} {es : List Eff} {f : α → Ev Unit} {fs : List Eff}
    (hr : Reads s v p x es) (hp : OnlyPops p) (hf : ∀ c, f x c = .ok ((), { c with eff6 := c.eff6 ++ fs })) :
    ∃ c, (p >>= f) (issueCtx s v) = .ok ((), c) ∧ c.eff5 = [] ∧ c.waits = [] ∧ c.keys = 0 ∧ c.eff6 = es ++ fs := by
  obtain ⟨c, h, rfl⟩ := hr
  obtain ⟨-, -, -, -, -, h5, hw, hk⟩ := hp _ _ _ h
  refine ⟨_, (ev_bind_ok h).trans (hf c), ?_, ?_, ?_, rfl⟩ <;> simp [h5, hw, hk, issueCtx]

/-- A syllable guarded by Guard(0) that reads its operands and then has effects at step 6. -/
theorem issueS_reads {α : Type} {s : State} {g : Guard} {d : List (Loc × Nat)} {p : Ev α} {x : α} {es fs : List Eff} {f : α → Ev Unit}
    (h : s.pair = .alone) (hg : guardBit g (me s) 0 = true) (hr : Reads s false p x es) (hp : OnlyPops p)
    (hf : ∀ c, f x c = .ok ((), { c with eff6 := c.eff6 ++ fs })) :
    issueS g d (p >>= f) s = .next (completes s (es ++ fs)) := by
  obtain ⟨c, hb, h5, hw, hk, h6⟩ := reads_then hr hp hf
  have hg' : guardBit g (getThread s s.cur) 0 = true := hg
  rw [issueS, if_pos hg', issueOut_plain h hb h5 hw hk, h6]

theorem issueV0_reads {α : Type} {s : State} {g : Guard} {d : List (Loc × Nat)} {p : Ev α} {x : α} {es fs : List Eff} {f : α → Ev Unit}
    (h : s.pair = .alone) (hg : guardBit g (me s) 0 = true) (hr : Reads s true p x es) (hp : OnlyPops p)
    (hf : ∀ c, f x c = .ok ((), { c with eff6 := c.eff6 ++ fs })) :
    issueV0 g d (p >>= f) s = .next (completes s (es ++ fs)) := by
  obtain ⟨c, hb, h5, hw, hk, h6⟩ := reads_then hr hp hf
  have hg' : guardBit g (getThread s s.cur) 0 = true := hg
  rw [issueV0, if_pos hg', issueOut_plain h hb h5 hw hk, h6]

theorem issueV_reads {α : Type} {s : State} {g : Guard} {w : Nat} {d : List (Loc × Nat)} {p : Ev α} {x : α} {es fs : List Eff}
    {f : α → Ev Unit} (h : s.pair = .alone) (hg : anyGuard g (me s) w = true) (hr : Reads s true p x es) (hp : OnlyPops p)
    (hf : ∀ c, f x c = .ok ((), { c with eff6 := c.eff6 ++ fs })) :
    issueV g w d (p >>= f) s = .next (completes s (es ++ fs)) := by
  obtain ⟨c, hb, h5, hw, hk, h6⟩ := reads_then hr hp hf
  have hg' : anyGuard g (getThread s s.cur) w = true := hg
  rw [issueV, if_pos hg', SylOut.atElem_none _ _ (by rw [evalBody_ok d h hb]; rfl), issueOut_plain h hb h5 hw hk, h6]

/-- A syllable that is not enabled acts as a NOP (R31, R32). -/
theorem issueOut_off {s : State} (h : s.pair = .alone) (v : Bool) : issueOut v .off s = completes s [] := by
  rw [issueOut_alone _ _ h]
  cases v
  · exact (commitBundle_left s .off h rfl).trans (startBundle_none _ _ _)
  · exact (commitBundle_right s .off h rfl).trans (startBundle_none _ _ _)

/-- What a stop of a bundle's one syllable does: its trap, its park, the stop of a watch, or the trap of a channel's fault record;
`fixed` are the commands for which a V syllable waits at a tile. -/
def stopsWith (s : State) (v : Bool) (x : Stop) (fixed : Option (List Nat)) : State :=
  match x with
  | .trap _ code tval elem => takeTrap (clearOverflow s s.cur code tval) s.cur code tval v elem (forcedToH code tval)
  | .park p gate => parkThread s s.cur p v gate (if v then fixed else none)
  | .watch => stopThreadNow s s.cur 4 0
  | .engine ch cause tval =>
    takeTrap (modChan s (tidCluster s.cur) ch fun x => { x with fault := none, more := false }) s.cur cause tval v 0 false

/-- An enabled syllable that stops alone in its bundle. -/
theorem issueOut_stop {s : State} {v : Bool} {body : Ev Unit} {d : List (Loc × Nat)} {x : Stop} {c : EvCtx} (h : s.pair = .alone)
    (hb : body (issueCtx s v) = .error (x, c)) : issueOut v (evalBody v body d s) s = stopsWith s v x c.fixed := by
  have hk : { s with nextId := s.nextId + 0 + 0, pair := .alone } = s := withIds_pair s h 0
  rw [issueOut_alone _ _ h, evalBody_error d h hb]
  cases v <;> cases x <;>
    simp [commitBundle, conflictOf, firstStop, SylOut.off, stopsWith] <;> simp only [← h]

/-- The thread that a completed bundle leaves before its effects (R35 step 6). -/
def issuedThread (th : Thread) : Thread :=
  { countSlot th .issue with
    pc := th.pc + 16
    fresh := 0
    run := .running
    park := none
    inflight := none
    mwait := none
    tileWait := none
    ranOff := bitsAt th.pc 4 12 == 4095
    dbg := { th.dbg with skipOnce := false } }

theorem countSlot_pc (th : Thread) (k : Count) : (countSlot th k).pc = th.pc := by
  unfold countSlot setPending
  cases k <;> (simp only; split <;> simp)
theorem countSlot_dbg (th : Thread) (k : Count) : (countSlot th k).dbg = th.dbg := by
  unfold countSlot setPending
  cases k <;> (simp only; split <;> simp)

theorem gangStep_none {s : State} {t : Tid} (pc : Word) (h : (getThread s t).gang = none) : gangStep s t pc = s := by
  unfold gangStep
  split
  · rfl
  · next hg => simp [h] at hg

theorem afterBundle_quiet {s : State} {t : Tid} (h : (getThread s t).dbg.stopReq = none) (hs : (getThread s t).dbg.stepping = false) :
    afterBundle s t = s := by
  unfold afterBundle
  simp [h, hs]

/-- Where nothing stops the thread and it is in no gang before or after, completing is the effects over the issued thread. -/
theorem completes_quiet {s : State} {es : List Eff}
    (hg : (getThread (applyEffs s.cur [] (setThread s s.cur (issuedThread (me s))) es) s.cur).gang = none)
    (hs : (getThread (applyEffs s.cur [] (setThread s s.cur (issuedThread (me s))) es) s.cur).dbg.stopReq = none)
    (hp : (getThread (applyEffs s.cur [] (setThread s s.cur (issuedThread (me s))) es) s.cur).dbg.stepping = false) :
    completes s es = applyEffs s.cur [] (setThread s s.cur (issuedThread (me s))) es := by
  have key : completes s es =
      afterBundle (gangStep (applyEffs s.cur [] (setThread s s.cur (issuedThread (me s))) es) s.cur (me s).pc) s.cur := rfl
  rw [key, gangStep_none _ hg, afterBundle_quiet hs hp]

/-! ## What the issued thread keeps -/

theorem countSlot_keeps (th : Thread) (k : Count) :
    (countSlot th k).sval = th.sval ∧ (countSlot th k).sfe = th.sfe ∧ (countSlot th k).vval = th.vval ∧ (countSlot th k).vfe = th.vfe ∧
    (countSlot th k).pval = th.pval ∧ (countSlot th k).gang = th.gang ∧ (countSlot th k).streams = th.streams ∧
    (countSlot th k).rx = th.rx ∧ (countSlot th k).tx = th.tx ∧ (countSlot th k).win = th.win ∧
    (countSlot th k).heldFills = th.heldFills := by
  unfold countSlot setPending
  cases k <;> (simp only; split <;> simp)

end Sys2Proof.Machine
end

