-- ==== Sys2Proof/Laws/Effects.lean ====
section
/-! SUPPORT. What the effects of a bundle do, said once each: pops and register writes change the thread's own slot alone; the issued
thread keeps its registers. -/

namespace Sys2Proof.Machine

set_option Elab.async false

theorem modThread_set (s : State) {t : Tid} (a : Thread) (f : Thread → Thread) (h : t.slot < 8) :
    modThread (setThread s t a) t f = setThread s t (f a) := by
  simp [getThread_setThread_self _ _ h]

theorem tcm_setThread (s : State) (t u : Tid) (a : Thread) : (getCore (setThread s t a) (tidKey u)).tcm = (getCore s (tidKey u)).tcm := by
  rw [getCore_setThread]
  split <;> simp

/-- A pop as a change of the thread. -/
def popThread (c : Core) (a : Thread) (e : Eff) : Thread :=
  match e with
  | .pop n => setRx a n (popRx c (getRx a n))
  | .popStream j => setStream a j { getStream a j with fifo := (getStream a j).fifo.tail, checked := true }
  | _ => a

theorem popRx_tcm {c d : Core} (r : Rx) (h : c.tcm = d.tcm) : popRx c r = popRx d r := by
  simp [popRx, h]

theorem applyEff_pop (s : State) {t : Tid} (got : List (Nat × Option (List Byte))) (a : Thread) (e : Eff) (h : t.slot < 8)
    (he : ∃ n, e = .pop n ∨ e = .popStream n) :
    applyEff t got (setThread s t a) e = setThread s t (popThread (getCore s (tidKey t)) a e) := by
  obtain ⟨n, rfl | rfl⟩ := he
  · simp only [applyEff, popPortEff, popThread]
    rw [modThread_set _ _ _ h, popRx_tcm _ (tcm_setThread s t t a)]
  · simp only [applyEff, popThread]
    rw [modThread_set _ _ _ h]

theorem applyEffs_pops (s : State) {t : Tid} (got : List (Nat × Option (List Byte))) (h : t.slot < 8) (es : List Eff) (he : AllPops es) :
    ∀ a, applyEffs t got (setThread s t a) es = setThread s t (es.foldl (popThread (getCore s (tidKey t))) a) := by
  induction es with
  | nil => intro a; rfl
  | cons e l ih =>
    intro a
    have h1 := applyEff_pop s got a e h (he e (by simp))
    have h2 := ih (fun x hx => he x (by simp [hx])) (popThread (getCore s (tidKey t)) a e)
    simp only [applyEffs, List.foldl_cons] at *
    rw [h1, h2]

theorem applyEffs_append (t : Tid) (got : List (Nat × Option (List Byte))) (s : State) (a b : List Eff) :
    applyEffs t got s (a ++ b) = applyEffs t got (applyEffs t got s a) b := by
  simp [applyEffs]

/-- What a thread's pops leave. -/
structure KeptByPops (a b : Thread) : Prop where
  sval : b.sval = a.sval
  sfe : b.sfe = a.sfe
  vval : b.vval = a.vval
  vfe : b.vfe = a.vfe
  pval : b.pval = a.pval
  run : b.run = a.run
  park : b.park = a.park
  inflight : b.inflight = a.inflight
  pc : b.pc = a.pc
  gang : b.gang = a.gang
  dbg : b.dbg = a.dbg
  tx : b.tx = a.tx
  win : b.win = a.win
  status : b.status = a.status
  csrs : keepsCsrs a b
  on : ∀ j, (getStream b j).on = (getStream a j).on

theorem keepsCsrs_refl (a : Thread) : keepsCsrs a a := by simp [keepsCsrs]

theorem KeptByPops.refl (a : Thread) : KeptByPops a a := ⟨rfl, rfl, rfl, rfl, rfl, rfl, rfl, rfl, rfl, rfl, rfl, rfl, rfl, rfl,
  keepsCsrs_refl a, fun _ => rfl⟩

theorem keepsCsrs_trans {a b c : Thread} (h : keepsCsrs a b) (k : keepsCsrs b c) : keepsCsrs a c := by
  simp_all only [keepsCsrs, and_self]

theorem KeptByPops.trans {a b c : Thread} (h : KeptByPops a b) (k : KeptByPops b c) : KeptByPops a c :=
  ⟨k.sval.trans h.sval, k.sfe.trans h.sfe, k.vval.trans h.vval, k.vfe.trans h.vfe, k.pval.trans h.pval, k.run.trans h.run,
    k.park.trans h.park, k.inflight.trans h.inflight, k.pc.trans h.pc, k.gang.trans h.gang, k.dbg.trans h.dbg, k.tx.trans h.tx,
    k.win.trans h.win, k.status.trans h.status, keepsCsrs_trans h.csrs k.csrs, fun j => (k.on j).trans (h.on j)⟩

theorem vget_vset {α : Type} {n : Nat} (v : Vector α n) (i j : Nat) (x d : α) :
    vget (vset v i x) j d = if j = i ∧ i < n then x else vget v j d := by
  by_cases h : j = i
  · subst h
    by_cases hj : j < n
    · simp [hj]
    · simp [vget, vset, hj]
  · rw [vget_vset_ne _ _ _ h]; simp [h]

theorem popThread_kept (c : Core) (a : Thread) (e : Eff) : KeptByPops a (popThread c a e) := by
  cases e with
  | pop n => exact ⟨rfl, rfl, rfl, rfl, rfl, rfl, rfl, rfl, rfl, rfl, rfl, rfl, rfl, rfl, keepsCsrs_refl a, fun _ => rfl⟩
  | popStream j =>
    refine ⟨rfl, rfl, rfl, rfl, rfl, rfl, rfl, rfl, rfl, rfl, rfl, rfl, rfl, rfl, keepsCsrs_refl a, fun i => ?_⟩
    simp only [popThread, setStream, getStream]
    rw [vget_vset]
    split
    · next h => rw [h.1]
    · rfl
  | _ => exact KeptByPops.refl a

theorem foldPops_kept (c : Core) (es : List Eff) : ∀ a, KeptByPops a (es.foldl (popThread c) a) := by
  induction es with
  | nil => exact fun a => KeptByPops.refl a
  | cons e l ih => exact fun a => (popThread_kept c a e).trans (ih _)

theorem issuedThread_kept (th : Thread) :
    (issuedThread th).sval = th.sval ∧ (issuedThread th).sfe = th.sfe ∧ (issuedThread th).vval = th.vval ∧
    (issuedThread th).vfe = th.vfe ∧ (issuedThread th).pval = th.pval ∧ (issuedThread th).gang = th.gang ∧
    (issuedThread th).streams = th.streams ∧ (issuedThread th).rx = th.rx ∧ (issuedThread th).tx = th.tx ∧
    (issuedThread th).win = th.win ∧ (issuedThread th).run = .running ∧ (issuedThread th).park = none ∧
    (issuedThread th).inflight = none ∧ (issuedThread th).pc = th.pc + 16 ∧ keepsCsrs th (issuedThread th) := by
  simp only [issuedThread, countSlot_keeps th .issue, true_and]
  unfold keepsCsrs countSlot setPending
  simp only
  split <;> simp [setBits21, BitVec.or_assoc]

/-- A bundle that pops and then changes its thread alone, leaving gang and debug state, completes as that change. -/
theorem completes_thread {s : State} {es : List Eff} (hq : Quiet s) (he : AllPops es) {fs : List Eff} (f : Thread → Thread)
    (hf : ∀ a, KeptByPops (issuedThread (me s)) a → applyEffs s.cur [] (setThread s s.cur a) fs = setThread s s.cur (f a))
    (hg : ∀ a, (f a).gang = a.gang ∧ (f a).dbg = a.dbg) :
    ∃ a, KeptByPops (issuedThread (me s)) a ∧ completes s (es ++ fs) = setThread s s.cur (f a) := by
  obtain ⟨hslot, hgang, hstop, hstep⟩ := hq
  have hk := foldPops_kept (getCore s (tidKey s.cur)) es (issuedThread (me s))
  refine ⟨_, hk, ?_⟩
  have happ : applyEffs s.cur [] (setThread s s.cur (issuedThread (me s))) (es ++ fs) =
      setThread s s.cur (f (es.foldl (popThread (getCore s (tidKey s.cur))) (issuedThread (me s)))) := by
    rw [applyEffs_append, applyEffs_pops s [] hslot es he, hf _ hk]
  have hi : (issuedThread (me s)).gang = (me s).gang := by simp only [issuedThread_kept]
  rw [completes_quiet, happ]
  · rw [happ, getThread_setThread_self _ _ hslot, (hg _).1, hk.gang, hi, hgang]
  · rw [happ, getThread_setThread_self _ _ hslot, (hg _).2, hk.dbg]; exact hstop
  · rw [happ, getThread_setThread_self _ _ hslot, (hg _).2, hk.dbg]; exact hstep

end Sys2Proof.Machine
end

