-- ==== Sys2Proof/Tests/Slice0.lean ====
section
/-! SUPPORT. Small tests: the decode limits, words of the manual, its worked examples, and states that meet the hypotheses of the
statements. -/

namespace Sys2Proof.Tests

open Sys2Proof.Machine

set_option Elab.async false

/-- The guard that enables every element. -/
def on : Guard := ⟨0xFF, 0, 0, 0⟩

/-- Reset with the current thread about to issue bundle 0, changed by f. -/
def ready (f : Thread → Thread) : State :=
  let s := placeBundle State.reset 0
  setThread s s.cur (f (me s))

/-- What a next state shows. -/
def after {α : Type} (o : Host.Outcome State Fault Refusal) (f : State → α) : Option α :=
  match o with
  | .next t => some (f t)
  | _ => none

def withS (l : List (Nat × Word)) (th : Thread) : Thread := { th with sval := l.foldl (fun v p => vset v p.1 p.2) th.sval }
def withV (l : List (Nat × Vec)) (th : Thread) : Thread := { th with vval := l.foldl (fun v p => vset v p.1 p.2) th.vval }
def withP (l : List (Nat × Word)) (th : Thread) : Thread := { th with pval := l.foldl (fun v p => vset v p.1 p.2) th.pval }

/-- The elements of a register, lowest first. -/
def elems (w n : Nat) (v : Vec) : List Nat := (List.range n).map (vElem w v)

/-- A register of elements of w bits, lowest first. -/
def packed (w : Nat) (l : List Nat) : Vec := BitVec.ofNat 512 (l.foldr (fun x a => x + 2 ^ w * a) 0)

/-! ## The decode limits: a term outside each is ill-formed -/

theorem test_limits_scalar : ([.sll on (.s 1) (.s 2) (.imm 64), .bext on false (.s 1) (.s 2) (.imm 64), .bins on (.port 0) (.s 2) (.imm 0),
    .sext on (.s 1) (.s 2) 0, .zext on (.s 1) (.s 2) 65, .lih on (.port 1) 0, .cmp on 1 1 .set .eq (.s 1) (.s 2),
    .cmpi on 1 2 .set .un (.s 1) 0, .ptt on 3 3 .set 0 0 0 0, .pany on 2 2 .set 1 0, .pall on 2 2 .and 1 0] : List Instr).map
    Instr.wellFormed = List.replicate 11 false := by decide

theorem test_limits_control : ([.loop on (.s 0) 0, .loop on (.port 0) 0, .wfe on 0, .csrr on (.s 1) 0x006, .csrw on (.s 1) (.s 2) 0x406,
    .csrs on (.s 1) (.s 2) 0x8C7, .csrc on (.s 1) (.s 2) 0, .cfetch on .l (.s 1) 0, .gang on 0] : List Instr).map Instr.wellFormed =
    List.replicate 9 false := by decide

theorem test_limits_memory : ([.ld on .l 3 false .rel .th (.s 1) (.s 2) (.off 0), .ld on .g 3 false .plain .th (.port 0) (.s 2) (.off 0),
    .ld on .g 3 false .plain .cx (.s 1) (.s 2) (.off 0), .st on .l 3 .acq .th (.s 1) (.s 2) (.off 0),
    .vld on .d .plain .th (.port 0) (.s 2) (.off 0), .vst on .l .plain .th (.win 0) (.s 2) (.off 0),
    .vlds on .g 2 .plain .th (.port 0) (.s 2) (.s 3), .vsts on .l 2 .acqrel .th (.v 1) (.s 2) (.s 3), .vldx on .plain .th (.win 1) (.s 2) (.s 3),
    .vstx on .acq .th (.v 1) (.s 2) (.s 3), .ldfe on .rel .th (.s 1) (.s 2) (.off 0), .stef on .acq .th (.s 1) (.s 2) (.off 0),
    .amo on .add .g true .plain .th (.port 0) (.s 1) (.s 2), .cas on .g true .plain .cx (.s 3) (.s 1) (.s 2), .seal on .c (.s 1) (.s 2),
    .unseal on .g (.port 0) (.s 1) (.s 2), .publish on .l (.s 1)] : List Instr).map Instr.wellFormed = List.replicate 17 false := by decide

theorem test_limits_ports : ([.rfill on (.sc (.s 1)) 0 32, .rfill on (.vec (.win 0)) 0 0, .remp on (.sc (.port 0)), .bind on (.s 1) (.s 2) 4,
    .sbind on (.sc (.s 27)) (.s 1), .sunbind on (.vec (.v 11))] : List Instr).map Instr.wellFormed = List.replicate 6 false := by decide

theorem test_limits_vector : ([.vadd on .e4m3 .rne false (.v 1) (.v 2) (.reg (.v 3)), .vadd on .i32 .rtz false (.v 1) (.v 2) (.reg (.v 3)),
    .vadd on .f32 .rne false (.v 1) (.win 0) (.reg (.v 3)), .vmulh on .f32 (.v 1) (.v 2) (.reg (.v 3)),
    .vfma on .f32 .rne false (.v 1) (.v 2) (.reg (.v 3)) (.win 0), .vmin on .i4 (.v 1) (.v 2) (.reg (.v 3)), .vabs on .f32 true (.v 1) (.v 2),
    .vdiv on .i32 .rne false (.v 1) (.v 2) (.reg (.v 3)), .vsqrt on .i32 .rne false (.v 1) (.v 2), .vand on .i4 (.v 1) (.v 2) (.imm 8),
    .vsll on .i8 (.v 1) (.v 2) (.imm 8), .vclz on .f32 (.v 1) (.v 2), .vcmp on 1 1 .set .eq .f32 (.v 1) (.reg (.v 2)),
    .vcmp on 1 2 .set .ltu .f32 (.v 1) (.reg (.v 2)), .vcmp on 1 2 .set .un .i32 (.v 1) (.reg (.v 2)), .vclass on .i32 (.v 1) (.v 2),
    .vmov on (.v 1) (.win 0)] : List Instr).map Instr.wellFormed = List.replicate 17 false := by decide

theorem test_limits_vector_moves : ([.vext on .i64 (.s 1) (.v 2) 8, .vins on .i32 (.win 0) (.s 2) 0, .vperm on .i4 (.v 1) (.v 2) (.v 3),
    .vrot on .i64 (.v 1) (.v 2) (.imm 8), .vzip on .i8 false (.v 1) (.win 0) (.v 2), .vcvt on .mxi8 .f32 .rne false (.v 1) (.v 2) 0,
    .vcvt on .i8 .i32 .rtz false (.v 1) (.v 2) 0, .vcvt on .i8 .i32 .rne false (.v 1) (.v 2) 4, .vscl on .i8 .f32 .rne false (.v 1) (.v 2) (.v 3) 0,
    .vdot on .f32 .i8 .rne (.v 1) (.v 2) (.v 3), .vdot on .i32 .i8 .rne (.port 0) (.v 2) (.v 3), .vredadd on .f32 .rne true (.v 1) (.v 2),
    .vredmax on .f32 (.win 0) (.v 2), .vscan on .f16 (.v 1) (.v 2) (.s 1), .vrng on .e4m3 (.v 1) (.s 1) 0] : List Instr).map
    Instr.wellFormed = List.replicate 15 false := by decide

theorem test_limits_units : ([.vaccrd on .a0 (.s 1) (.v 1) 8, .vaccwr on .a0 (.s 1) (.win 0) 0, .mldb on 0 (.s 1), .mma on .a0 0 (.s 1),
    .spscan on .plain 0 (.port 0) (.v 1) (.s 1), .spred on .plain 0 (.v 1) (.win 0) (.s 1), .spbc on .plain 0 (.win 0) (.v 1) (.s 1),
    .lanternLdr 0 0 4, .lanternShr 0 0 64, .lanternShl 0 0 64, .lanternCnt 0 0 16, .lanternTrig 0 0 2] : List Instr).map Instr.wellFormed =
    List.replicate 12 false := by decide

/-! ## Words of the manual (R43 to R57 and the entries of the instructions) -/

theorem test_decode_scalar : ([0xFF00011460800064, 0xFF00141C8180070C, 0xFF002129213FFFFD, 0x0000010000000000].map decodeS) =
    [.ok (.add on (.s 5) (.s 6) (.imm 100)), .ok (.bext on true (.s 7) (.s 8) (.imm 0x70C)), .ok (.cmpi on 1 2 .and .lt (.s 4) 0x3FFFFD),
     .ok (.add ⟨0, 0, 0, 0⟩ (.s 0) (.s 0) (.reg (.s 0)))] := by decide

theorem test_decode_control : ([0xFF002A37FFFFFFF3, 0xFF00300000000007, 0xFF00690150000402, 0xFF00330000000000].map decodeS) =
    [.ok (.loop on (.s 13) 0x3FFFFFFF3), .ok (.trap on 7), .ok (.csrw on (.s 0) (.s 21) 0x402), .ok (.halt on)] := by decide

theorem test_decode_memory : ([0xFF0034105EAB0010, 0xFF003728A0004200, 0xFF003C7183010000, 0xFF0041105F001800, 0xFF00430003040000,
    0xFF004700AC010005].map decodeS) =
    [.ok (.ld on .g 2 true .acq .cx (.s 4) (.s 5) (.off 16)), .ok (.vst on .l .plain .th (.v 10) (.s 10) (.idx (.s 16) .x64)),
     .ok (.ldfe on .plain .th (.s 28) (.s 24) (.off 0)), .ok (.amo on .add .g true .plain .th (.s 4) (.s 5) (.s 6)),
     .ok (.fence on .eng .cl), .ok (.cfetch on .g (.s 10) 5)] := by decide

theorem test_decode_units : ([0xFF00520130000004, 0xFF005950A2C00002, 0xFF006050A2C20000, 0xFF006D50A0000000].map decodeS) =
    [.ok (.bind on (.s 19) (.s 0) 4), .ok (.cpyr on false (.s 20) (.s 10) (.s 11) 2), .ok (.spawn on true (.s 20) (.s 10) (.s 11)),
     .ok (.cmreq on (.s 20) (.s 10))] := by decide

theorem test_decode_vector : ([0xFF000208400A8C08, 0xFF001D4020801000, 0xFF0046184A0A0001, 0xFF00471A40018802, 0xFF00532149000000, 0xF0200110C8000000].map decodeV) =
    [.ok (.vsub on .u32 .rne true (.v 1) (.v 1) (.imm 8)), .ok (.vcmp on 2 0 .set .lt .f32 (.v 1) (.imm 0)),
     .ok (.vuzp on .i32 true (.v 3) (.v 1) (.v 5)), .ok (.vcvt on .e4m3 .f32 .rne true (.v 3) (.v 9) 2),
     .ok (.vscan on .f32 (.v 4) (.v 5) (.s 9)), .ok (.vadd ⟨0xF0, 1, 0, 0⟩ .f32 .rne false (.v 2) (.v 3) (.reg (.v 4)))] := by decide

theorem test_decode_matrix_spire : ([0xFF005800900A0000, 0xFF005C04A0000000, 0xFF006210452A0000].map decodeV) =
    [.ok (.vaccrd on .a0 (.s 9) (.v 5) 0), .ok (.mma on .a0 1 (.s 10)), .ok (.spred on .rel 5 (.v 2) (.v 1) (.s 5))] := by decide

theorem test_decode_lantern : ([0x04400000, 0x2CD00004, 0x40000000, 0x48000001].map decodeLantern) =
    [.ok (.lanternLdr 1 0 0), .ok (.lanternBne 3 4 4), .ok (.lanternKeep 0 0 0), .ok (.lanternCnt 0 0 1)] := by decide

/-- The bundle of chapter 03: both halves, low half the S syllable. -/
theorem test_bundle_halves : (bundleS 0xF0200110C8000000_FF00011460800064, bundleV 0xF0200110C8000000_FF00011460800064) =
    (0xFF00011460800064, 0xF0200110C8000000) := by decide

/-- R56, R57: a reserved fn value and an unassigned OP are illegal. -/
theorem test_decode_refuses : (decodeS 0xFF00010000000000 |>.toOption.isSome) = true ∧ (decodeS 0xFF00010001000000 |>.toOption) = none ∧
    (decodeV 0xFF007F0000000000 |>.toOption) = none := by decide

/-! ## Worked examples of the manual -/

def sAfter (i : Instr) (l : List (Nat × Word)) : Option Word := after (exec i (ready (withS l))) fun t => getS (me t) 4
def vAfter (i : Instr) (w n : Nat) (l : List (Nat × Vec)) (sl : List (Nat × Word) := []) : Option (List Nat) :=
  after (exec i (ready fun th => withS sl (withV l th))) fun t => elems w n (getV (me t) 4)

/-- The table of R79. -/
theorem test_divide : ([.div on false (.s 4) (.s 5) (.imm 2), .rem on false (.s 4) (.s 5) (.imm 2), .div on true (.s 4) (.s 5) (.imm 2),
    .rem on true (.s 4) (.s 5) (.imm 2), .div on false (.s 4) (.s 5) (.imm 0), .rem on true (.s 4) (.s 5) (.imm 0)] : List Instr).map
    (fun i => sAfter i [(5, 0xFFFFFFFFFFFFFFF9)]) = [some 0xFFFFFFFFFFFFFFFD, some 0xFFFFFFFFFFFFFFFF, some 0x7FFFFFFFFFFFFFFC, some 1,
    some 0xFFFFFFFFFFFFFFFF, some 0xFFFFFFFFFFFFFFF9] := by decide +kernel

theorem test_divide_overflow : ([.div on false (.s 4) (.s 5) (.imm (-1)), .rem on false (.s 4) (.s 5) (.imm (-1)),
    .mulh on false (.s 4) (.s 5) (.imm 2), .mulh on true (.s 4) (.s 5) (.imm 2)] : List Instr).map
    (fun i => sAfter i [(5, 0x8000000000000000)]) = [some 0x8000000000000000, some 0, some (-1), some 1] := by decide +kernel

/-- R82: bits [19:12] of s8, with and without `.sx`; R84, R86. -/
theorem test_fields : ([.bext on true (.s 4) (.s 8) (.imm 0x70C), .bext on false (.s 4) (.s 8) (.imm 0x70C), .sext on (.s 4) (.s 8) 6,
    .shadd on 2 (.s 4) (.s 8) (.imm (-4))] : List Instr).map (fun i => sAfter i [(8, 0x00000000000AB123)]) =
    [some 0xFFFFFFFFFFFFFFAB, some 0xAB, some 0xFFFFFFFFFFFFFFE3, some 0x2AC488] := by decide +kernel

/-- R90: `li` then `lih` of 0x0000_0002_0000_0010. -/
theorem test_li_lih : (sAfter (.li on (.s 4) 0x200000010) [], sAfter (.lih on (.s 4) 0) [(4, 0xFFFFFFFE00000010)],
    sAfter (.lih on (.s 4) 0x28) [(4, 0x123456789)]) = (some 0xFFFFFFFE00000010, some 0x200000010, some 0xA123456789) := by decide +kernel

/-- R94: the chain for s4 = 150 leaves p1 zero after the second compare. -/
theorem test_compare_chain : (after (exec (.cmpi on 1 0 .set .ge (.s 4) 0) (ready (withS [(4, 150)]))) fun t => getP (me t) 1,
    after (exec (.cmpi on 1 0 .and .lt (.s 4) 100) (ready fun th => withP [(1, -1)] (withS [(4, 150)] th))) fun t => getP (me t) 1) =
    (some (-1), some 0) := by decide +kernel

/-- R97: the bitwise majority of three predicates. -/
theorem test_ptt : after (exec (.ptt on 3 4 .set 0xE8 1 2 5) (ready (withP [(1, 0xF0F0F0F0F0F0F0F0), (2, 0xCCCCCCCCCCCCCCCC),
    (5, 0xAAAAAAAAAAAAAAAA)]))) (fun t => (getP (me t) 3, getP (me t) 4)) = some (0xE8E8E8E8E8E8E8E8, 0x1717171717171717) := by decide +kernel

/-- The table of R100. -/
theorem test_predicate_counts : ([.pcnt on (.s 4) 3 2, .pfirst on (.s 4) 3 2, .pcnt on (.s 4) 3 3, .pfirst on (.s 4) 3 3] : List Instr).map
    (fun i => after (exec i (ready (withP [(3, 0xF0A0)]))) fun t => getS (me t) 4) = [some 6, some 5, some 2, some 5] ∧
    after (exec (.pany on 1 2 .set 3 3) (ready (withP [(3, 0xF0A0)]))) (fun t => (getP (me t) 1, getP (me t) 2)) = some (-1, 0) ∧
    after (exec (.pall on 1 2 .set 3 2) (ready (withP [(3, 0xF0A0)]))) (fun t => (getP (me t) 1, getP (me t) 2)) = some (0, -1) ∧
    after (exec (.pfirst on (.s 4) 3 2) (ready (withP [(3, 0x10000)]))) (fun t => getS (me t) 4) = some 16 := by decide +kernel

/-- The round trip of chapter 06: `trap 7` from U into S, and the `eret` that ends it. -/
theorem test_system_call : after (exec (.trap on 7) (ready fun th => { th with pc := 0x30120, status := 0x01000004, tvec := 0x20000, hdeleg := 0x10000 }))
    (fun t => ((me t).pc, (me t).epc, (me t).cause, (me t).tval, (me t).status)) = some (0x20000, 0x30120, 0x10, 7, 0x01000009) := by decide +kernel

theorem test_system_return : after (exec (.eret on) (ready fun th => { th with pc := 0x20040, status := 0x01000009, epc := 0 }))
    (fun t => ((me t).pc, (me t).status)) = some (0, 0x0100000C) := by decide +kernel

/-- R106, R111: the same trap that `hdeleg` does not delegate enters H. -/
theorem test_trap_into_h : after (exec (.trap on 7) (ready fun th => { th with status := 0x4, htvec := 0x40 }))
    (fun t => ((me t).pc, (me t).hcause, (me t).htval, (me t).status, (me t).hstatus)) = some (0x40, 0x10, 7, 0x7, 0) := by decide +kernel

/-- R103: `loop` with a counter of 1 falls through with 0; with 0 it wraps and branches. -/
theorem test_loop : (after (exec (.loop on (.s 4) 0) (ready (withS [(4, 1)]))) (fun t => ((me t).pc, getS (me t) 4)),
    after (exec (.loop on (.s 4) 0) (ready (withS [(4, 0)]))) fun t => ((me t).pc, getS (me t) 4)) = (some (16, 0), some (0, -1)) := by decide +kernel

/-- R103: a call links pc + 16, and R102: a misaligned register target traps. -/
theorem test_call_links : after (exec (.call on 0) (ready id)) (fun t => ((me t).pc, getS (me t) 1)) = some (0, 16) := by decide +kernel
theorem test_jmp_misaligned : after (exec (.jmp on (.s 4)) (ready (withS [(4, 8)]))) (fun t => ((me t).hcause, (me t).htval)) = some (4, 8) := by
  decide +kernel

/-- R114, R118: a write of `felimit` keeps 32 bits; R119: W1C bits of `status` are cleared by ones. -/
theorem test_csrs : (after (exec (.csrw on (.s 4) (.s 5) 0x005) (ready (withS [(5, 0x123456789)]))) fun t => (me t).felimit) = some 0x23456789 ∧
    (after (exec (.csrs on (.s 4) (.s 5) 0x400) (ready fun th => { withS [(5, 0x10000)] th with status := 0x30001 }))
      fun t => (getS (me t) 4, bitsAt (me t).status 16 8)) = some (0x30001, 2) := by decide +kernel

/-- R36: both halves of a bundle write s4. -/
theorem test_bundle_conflict : after (exec (.add on (.s 4) (.s 0) (.imm 1)) { ready id with pair := .first }) (fun t =>
    after (exec (.vext on .i32 (.s 4) (.v 1) 0) t) fun u => ((me u).hcause, (me u).htval)) = some (some (2, 4)) := by decide +kernel

/-- R201: bytes are little-endian, and `ld` extends the sign where it is asked. -/
theorem test_store_byte : after (exec (.st on .l 1 .plain .th (.s 5) (.s 6) (.off 2)) (ready (withS [(5, 0x8182), (6, 0x7FFFC)])))
    (fun t => (List.range 4).map fun i => mGet (getCore t (tidKey State.reset.cur)).tcm (0x7FFFC + i)) = some [0, 0, 0x82, 0x81] := by decide +kernel
theorem test_load_sign : after (exec (.st on .l 1 .plain .th (.s 5) (.s 6) (.off 0)) (ready (withS [(5, 0x8182), (6, 0x100)])))
    (fun t => (after (exec (.ld on .l 0 true .plain .th (.s 4) (.s 6) (.off 1)) t) fun u => getS (me u) 4)) = some (some 0xFFFFFFFFFFFFFF81) := by decide +kernel
/-- R110, R192: a byte past the end of TCM is an access-fault; a misaligned address comes first. -/
theorem test_local_faults : (after (exec (.ld on .l 3 false .plain .th (.s 4) (.s 6) (.off 0)) (ready (withS [(6, 0x80000)]))) fun t =>
    ((me t).hcause, (me t).htval)) = some (6, 0x80000) ∧ (after (exec (.ld on .l 3 false .plain .th (.s 4) (.s 6) (.off 1))
      (ready (withS [(6, 0x80000)]))) fun t => ((me t).hcause, (me t).htval)) = some (4, 0x80001) := by decide +kernel

/-- R210: `stef` fills an Empty word; `ldfe` of an Empty word parks under cause 2. -/
theorem test_full_empty : after (exec (.stef on .plain .th (.s 5) (.s 6) (.off 0)) (ready (withS [(5, 7), (6, 0x40)]))) (fun t =>
    (mNat (getCore t (tidKey State.reset.cur)).tcm 0x40 8, isFull (getCore t (tidKey State.reset.cur)) 0x40)) = some (7, true) ∧
    after (exec (.ldfe on .plain .th (.s 4) (.s 6) (.off 0)) (ready (withS [(6, 0x40)]))) (fun t => ((me t).run, (me t).park.map (·.cause))) =
      some (.parked, some 2) := by decide +kernel

/-- R288: the least of two signed values at 32 bits is stored, and the old value is returned zero-extended. -/
theorem test_amo_min : after (exec (.stff on .plain .th (.s 5) (.s 6) (.off 0)) (ready (withS [(5, 5), (6, 0x80), (7, 0xFFFFFFFE)]))) (fun t =>
    after (exec (.amo on .min .l false .plain .th (.s 4) (.s 6) (.s 7)) t) fun u =>
      (getS (me u) 4, mNat (getCore u (tidKey State.reset.cur)).tcm 0x80 8)) = some (some (5, 0xFFFFFFFE)) := by decide +kernel

/-- R31: the guard of the example enables elements 4 to 7 and 15. -/
theorem test_guard_mask : after (exec (.vadd ⟨0xBA, 1, 2, 3⟩ .i32 .rne false (.v 4) (.v 4) (.imm 1)) (ready (withP [(1, 0xFF), (2, 0xF0F),
    (3, 0x8000)]))) (fun t => elems 32 16 (getV (me t) 4)) = some [0, 0, 0, 0, 1, 1, 1, 1, 0, 0, 0, 0, 0, 0, 0, 1] := by decide +kernel

/-- R184: 460, 470, +infinity and 2^−10 to E4M3 with sat, in part 2. -/
theorem test_vcvt : vAfter (.vcvt on .e4m3 .f32 .rne true (.v 4) (.v 9) 2) 8 40 [(9, packed 32 [0x43E60000, 0x43EB0000, 0x7F800000, 0x3A800000])] =
    some (List.replicate 32 0 ++ [0x7E, 0x7E, 0x7E, 0, 0, 0, 0, 0]) := by decide +kernel

/-- R185: the block of the example encoded and decoded. -/
theorem test_vscl : (vAfter (.vscl on .mxe4m3 .f32 .rne false (.v 4) (.v 9) (.v 10) 0) 8 5 [(9, packed 32 [0x42C80000, 0xC0500000, 0x40220000, 0x3F800000]),
    (10, 0x7D)] = some [0x7C, 0xD5, 0x52, 0x48, 0]) ∧
    vAfter (.vscl on .f32 .mxe4m3 .rne false (.v 4) (.v 9) (.v 10) 0) 32 5 [(9, 0x4852D57C), (10, 0x7D)] =
      some [0x42C00000, 0xC0500000, 0x40200000, 0x3F800000, 0] := by decide +kernel

/-- R186: lane 0 of the example is 16. -/
theorem test_vdot : vAfter (.vdot on .i32 .i8 .rne (.v 4) (.v 7) (.v 8)) 32 2 [(4, 10), (7, 0x04030201), (8, 0xF8070605)] = some [16, 0] := by decide +kernel

/-- R189: the affine scan of the example, inclusive and exclusive; pairs (2, 1), (3, −1), (0.5, 4), then (1, 0). -/
theorem test_vscan : (vAfter (.vscan on .f32 (.v 4) (.v 5) (.s 9)) 32 8 [(5, packed 32 [0x40000000, 0x3F800000, 0x40400000, 0xBF800000, 0x3F000000,
    0x40800000, 0x3F800000, 0, 0x3F800000, 0])] [(9, 7)] = some [0x40000000, 0x3F800000, 0x40C00000, 0x40000000, 0x40400000, 0x40A00000, 0x40400000,
      0x40A00000]) ∧
    vAfter (.vscan on .f32 (.v 4) (.v 5) (.s 9)) 32 8 [(5, packed 32 [0x40000000, 0x3F800000, 0x40400000, 0xBF800000, 0x3F000000,
      0x40800000, 0x3F800000, 0, 0x3F800000, 0])] [(9, 0x17)] =
    some [0x3F800000, 0, 0x40000000, 0x3F800000, 0x40C00000, 0x40000000, 0x40400000, 0x40A00000] := by decide +kernel

/-- R170, R177: saturation, and a compare that clears the bits above the lanes. -/
theorem test_vsub_sat : vAfter (.vsub on .u32 .rne true (.v 4) (.v 1) (.imm 8)) 32 2 [(1, packed 32 [5, 9])] = some [0, 1] := by decide +kernel
theorem test_vcmp : after (exec (.vcmp on 2 0 .set .lt .f32 (.v 1) (.imm 0)) (ready fun th => withP [(2, -1)] (withV [(1, packed 32 [0xBF800000,
    0x80000000, 0x3F800000])] th))) (fun t => getP (me t) 2) = some 1 := by decide +kernel

/-- The worked example of chapter 11: one group of 2^15, 2^−9 and 2^−48 rounds to 0x4700_0000, not to 0x4700_0001. -/
theorem test_group_sum : roundTo .f32 .rne false 0 (groupSum [.fin ⟨false, 1, 15, false⟩, .fin ⟨false, 1, -9, false⟩, .fin ⟨false, 1, -48, false⟩]) =
    0x47000000 := by decide +kernel

/-- R457: a word of a filter. -/
theorem test_lantern_add : after (exec (.lanternAdd 3 1 2) { modLantern State.reset 0 fun l => { l with code := [0, 0] } with lanRun := some ⟨0, [], 0, (Vector.replicate 16 0).set 1 7⟩ })
    (fun t => t.lanRun.map fun r => r.f.toList.getD 3 0) = some (some 7) := by decide +kernel

/-- The bundle of chapter 03's `add`, fetched, decoded and run by one step: s6 is 0 at creation. -/
theorem test_step_runs : after (step (State.reset.withBundle 0xFF00011460800064)) (fun t => getS (getThread t State.reset.cur) 5) = some 100 := by
  decide +kernel

/-! ## States that meet the hypotheses of the statements -/

/-- What a program of operand reads comes to, and the effects it leaves. -/
def readsTo {α : Type} (s : State) (v : Bool) (p : Ev α) : Option (α × List Eff) :=
  match p (issueCtx s v) with
  | .ok (x, c) => some (x, c.eff6)
  | .error _ => none

theorem reads_of {α : Type} {s : State} {v : Bool} {p : Ev α} {x : α} {es : List Eff} (h : readsTo s v p = some (x, es)) : Reads s v p x es := by
  unfold readsTo at h
  split at h
  · rename_i y c hp
    simp only [Option.some.injEq, Prod.mk.injEq] at h
    exact ⟨c, by rw [hp, h.1], h.2⟩
  · exact absurd h (by simp)

theorem reads_some {α : Type} {s : State} {v : Bool} {p : Ev α} (h : (readsTo s v p).isSome = true) : ∃ x es, Reads s v p x es := by
  obtain ⟨y, hy⟩ := Option.isSome_iff_exists.mp h
  exact ⟨y.1, y.2, reads_of hy⟩

/-- A thread whose receive port 0 is bound and holds two elements, and whose s9 is Empty, s10 Pending and s11 Poisoned. -/
def busy (th : Thread) : Thread :=
  { withS [(5, 3), (6, 4), (7, 5)] th with
    rx := th.rx.set 0 { getRx th 0 with circ := some 9, q := [21, 22] }
    sfe := ((th.sfe.set 9 .empty).set 10 .pending).set 11 (.poisoned 0x50) }

theorem quiet_of (f : Thread → Thread) (h : (f (readyThread Thread.reset)).gang = none ∧ (f (readyThread Thread.reset)).dbg.stopReq = none ∧
    (f (readyThread Thread.reset)).dbg.stepping = false) (e : me (ready f) = f (readyThread Thread.reset)) : Quiet (ready f) :=
  ⟨by change State.reset.cur.slot < 8; decide, by rw [e]; exact h.1, by rw [e]; exact h.2.1, by rw [e]; exact h.2.2⟩

theorem ready_plain : Quiet (ready id) ∧ Enabled (ready id) on := ⟨⟨by decide, rfl, rfl, rfl⟩, rfl, by decide +kernel⟩
theorem ready_busy : Quiet (ready busy) ∧ Enabled (ready busy) on := ⟨⟨by decide, rfl, rfl, rfl⟩, rfl, by decide +kernel⟩

/-- A destination, two registers and a third; a port that pops; an immediate; division by zero and the top of the range. -/
theorem witness_IntegerArithmetic : Enabled (ready busy) on ∧
    Reads (ready busy) false (opsDAB (.s 4) (.s 5) (.reg (.s 6))) (3, 4) [] ∧
    Reads (ready busy) false (opsDAB (.s 4) (.port 0) (.reg (.port 0))) (21, 22) [.pop 0, .pop 0] ∧
    Reads (ready busy) false (opsDAB (.s 0) (.s 5) (.imm 0)) (3, 0) [] ∧
    Reads (ready busy) false (opsDABC (.s 4) (.s 5) (.s 6) (.s 7)) (3, 4, 5) [] :=
  ⟨ready_busy.2, reads_of (by decide +kernel), reads_of (by decide +kernel), reads_of (by decide +kernel), reads_of (by decide +kernel)⟩

theorem witness_LogicShiftsAndCounts : Enabled (ready busy) on ∧
    Reads (ready busy) false (opsDAB (.s 4) (.s 5) (.imm 63)) (3, 63) [] ∧ Reads (ready busy) false (opsDA (.s 4) (.s 0)) (0 : Word) [] :=
  ⟨ready_busy.2, reads_of (by decide +kernel), reads_of (by decide +kernel)⟩

theorem witness_FieldsAndConstants : Enabled (ready busy) on ∧
    Reads (ready busy) false (opsField (.s 4) (.s 5) (.imm 0x3F3F)) (3, 0x3F3F) [] ∧
    Reads (ready busy) false (opsInsert (.s 6) (.s 5) (.reg (.s 7))) (4, 3, 5) [] ∧
    Reads (ready busy) false (opsDA (.s 4) (.s 5)) 3 [] ∧ Reads (ready busy) false (do examS (.s 4); opsAB (.s 5) (.s 6)) (3, 4) [] ∧
    Reads (ready busy) false (opsD (.s 4)) () [] ∧ Reads (ready busy) false (srcS (.s 7)) 5 [] :=
  ⟨ready_busy.2, reads_of (by decide +kernel), reads_of (by decide +kernel), reads_of (by decide +kernel), reads_of (by decide +kernel),
    reads_of (by decide +kernel), reads_of (by decide +kernel)⟩

theorem witness_ComparesAndPredicates : Enabled (ready busy) on ∧ Reads (ready busy) false (opsAB (.s 5) (.port 0)) (3, 21) [.pop 0] ∧
    Reads (ready busy) false (srcS (.s 5)) 3 [] ∧ Reads (ready busy) false (opsD (.s 4)) () [] :=
  ⟨ready_busy.2, reads_of (by decide +kernel), reads_of (by decide +kernel), reads_of (by decide +kernel)⟩

/-- A thread with stream 0 bound to v12 and one element waiting. -/
def streaming (th : Thread) : Thread :=
  { th with
    streams := th.streams.set 4 { getStream th 4 with rcd := { (getStream th 4).rcd with w1 := 0 }, on := true, fifo := [.val 7] } }

theorem witness_SourcesRead : streamS (me (ready busy)) 5 = none ∧ getFeS (me (ready busy)) 5 = .full ∧ streamV (me (ready busy)) 15 = none ∧
    getFeV (me (ready busy)) 15 = .full ∧ (getRx (me (ready busy)) 0).circ ≠ none ∧ (getRx (me (ready busy)) 0).overflow = false ∧
    (getRx (me (ready busy)) 0).q = [21, 22] := by decide +kernel

theorem witness_OperandsStop : Enabled (ready busy) on ∧ (ready busy).cur.slot < 8 ∧ getFeS (me (ready busy)) 4 ≠ .pending ∧
    streamS (me (ready busy)) 9 = none ∧ getFeS (me (ready busy)) 9 = .empty ∧ getFeS (me (ready busy)) 10 = .pending ∧
    getFeS (me (ready busy)) 11 = .poisoned 0x50 ∧ (getRx (me (ready busy)) 3).circ = none ∧ getTx (me (ready busy)) 3 = none :=
  ⟨ready_busy.2, by decide +kernel⟩

theorem ready_of (f : Thread → Thread) : (ready f).pair = .alone ∧ (ready f).cur = State.reset.cur := ⟨rfl, rfl⟩

theorem pops_one : AllPops [.pop 0] := by
  intro e he
  simp only [List.mem_singleton] at he
  exact ⟨0, .inl he⟩
theorem pops_none : AllPops [] := by
  intro e he
  exact absurd he (by simp)

theorem witness_RegisterDestinations : Quiet (ready busy) ∧ AllPops [.pop 0] ∧ streamS (me (ready busy)) 31 = none ∧
    streamV (me (ready streaming)) 12 ≠ none ∧ streamV (me (ready streaming)) 13 = none :=
  ⟨ready_busy.1, pops_one, by decide +kernel⟩

/-- Send port 0 on a circuit that is open. -/
def sending (th : Thread) : Thread := { busy th with tx := th.tx.set 0 (some 70) }

/-- A circuit of the current thread's core, open, with two slots of the revolution. -/
def wired (s : State) : State := setCircuit s 70 { Circuit.none with closed := none, slots := [3, 200] }

theorem witness_PortDestinationAndSource : Quiet (wired (ready sending)) ∧
    liveCirc (wired (ready sending)) (getTx (me (wired (ready sending))) 0) = some 70 ∧
    (getRx (me (ready sending)) 0).rcount = 0 ∧
    (getRx (me (ready fun th => { th with rx := th.rx.set 0 { getRx th 0 with circ := some 9, q := [1], rlen := 1, rcount := 1 } })) 0).rcount ≠ 0 :=
  ⟨⟨by decide, rfl, rfl, rfl⟩, by decide +kernel⟩

/-- Modes U, S and H with a delegated cause, and return addresses of a landed bundle. -/
theorem witness_TrapsAndReturns : Quiet (ready id) ∧ Enabled (ready id) on ∧ bitsAt (me (ready id)).status 0 2 = 0 ∧
    bitsAt (me (ready fun th => { th with status := 1 })).status 0 2 = 1 ∧ bitsAt (me (ready fun th => { th with status := 1 })).epc 0 4 = 0 ∧
    landed (ready fun th => { th with status := 1 }) 0 ∧ landed (ready fun th => { th with status := 3 }) (me (ready fun th => { th with status := 3 })).hepc ∧
    bitAt (me (ready fun th => { th with hdeleg := 0x20000 })).hdeleg 17 = true ∧ bitsAt (me (ready fun th => { th with status := 1, epc := 1 })).epc 0 4 ≠ 0 :=
  ⟨ready_plain.1, ready_plain.2, by decide +kernel, by decide +kernel, by decide +kernel, ⟨by decide +kernel, _, rfl, by decide +kernel⟩,
    ⟨by decide +kernel, _, rfl, by decide +kernel⟩, by decide +kernel, by decide +kernel⟩

theorem witness_TransfersTaken : Enabled (ready busy) on ∧ sameSegment (me (ready busy)).pc 0 ∧ landed (ready busy) 0 ∧
    Reads (ready busy) false (srcS (.s 0)) 0 [] ∧ getFeS (me (ready busy)) 1 ≠ .pending ∧
    Reads (ready (withS [(13, 1)])) false (srcS (.s 13)) 1 [] ∧ Reads (ready (withS [(13, 1)])) false (srcS (.s 12)) 0 [] :=
  ⟨ready_busy.2, rfl, ⟨by decide, _, rfl, by decide⟩, reads_of (by decide +kernel), by decide +kernel, reads_of (by decide +kernel),
    reads_of (by decide +kernel)⟩

/-- A misaligned target, one above 2^28, the first bundle past the landed length, and one in another segment. -/
theorem witness_TransfersChecked : Enabled (ready busy) on ∧ Quiet (ready busy) ∧ Reads (ready busy) false (srcS (.s 5)) 3 [] ∧
    bitsAt (3 : Word) 0 4 ≠ 0 ∧ bitsAt (0x10000000 : Word) 28 36 ≠ 0 ∧ ¬ landed (ready busy) 16 ∧ ¬ landed (ready busy) 0x10000 ∧
    bitsAt (0x10000 : Word) 16 12 ≠ bitsAt (me (ready busy)).pc 16 12 ∧ (tidWord (ready busy) (ready busy).cur).toNat < 2 ^ 24 := by
  refine ⟨ready_busy.2, ready_busy.1, reads_of (by decide +kernel), by decide, by decide, ?_, ?_, by decide +kernel, by decide +kernel⟩
  · rintro ⟨-, g, h, l⟩
    have e : findSeg (codeCore (ready busy) (ready busy).cur) (bitsAt (16 : Word) 16 12) = some ⟨0, 1, ⟨.g, 0, 0, 0, 0⟩, [0]⟩ := by decide +kernel
    rw [e] at h
    cases h
    exact absurd l (by decide)
  · rintro ⟨-, g, h, -⟩
    have e : findSeg (codeCore (ready busy) (ready busy).cur) (bitsAt (0x10000 : Word) 16 12) = none := by decide +kernel
    rw [e] at h
    cases h

theorem witness_EndingWaitingTrapping : Enabled (ready id) on ∧ Quiet (ready id) ∧ (me (ready id)).dbg.agent = none ∧
    (me (ready fun th => { th with dbg := { th.dbg with agent := some Tid.zero } })).dbg.agent ≠ none ∧
    (bitsAt (me (ready id)).status 16 8 ||| bitsAt (me (ready id)).hstatus 16 8) &&& 0x80 = 0 ∧
    (bitsAt (me (ready fun th => { th with status := 0x800000 })).status 16 8) &&& 0x80 ≠ 0 ∧
    bitAt (me (ready fun th => { th with trcen := 1 })).trcen 0 = true ∧ (getCore (ready id) 0).trace.length < 8 :=
  ⟨ready_plain.2, ready_plain.1, by decide +kernel⟩

/-- The last U number from U, the first S number from S and not from U, and an H number from H. -/
theorem witness_CsrInstructions : Enabled (ready busy) on ∧ (0x3FF : BitVec 12).toNat < 0x400 ∧
    (¬((0x400 : BitVec 12).toNat < 0x400 ∨ ((0x400 : BitVec 12).toNat < 0x800 ∧ 1 ≤ bitsAt (me (ready busy)).status 0 2) ∨
      bitsAt (me (ready busy)).status 0 2 = 3)) ∧ 1 ≤ bitsAt (me (ready fun th => { th with status := 1 })).status 0 2 ∧
    Reads (ready busy) false (opsDA (.s 4) (.s 5)) 3 [] ∧ Reads (ready busy) false (opsD (.s 4)) () [] :=
  ⟨ready_busy.2, by decide +kernel, by decide +kernel, by decide +kernel, reads_of (by decide +kernel), reads_of (by decide +kernel)⟩

theorem witness_CsrRegisters : Quiet (ready id) ∧ (ready id).modNo < 64 ∧ (ready id).cur.die < 160 ∧ (ready id).cur.core < 64 ∧
    (ready id).cur.slot < 8 := ⟨ready_plain.1, by decide +kernel⟩

/-- A thread with addresses in s20 to s27: the last doubleword and line of TCM, the last of the scratchpad, an index and a shape record. -/
def addressing (th : Thread) : Thread := withS [(20, 0x7FFF8), (21, 0x7FFC0), (22, 0x3FFFF8), (23, 1), (24, 0x100), (25, 4)] (busy th)

/-- TCM with a record at 0x100: 16 elements of FP32 at 0x1000 in TCM. -/
def withRecord (s : State) : State :=
  modCore s (tidKey s.cur) fun c => { c with tcm := mPut (mPut (mPut c.tcm 0x100 8 0x1000) 0x110 8 (16 + 2 ^ 16 + 2 ^ 32 + 2 ^ 48)) 0x118 8 4 }

theorem ready_addressing : Enabled (ready addressing) on ∧ Quiet (ready addressing) ∧ NoWatch (ready addressing) :=
  ⟨⟨rfl, by decide +kernel⟩, ⟨by decide, rfl, rfl, rfl⟩, by change bitAt _ 63 = false; decide +kernel⟩

theorem witness_LocalLoads : Enabled (ready addressing) on ∧ NoWatch (ready addressing) ∧
    Reads (ready addressing) false (do examS (.s 4); evAddr (.s 20) (.off 0)) 0x7FFF8 [] ∧ 0x7FFF8 % 2 ^ 3 = 0 ∧
    0x7FFF8 + 2 ^ 3 ≤ spaceBytes .l ∧ Reads (ready addressing) false (do examS (.s 4); evAddr (.s 22) (.idx (.s 0) .x64)) 0x3FFFF8 [] ∧
    0x3FFFF8 + 2 ^ 3 ≤ spaceBytes .c ∧ Reads (ready addressing) false (do let _ ← examV (.v 1) true; evAddr (.s 21) (.off 0)) 0x7FFC0 [] ∧
    Reads (ready addressing) false (do let _ ← examV (.v 1) true; opsAB (.s 21) (.s 25)) (0x7FFC0, 4) [] :=
  ⟨ready_addressing.1, ready_addressing.2.2, reads_of (by decide +kernel), by decide, by decide, reads_of (by decide +kernel), by decide,
    reads_of (by decide +kernel), reads_of (by decide +kernel)⟩

theorem witness_LocalStrips : let s := withRecord (ready addressing)
    (readsTo s false (do let _ ← examV (.v 1) true; let a ← srcS (.s 24); let n ← srcS (.s 0); let r ← evRec a; pure (r, n))).map
      (fun x => (rSpace x.1.1, recTagen x.1.1, elemCount x.1.1 0, rWidth x.1.1, x.1.2)) = some (.l, false, 16, 32, 0) := by decide +kernel

theorem witness_LocalStores : Enabled (ready addressing) on ∧ Quiet (ready addressing) ∧ NoWatch (ready addressing) ∧ AllPops [] ∧
    Reads (ready addressing) false (do let v ← srcS (.s 5); let a ← evAddr (.s 20) (.off 0); pure (v, a)) (3, 0x7FFF8) [] ∧
    Reads (ready addressing) false (do let v ← srcV (.v 1); let a ← evAddr (.s 21) (.off 0); pure (v, a)) (0, 0x7FFC0) [] ∧
    Reads (ready addressing) false (do let v ← srcV (.v 1); let (a, t) ← opsAB (.s 21) (.s 25); pure (v, a, t)) (0, 0x7FFC0, 4) [] :=
  ⟨ready_addressing.1, ready_addressing.2.1, ready_addressing.2.2, pops_none, reads_of (by decide +kernel), reads_of (by decide +kernel),
    reads_of (by decide +kernel)⟩

/-- The last word of TCM, Empty as after reset, and Full once it has been set. -/
theorem witness_FullEmptyOperations : Enabled (ready addressing) on ∧ NoWatch (ready addressing) ∧ 0x7FFF8 % 8 = 0 ∧ 0x7FFF8 + 8 ≤ 0x80000 ∧
    Reads (ready addressing) false (do examS (.s 4); evAddr (.s 20) (.off 0)) 0x7FFF8 [] ∧
    isFull (getCore (ready addressing) 0) 0x7FFF8 = false ∧
    isFull (getCore (modCore (ready addressing) 0 fun c => { c with full := [0x7FFF8] }) 0) 0x7FFF8 = true ∧
    Reads (ready addressing) false (evAddr (.s 20) (.idx (.s 0) .x1)) 0x7FFF8 [] ∧
    Reads (ready addressing) false (evAddr (.s 20) (.idx (.s 25) .x1)) 0x7FFFC [] :=
  ⟨ready_addressing.1, ready_addressing.2.2, by decide, by decide, reads_of (by decide +kernel), by decide +kernel, by decide +kernel,
    reads_of (by decide +kernel), reads_of (by decide +kernel)⟩

theorem witness_LocalAtomics : Enabled (ready addressing) on ∧ NoWatch (ready addressing) ∧ 0x7FFF8 % 8 = 0 ∧ 0x7FFF8 + 8 ≤ spaceBytes .l ∧
    Reads (ready addressing) false (opsDAB (.s 4) (.s 20) (.reg (.s 5))) (0x7FFF8, 3) [] ∧
    Reads (ready addressing) false (do let e ← srcS (.s 4); let a ← srcS (.s 22); let b ← srcS (.s 5); pure (e, a, b)) (0, 0x3FFFF8, 3) [] :=
  ⟨ready_addressing.1, ready_addressing.2.2, by decide, by decide, reads_of (by decide +kernel), reads_of (by decide +kernel)⟩

theorem witness_RemoteAccesses : Enabled (ready addressing) on ∧ NoWatch (ready addressing) ∧ streamS (me (ready addressing)) 4 = none ∧
    Reads (ready addressing) false (do examS (.s 4); evAddr (.s 20) (.off 0)) 0x7FFF8 [] ∧ 0x7FFF8 % 2 ^ 3 = 0 ∧
    Reads (ready addressing) false (do let _ ← examV (.v 1) true; evAddr (.s 21) (.off 0)) 0x7FFC0 [] ∧ 0x7FFC0 % 64 = 0 ∧
    (∃ x ∈ stripLoad { Rec.zero with w1 := 0x300, w2 := 16 + 2 ^ 16 + 2 ^ 32 + 2 ^ 48, w3 := 4 } 0 0, x.done = false) ∧
    rSpace { Rec.zero with w1 := 0x300 } = .g :=
  ⟨ready_addressing.1, ready_addressing.2.2, by decide +kernel, reads_of (by decide +kernel), by decide, reads_of (by decide +kernel), by decide,
    by decide +kernel, by decide +kernel⟩

/-- A load that waited for its reply, whose eight bytes have come. -/
def replied (th : Thread) : Thread :=
  { th with run := .parked, inflight := some ⟨[.key 15 7], [.sregOf 31 7 8 true 0], [(7, some [1, 2, 3, 4, 5, 6, 7, 0x80])]⟩ }

theorem witness_RequestsAndWaits : (ready replied).arg.t = (ready replied).cur ∧ Quiet (ready replied) ∧ (me (ready replied)).run = .parked ∧
    (me (ready replied)).failed = none ∧ mapFind [(7, some [1, 2, 3, 4, 5, 6, 7, (0x80 : Byte)])] 7 = some (some [1, 2, 3, 4, 5, 6, 7, 0x80]) ∧
    streamS (me (ready replied)) 31 = none ∧ bitAt (me (ready replied)).trcen 3 = false := ⟨rfl, ⟨by decide, rfl, rfl, rfl⟩, by decide +kernel⟩

/-- A request of the current thread in its die's agent. -/
def outstanding (s : State) : State :=
  modDie s s.cur.die fun d => { d with reqs := [{ request s 5 .g .load [wholeAcc 0 8 0 0] .plain .th .none with stage := .accepted }] }

theorem witness_FencesRangesPhasesSegments : Enabled (ready addressing) on ∧
    (∀ r ∈ (getDie (ready addressing) 0).reqs, r.tid ≠ (ready addressing).cur) ∧ myTransfers (ready addressing) (ready addressing).cur = [] ∧
    (∃ r ∈ (getDie (outstanding (ready addressing)) 0).reqs, r.tid = (ready addressing).cur ∧ isRead r.kind = true) ∧
    Reads (ready (withS [(5, 0x1000), (6, 0x2000)])) false (opsAB (.s 6) (.s 5)) (0x2000, 0x1000) [] ∧ 0x2000 % 4096 = 0 ∧
    Reads (ready (withS [(5, 0x1000), (6, 0x2000)])) false (opsAB (.s 5) (.s 0)) (0x1000, 0) [] ∧
    Reads (ready addressing) false (srcS (.s 5)) 3 [] ∧ heldCount (ready addressing) 0 0 0 = 0 ∧
    phaseDie (ready addressing) 0 0xFFFFFFFF = none ∧ Reads (ready addressing) false (srcS (.s 0)) 0 [] ∧ Reads (ready addressing) false (srcS (.s 21)) 0x7FFC0 [] :=
  ⟨ready_addressing.1, by decide +kernel, by decide +kernel, by decide +kernel, reads_of (by decide +kernel), by decide, reads_of (by decide +kernel),
    reads_of (by decide +kernel), by decide +kernel, by decide +kernel, reads_of (by decide +kernel), reads_of (by decide +kernel)⟩

/-- Vectors in v1 and v2, one element of v4 suppressed under the guard of p1, and a descriptor in s14. -/
def vectors (th : Thread) : Thread := withS [(14, 7)] (withP [(1, 0x7FFF)] (withV [(1, packed 32 [0x80000000, 1, 0xFFFFFFFF]), (2, packed 32 [0xFFFFFFFF, 31])] (busy th)))
/-- The guard ?(p1). -/
def g1 : Guard := ⟨0xF0, 1, 0, 0⟩

theorem ready_vectors : EnabledV (ready vectors) on 32 ∧ EnabledV (ready vectors) g1 32 ∧ elemGuard g1 (me (ready vectors)) 32 15 = false :=
  ⟨⟨rfl, by decide +kernel⟩, ⟨rfl, by decide +kernel⟩, by decide +kernel⟩

theorem witness_IntegerVectors : EnabledV (ready vectors) g1 (tyWidth .i32) ∧ tyW .i32 = true ∧
    (∃ x es, Reads (ready vectors) true (opsV2 g1 (.v 4) (.v 1) 32 0 16 (srcVB .i32 false (.reg (.v 2)))) x es) ∧
    (∃ x es, Reads (ready vectors) true (opsV3 g1 (.v 4) (.v 1) 32 (srcVB .i32 false (.imm 0xFF)) (srcV (.port 0))) x es) ∧
    (∃ x es, Reads (ready vectors) true (opsV1 g1 (.v 1) (.v 1) 32 0 16) x es) ∧
    ∃ x es, Reads (ready vectors) true (opsV2 g1 (.v 4) (.v 1) 32 0 16 (srcVB .i32 true (.reg (.v 2)))) x es :=
  ⟨ready_vectors.2.1, rfl, reads_some (by decide +kernel), reads_some (by decide +kernel), reads_some (by decide +kernel), reads_some (by decide +kernel)⟩

theorem witness_FloatVectors : EnabledV (ready vectors) on (tyWidth .f32) ∧ tyF .f32 = true ∧
    (∃ x es, Reads (ready vectors) true (opsV2 on (.v 4) (.v 1) 32 0 16 (srcVB .f32 false (.reg (.v 2)))) x es) ∧
    (∃ x es, Reads (ready vectors) true (opsV3 on (.v 4) (.v 1) 32 (srcVB .f32 false (.reg (.v 2))) (srcV (.v 3))) x es) ∧
    ∃ x es, Reads (ready vectors) true (opsV1 on (.v 4) (.v 1) 32 0 16) x es :=
  ⟨ready_vectors.1, rfl, reads_some (by decide +kernel), reads_some (by decide +kernel), reads_some (by decide +kernel)⟩

theorem witness_VectorCompare : EnabledV (ready vectors) g1 (tyWidth .f32) ∧ (tyF .f32 = true ∧ Cond.un ∈ ([.eq, .ne, .lt, .ge, .gt, .le, .un] : List Cond)) ∧
    (tyW .i32 = true ∧ Cond.tst ≠ .un) ∧
    ∃ x es, Reads (ready vectors) true (do let x ← srcV (.v 1); let y ← srcVB .f32 false (.imm 0); pure (x, y)) x es :=
  ⟨ready_vectors.2.1, by decide, by decide, reads_some (by decide +kernel)⟩

theorem witness_VectorMoves : EnabledV (ready vectors) on 32 ∧ elemGuard on (me (ready vectors)) 32 15 = true ∧
    (∃ x es, Reads (ready vectors) true (opsV1 on (.v 4) (.v 1) 32 0 16) x es) ∧
    (∃ x es, Reads (ready vectors) true (do let old ← examPart on (.v 4) 32 0 16; let a ← srcS (.s 14); pure (old, a)) x es) ∧
    (∃ x es, Reads (ready vectors) true (do examS (.s 4); srcV (.v 1)) x es) ∧
    (∃ x es, Reads (ready vectors) true (do let old ← examV (.v 4) false; let a ← srcS (.s 14); pure (old, a)) x es) ∧
    ∃ x es, Reads (ready vectors) true (opsV2 on (.v 4) (.v 1) 32 0 16 (srcV (.v 2))) x es :=
  ⟨ready_vectors.1, by decide +kernel, reads_some (by decide +kernel), reads_some (by decide +kernel), reads_some (by decide +kernel),
    reads_some (by decide +kernel), reads_some (by decide +kernel)⟩

theorem witness_VectorConversions : EnabledV (ready vectors) on (tyWidth .f32) ∧ tyM .mxe4m3 = true ∧ tyF .f32 = true ∧
    EnabledV (ready vectors) on (tyWidth .e4m3) ∧
    (∃ x es, Reads (ready vectors) true (opsV1 on (.v 3) (.v 1) 8 32 16) x es) ∧
    (∃ x es, Reads (ready vectors) true (opsV2 on (.v 4) (.v 1) 32 0 16 (srcV (.v 2))) x es) ∧
    (∃ x es, Reads (ready vectors) true (opsV2 on (.v 4) (.v 1) 8 0 16 (srcV (.v 2))) x es) ∧
    (∃ x es, Reads (ready vectors) true (do let old ← examV (.v 4) false; let x ← srcV (.v 1); let y ← srcV (.v 2); pure (old, x, y)) x es) ∧
    ∃ x es, Reads (ready vectors) true (do let old ← examPart on (.v 4) 32 0 16; let a ← srcS (.s 14); pure (old, a)) x es :=
  ⟨ready_vectors.1, rfl, rfl, ⟨rfl, by decide +kernel⟩, reads_some (by decide +kernel), reads_some (by decide +kernel), reads_some (by decide +kernel),
    reads_some (by decide +kernel), reads_some (by decide +kernel)⟩

/-- Descriptor 7 is AFFINE, the last operator of one element is 6, and 9 is unassigned. -/
theorem witness_ReductionsAndScans : EnabledV (ready vectors) g1 (tyWidth .f32) ∧
    (∃ x es, Reads (ready vectors) true (do let _ ← examV (.v 4) true; srcV (.v 1)) x es) ∧
    (∃ x es, Reads (ready vectors) true (do let i ← scanItem (.v 1) (.s 14); let old ← examItems g1 (.v 4) 32 i; let x ← srcV (.v 1); let d ← srcS (.s 14); pure (old, x, d)) x es) ∧
    bitsAt (7 : Word) 0 4 = 7 ∧ 8 < bitsAt (9 : Word) 0 4 :=
  ⟨ready_vectors.2.1, reads_some (by decide +kernel), reads_some (by decide +kernel), by decide, by decide⟩

/-- A B record at 0x40 and an A record at 0x80 of 32 FP16 each, and a thread that names them. -/
def matrices (th : Thread) : Thread := { withS [(16, 0x40), (17, 0x80), (12, 0x20), (13, 0x21)] (busy th) with tx := th.tx.set 0 (some 70) }
def withMatrices (s : State) : State :=
  modCore (wired s) (tidKey s.cur) fun c => { c with
    tcm := [(0x40, 0x1000), (0x48, 1), (0x50, 32 + 2 ^ 16 + 2 ^ 32 + 2 ^ 48), (0x58, 2),
      (0x80, 0x2000), (0x88, 1), (0x90, 32 + 2 ^ 16 + 2 ^ 32 + 2 ^ 48), (0x98, 2)].foldl (fun m x => mPut m x.1 8 x.2) c.tcm
    banks := c.banks.set 0 ⟨true, 1, 32, 1, 1⟩ }

theorem passes_empty {s : State} {v : Bool} {k : GateKind} (h : (getCore s (tidKey s.cur)).gate = []) (o : gateOpen (getCore s (tidKey s.cur)) k = true) :
    GatePasses s v k := .inr ⟨by simp [h], o⟩

theorem witness_MatrixCommandsIssue : let s := withMatrices (ready matrices)
    Enabled s on ∧ Quiet s ∧ (readsTo s true (srcS (.s 16))) = some (0x40, []) ∧ GatePasses s true .plain ∧ GatePasses s true .mma ∧ (∀ x ∈ (getCore s (tidKey s.cur)).mq, x.hold ≠ some s.cur.slot) ∧ OwnsOrFree s .pair ∧
    (∃ r, mldbCheck (getCore s 0) 0 1 0x40 = .ok r) ∧ (∃ r, mmaCheck (getCore s 0) 0 .a0 1 0x80 = .ok r) ∧ (tileOfBanks (getCore s 0) 1).isSome = true ∧
    bitsAt (0x21 : Word) 0 6 ≠ 0 := by
  refine ⟨⟨rfl, by decide +kernel⟩, ⟨by decide, rfl, rfl, rfl⟩, by decide +kernel, passes_empty (by decide +kernel) (by decide +kernel), passes_empty (by decide +kernel) (by decide +kernel), by decide +kernel, ?_, ⟨_, rfl⟩, ⟨_, rfl⟩,
    by decide +kernel, by decide⟩
  intro i _ o h
  have e : ∀ i, ownerOf (getCore (withMatrices (ready matrices)) 0) i = none := by
    intro i
    rcases i with _ | _ | i <;> rfl
  exact absurd ((e i).symm.trans h) (by simp)

/-- A tile that slot 1 owns, and the command block of an `mcmd` at 0x20. -/
theorem witness_MatrixCommandsRefused : let s := modCore (ready matrices) 0 fun c => { c with owner := c.owner.set 0 (some 1) }
    ¬ OwnsOrFree s .a0 ∧ liveCirc (ready matrices) (getTx (me (ready matrices)) 0) = none ∧
    let s := withMatrices (ready matrices)
    (liveCirc s (getTx (me s) 0) = some 70 ∧ (0x20 : Word).toNat % 32 = 0 ∧ waitingBeats s 70 (.tx s.cur 0) < 8 ∧
      cmdBlockOk (mPut (getCore s 0).tcm 0x20 8 2) 0x20 = true ∧
      readsTo s false (opsDAB (.s 4) (.s 12) (.reg (.s 6))) = some ((0x20, 4), [])) := by
  refine ⟨?_, by decide +kernel⟩
  intro h
  exact absurd (h 0 (by decide) 1 (by decide +kernel)) (by decide)

theorem witness_AccumulatorsAndOwnership : EnabledV (ready vectors) g1 32 ∧ (getCore (ready vectors) 0).mq = [] ∧
    (∃ x es, Reads (ready vectors) true (do let old ← examPart g1 (.v 4) 32 0 16; let r ← srcS (.s 14); pure (old, r)) x es) ∧
    (∃ x es, Reads (ready vectors) true (do let r ← srcS (.s 14); let v ← srcV (.v 1); pure (r, v)) x es) ∧
    (15 : BitVec 8).toNat < 16 ∧ (127 : Word).toNat ≤ 127 ∧ 127 < (128 : Word).toNat ∧ Enabled (ready vectors) on ∧ Quiet (ready vectors) :=
  ⟨ready_vectors.2.1, by decide +kernel, reads_some (by decide +kernel), reads_some (by decide +kernel), by decide, by decide, by decide,
    ⟨rfl, by decide +kernel⟩, ⟨by decide, rfl, rfl, rfl⟩⟩

/-- Handles, a ring of one beat at the top of TCM, a window block and a stream record. -/
theorem witness_PortsWindowsStreams : let s := wired (ready sending)
    Enabled s on ∧ Quiet s ∧ (∃ x es, Reads s false (do examPort 0 32; srcX (.vec (.v 1))) x es) ∧ (∃ x es, Reads s false (do examPort 0 32; srcS (.s 5)) x es) ∧
    getFeS (me s) 31 ≠ .pending ∧ getFeV (me s) 15 ≠ .pending ∧ (7 : BitVec 3).toNat % 4 = 3 ∧ getTx (me s) 3 = none ∧ (getRx (me s) 3).circ = none ∧
    ringOk (word (0x7FFC0 + 2 ^ 20)) = true ∧ waitingBeats s 70 (.tx s.cur 0) = 0 ∧ (0x7FFE0 : Word).toNat % 32 = 0 ∧
    (readsTo (withRecord (ready addressing)) false (do examS (.s 28); let a ← srcS (.s 24); evRec a)).isSome = true :=
  ⟨⟨rfl, by decide +kernel⟩, ⟨by decide, rfl, rfl, rfl⟩, reads_some (by decide +kernel), reads_some (by decide +kernel), by decide +kernel⟩

/-- Two records of 16 elements of FP32 in TCM, source and destination. -/
def withCopies (s : State) : State :=
  modCore s (tidKey s.cur) fun c => { c with
    tcm := [(0x40, 0x1000), (0x50, 16 + 2 ^ 16 + 2 ^ 32 + 2 ^ 48), (0x58, 4),
      (0x80, 0x2000), (0x90, 16 + 2 ^ 16 + 2 ^ 32 + 2 ^ 48), (0x98, 4)].foldl (fun m x => mPut m x.1 8 x.2) c.tcm }

theorem witness_CopyEngine : let s := withCopies (ready matrices)
    let rd : Ev (Word × Word × Rec × Rec) := do
      examS (.s 4)
      let d ← srcS (.s 17)
      let a ← srcS (.s 16)
      let src ← evRec a
      let dst ← evRec d
      pure (d, a, src, dst)
    Enabled s on ∧ Quiet s ∧ (readsTo s false rd).map (fun x => decide (bitsAt x.1.1 62 2 = 0 ∧ bitsAt x.1.2.1 62 2 = 0 ∧ rConv x.1.2.2.2 = false ∧
      elemCount x.1.2.2.2 0 = elemCount x.1.2.2.1 0 ∧ misalignedElem x.1.2.2.1 0 = none ∧ outsideElem x.1.2.2.1 0 = none ∧ outsideScale x.1.2.2.1 0 = none ∧
      misalignedElem x.1.2.2.2 0 = none ∧ outsideElem x.1.2.2.2 0 = none ∧ recTagen x.1.2.2.1 = false ∧
      xferBits (elemCount x.1.2.2.1 0) (rWidth x.1.2.2.2) ≤ 8 * 65536 ∧ rType x.1.2.2.2 = 0)) = some true ∧
    (getChan s 0 7).q.length < 16 ∧ (getChan s 0 7).last < (1 : Word).toNat ∧ (0 : Word).toNat ≤ (getChan s 0 7).done :=
  ⟨⟨rfl, by decide +kernel⟩, ⟨by decide, rfl, rfl, rfl⟩, by decide +kernel, by decide +kernel, by decide +kernel, by decide +kernel⟩

/-- A context 0 with tower 0, room for four queued tasks there, and region 0 under its block. -/
def tenant (s : State) : State :=
  modCtx s 0 fun c => { c with
    installed := true, blk := ((c.blk.set 10 1).set 2 (4 * 2 ^ 48)).set 0 1, regions := [(0, (Vector.replicate 32 0).set 1 0xFF)] }

/-- A thread with a spawn descriptor in TCM at 0x7FFE0, the last aligned address. -/
def spawning (s : State) : State := tenant s

theorem witness_TasksAndLaunches : let s := spawning (ready (withS [(20, 0x7FFE0), (21, 0x1000), (22, 0x21)]))
    Enabled s on ∧ Quiet s ∧ Reads s false (opsDAB (.s 4) (.s 20) (.reg (.s 0))) (0x7FFE0, 0) [] ∧ Reads s false (opsDAB (.s 4) (.s 22) (.reg (.s 0))) (0x21, 0) [] ∧
    (0x7FFE0 : Word).toNat % 32 = 0 ∧ bitsAt (mWord (getCore s 0).tcm (0x7FFE0 + 24)) 7 57 = 0 ∧ codeAddrOk (mWord (getCore s 0).tcm 0x7FFE0) = true ∧
    ctxTower s (me s).ctx 0 = true ∧ queueRoom s (me s).ctx (me s).region 0 = true ∧
    Reads s false (opsDA (.s 4) (.s 21)) 0x1000 [] ∧ (0x1000 : Word).toNat % 64 = 0 ∧ (0x21 : Word).toNat % 64 ≠ 0 ∧
    ∀ q ∈ (getDie s 0).reqs, isWrite q.kind = true → q.tid ≠ s.cur ∧ isAccepted q = false :=
  ⟨⟨rfl, by decide +kernel⟩, ⟨by decide, rfl, rfl, rfl⟩, reads_of (by decide +kernel), reads_of (by decide +kernel), by decide, by decide +kernel,
    by decide +kernel, by decide +kernel, by decide +kernel, reads_of (by decide +kernel), by decide, by decide, by decide +kernel⟩

/-- A thread that waits at `lnch` with its block: one task in region 0; and with a block of zeros but for a reserved bit. -/
def launching (s4 : Bool) (th : Thread) : Thread :=
  { th with
    run := .parked
    inflight := some ⟨[.key 6 7], [.launch 0x1000 7 (.s 31)], [(7, some (natBytes 128 (if s4 then 2 ^ 67 else 1 + 2 ^ 32 + 2 ^ 48)))]⟩ }

theorem witness_LaunchCreated : let s := tenant (ready (launching false))
    s.arg.t = s.cur ∧ Quiet s ∧ (me s).run = .parked ∧ (me s).failed = none ∧ (me s).park = none ∧ streamS (me s) 31 = none ∧ bitAt (me s).trcen 3 = false ∧
    launchFault s 0 0 true 0x1000 (launchBlock (natBytes 128 (1 + 2 ^ 32 + 2 ^ 48))) = none ∧
    (launchFault s 0 0 true 0x1000 (launchBlock (natBytes 128 (2 ^ 67)))).isSome = true := ⟨rfl, ⟨by decide, rfl, rfl, rfl⟩, by decide +kernel⟩

/-- A member of a formed gang, at and past its `gang` bundle; a thread detached from it; S, H and U senders. -/
theorem witness_GangsAndSystem : (ready id).cur.slot < 8 ∧ (me (ready id)).gang = none ∧
    (me (ready fun th => { th with gang := some ⟨1, true, true, 0⟩ })).gang = some ⟨1, true, true, 0⟩ ∧
    (me (ready fun th => { th with gang := some ⟨1, false, false, 0⟩ })).gang = some ⟨1, false, false, 0⟩ ∧
    gangLeader ⟨0, 1, 0⟩ 1 ≠ ⟨0, 1, 0⟩ ∧ gangLeader Tid.zero 1 = Tid.zero ∧
    (let s := ready fun th => withS [(5, 0)] { th with status := 1 };
      bitsAt (me s).status 0 2 = 1 ∧ Reads s false (srcS (.s 5)) 0 [] ∧ bitsAt (0 : Word) 18 6 = s.modNo ∧ tidOf 0 = some Tid.zero ∧
      hasThread (getThread s Tid.zero) = true ∧ (getThread s Tid.zero).ctx = (me s).ctx ∧ (getThread s ⟨0, 0, 1⟩).ctx = 0) ∧
    Reads (ready (withS [(5, 64), (6, 63)])) false (opsAB (.s 0) (.s 5)) (0, 64) [] ∧ Reads (ready (withS [(5, 64), (6, 63)])) false (opsAB (.s 0) (.s 6)) (0, 63) [] :=
  ⟨by decide, rfl, by decide +kernel, by decide +kernel, by decide +kernel, by decide +kernel,
    ⟨by decide +kernel, reads_of (by decide +kernel), by decide +kernel, by decide +kernel, by decide +kernel, by decide +kernel, by decide +kernel⟩,
    reads_of (by decide +kernel), reads_of (by decide +kernel)⟩

/-- Channel 3 held by the current thread's launch, with members at cores 0 and 1. -/
def spired (l : List SpireMember) (s : State) : State :=
  setSpire s 3 { getSpire s 3 with holder := some (0, 0), members := l }
def member (pos : Nat) (c : List SpireContrib) : SpireMember := ⟨pos, ⟨0, pos, 0⟩, none, 0, c⟩

theorem witness_SpireInstructions : let s := spired [member 0 [], member 1 []] (ready vectors)
    let full := spired [member 0 [], member 1 [⟨⟨0, 1, 0⟩, 0, 0, 5, 0, 9⟩]] (ready vectors)
    let empty := spired [] (ready (withS [(5, 1), (6, 0x10000)]))
    let mine (m : SpireMember) : Prop := m.pos = 64 * s.cur.die + s.cur.core ∧ m.gone = none
    Enabled s on ∧ s.cur.slot < 8 ∧ (getSpire s 3).holder = some ((me s).ctx, (me s).launch) ∧ (getSpire s 3).failing = none ∧
    (∀ q ∈ (getDie s s.cur.die).reqs, isWrite q.kind = true → q.tid ≠ s.cur ∧ isAccepted q = false) ∧
    (∃ m ∈ (getSpire s 3).members, mine m) ∧ (∀ m ∈ (getSpire full 3).members, m.gone = none) ∧
    (∀ m ∈ (getSpire full 3).members, mine m → m.contribs = []) ∧
    (∀ m ∈ (getSpire full 3).members, ∀ x ∈ m.contribs, x.t = s.cur → x.key ≠ 0) ∧ (getSpire full 3).results = [] ∧
    (∃ m ∈ (getSpire s 3).members, ¬ mine m ∧ m.contribs = []) ∧ (∀ m ∈ (getSpire full 3).members, mine m ∨ m.contribs ≠ []) ∧
    (∀ m ∈ (getSpire full 3).members, ∀ x, m.contribs.head? = some x → x.op = 0 ∧ bitsAt x.d 0 12 = bitsAt (0 : Word) 0 12) ∧
    (∃ x es, Reads s true (do let _ ← examV (.v 4) true; let v ← srcV (.v 1); let d ← srcS (.s 0); pure (v, d)) x es) ∧
    spDescOk true 0 = true ∧ spDescOk false 0 = true ∧ spDescOk false 15 = false ∧ (0 : Word).toNat < (getSpire s 3).members.length ∧
    (getSpire s 3).members.length ≤ (2 : Word).toNat ∧ (getSpire empty 3).members = [] ∧ (getSpire empty 3).joins.length < bitsAt (1 : Word) 0 14 ∧
    spJoinOk 1 = true ∧ spJoinOk 0x10000 = true ∧ Quiet empty ∧
    Reads empty true (srcS (.s 5)) 1 [] ∧ (getSpire (ready id) 3).holder ≠ some ((me (ready id)).ctx, (me (ready id)).launch) := by
  refine ⟨⟨rfl, ?_⟩, ?_, ?_, ?_, ?_, ?_, ?_, ?_,
    ?_, ?_, ?_, ?_, ?_, reads_some ?_, ?_, ?_, ?_,
    ?_, ?_, ?_, ?_, ?_, ?_, ⟨?_, rfl, rfl, rfl⟩,
    reads_of ?_, ?_⟩ <;> decide +kernel

/-- At the first wheel count of a delivery and at the one before it, for a join, a result, a fault of one thread and the fault of a group. -/
theorem witness_SpireDeliveries :
    let at_ (w : Nat) (c : SpireChan) : State := { setSpire (ready replied) 3 c with arg := { EvArg.none with i := 3 }, wheel := w }
    let c := getSpire State.reset 3
    let s := at_ 321 { c with joins := [⟨0, Tid.zero, 7, 1, 1⟩] }
    let r := at_ 321 { c with results := [⟨319, Tid.zero, 7, none, 5⟩] }
    let f := at_ 321 { c with results := [⟨319, Tid.zero, 7, some 2, 0⟩] }
    let d := at_ 321 { c with members := [member 0 [⟨Tid.zero, 2, 0, 0, 1, 7⟩]], failing := some (319, 6) }
    (getSpire s 3).joins.length = 1 ∧ (∀ x ∈ (getSpire s 3).joins, x.t.slot < 8 ∧ x.key ≠ 0) ∧
    (∀ x ∈ (getSpire s 3).joins, x.e + 318 + 2 ≤ s.wheel) ∧ (∃ x ∈ (getSpire s 3).joins, 320 < x.e + 318 + 2) ∧
    (getSpire r 3).results = [⟨319, Tid.zero, 7, none, 5⟩] ∧ 319 + 2 ≤ r.wheel ∧ 320 < 319 + 2 ∧ (getThread r Tid.zero).inflight.isSome = true ∧
    (getSpire f 3).results = [⟨319, Tid.zero, 7, some 2, 0⟩] ∧ (getSpire f 3).failing = none ∧
    waitsSpire 3 [7] (getThread f Tid.zero) = false ∧
    (getSpire d 3).failing = some (319, 6) ∧ (getSpire d 3).results = [] ∧ (getSpire d 3).members.length = 1 := by decide +kernel

theorem witness_LanternBellViews : let s : State := { modLantern (ready id) 0 fun l => { l with code := [0, 0], lanblk := 0x8000000000000000, agent := some Tid.zero } with
      lanRun := some ⟨0, [], 0, Vector.replicate 16 0⟩ }
    let t : State := modCore { s with lanRun := none } 0 fun c => { c with trace := [[0, 0, 0, 0]] }
    s.lanRun = some ⟨0, [], 0, Vector.replicate 16 0⟩ ∧ (15 : BitVec 18).toNat < 16 ∧ (getLantern s 0).agent = some Tid.zero ∧
    hasThread (getThread s Tid.zero) = true ∧ tidOf (word (bitsAt (([] : List Word).headD 0) 0 18)) = some Tid.zero ∧
    (getThread s Tid.zero).run = .running ∧ (getThread s Tid.zero).ctx = recordCtx [] ∧ lanEn (getLantern t 0) = true ∧
    lanternCore t 0 = some 0 ∧ bitAt s.bell 63 = false ∧ s.wheel / s.W + 64 < 2 ^ 40 ∧ fnPresent s 0 0 = true ∧ (getFunc s (funcKey 0 0)).owed = none ∧ fnPresent s 2 0 = false := by decide +kernel

/-- H source 1 pending and enabled in U; S source 7, the last, in U; a park on a register that is Full by now; a timed park at its bound. -/
def pendingH (th : Thread) : Thread := { th with hstatus := 0x2020000 }
def pendingS (th : Thread) : Thread := { th with status := 0x80800000 }
theorem witness_ThreadEvents :
    (let th := getThread (ready pendingH) Tid.zero;
      th.dbg.stopReq = none ∧ th.dbg.stepping = false ∧ th.run = .running ∧ bitsAt th.status 0 2 < 3 ∧
        (bitsAt th.hstatus 16 8 &&& bitsAt th.hstatus 24 8).testBit 1 = true ∧ (bitsAt th.hstatus 16 8 &&& bitsAt th.hstatus 24 8).testBit 0 = false) ∧
    (let th := getThread (ready pendingS) Tid.zero;
      bitsAt th.hstatus 16 8 &&& bitsAt th.hstatus 24 8 = 0 ∧ bitsAt th.status 0 2 = 0 ∧
        (bitsAt th.status 16 8 &&& bitsAt th.status 24 8).testBit 7 = true ∧ ∀ j < 7, (bitsAt th.status 16 8 &&& bitsAt th.status 24 8).testBit j = false) ∧
    (let th := getThread (ready fun th => { th with run := .parked, park := some ⟨0, 31, .sFilled 31, false, 5, false⟩, felimit := 5 }) Tid.zero;
      th.run = .parked ∧ th.failed = none ∧ th.inflight = none ∧ th.park = some ⟨0, 31, .sFilled 31, false, 5, false⟩ ∧ getFeS th 31 = .full ∧
        th.felimit ≠ 0 ∧ th.felimit.toNat ≤ 5) ∧
    (let s := ready fun th => { th with run := .parked, inflight := some ⟨[.drain], [], []⟩ };
      (getThread s Tid.zero).inflight = some ⟨[.drain], [], []⟩ ∧ drained s Tid.zero = true) ∧
    (let c := getCore (modCore (ready id) 0 fun c => { c with dutyNext := some 1, gate := [⟨some 0, 3, .heavy, false, false⟩] }) 0;
      c.dutyNext = some 1 ∧ c.rot % 16 = 0 ∧ gateHead c = some ⟨some 0, 3, .heavy, false, false⟩ ∧ gateOpen c .heavy = true ∧ coreFrozen (ready id) c = false) ∧
    hasThread (getThread (ready id) Tid.zero) = true ∧ rotOpen (getCore (ready id) 0) = true ∧
    rotOpen (getCore (modCore (ready id) 0 fun c => { c with duty := 1, rot := 1 }) 0) = false ∧
    (let s := ready fun th => { th with dbgsel := 0, dbgidx := 8 * 59, status := 3, run := .stopped };
      (dbgTarget s (getThread s Tid.zero)).isSome = true ∧ bitsAt (getThread s Tid.zero).dbgidx 3 8 = 32 + 27 ∧ getFeS (getThread s Tid.zero) 27 = .full) := by
  decide +kernel

theorem witness_GangForm : let s := [⟨0, 0, 0⟩, ⟨0, 1, 0⟩].foldl (fun s u => setThread s u { readyThread Thread.reset with
      run := .parked, park := some ⟨14, 1, .gangForm 1, false, 0, false⟩ }) (ready id)
    gangWait (getThread s Tid.zero) = some 1 ∧ ∀ m ∈ gangMembers Tid.zero 1, gangWait (getThread s m) = some 1 ∧ hasThread (getThread s m) = true ∧
      (getThread s m).ctx = 0 ∧ (getThread s m).task = 0 := by decide +kernel

/-- A matrix command of the current core: one element at 0x1000 in TCM. -/
def command (k : MKind) (e : Option Nat) : MCmd :=
  ⟨k, .a0, 1, { Rec.zero with w0 := 0x1000, w2 := 1 + 2 ^ 16 + 2 ^ 32 + 2 ^ 48, w3 := 4 }, 1, 1, 1, 0, 0, 0, 0, 0, 4, e, 0, 0, 0, 0, none⟩

/-- The current core with a gate request at the head, and with commands queued. -/
def gated (g : GateReq) (s : State) : State := modCore s 0 fun c => { c with gate := [g], remote := [{ command .mma none with id := 3 }] }
def queued (l : List MCmd) (ok : Bool) (s : State) : State :=
  { modCore s 0 fun c => { c with mq := l } with arg := { s.arg with ok := ok } }

theorem witness_MatrixUnitRuns :
    (let s := gated ⟨some 2, 0, .plain, false, false⟩ (ready id)
      let c := getCore s (coreKey s.arg.die s.arg.unit)
      gateHead c = some ⟨some 2, 0, .plain, false, false⟩ ∧ gateOpen c .plain = true ∧ coreFrozen s c = false) ∧
    (let s := gated ⟨none, 3, .mma, false, false⟩ (ready id)
      let c := getCore s (coreKey s.arg.die s.arg.unit)
      gateHead c = some ⟨none, 3, .mma, false, false⟩ ∧ gateOpen c .mma = true ∧ coreFrozen s c = false ∧
        (c.remote.find? fun m => m.id == 3) = some { command .mma none with id := 3 }) ∧
    (∀ k ∈ [MKind.mldb, .mma, .vacczr],
      let s := queued [command k none] (decide (k = .mldb)) (ready id)
      (getCore s (coreKey s.arg.die s.arg.unit)).mq = [] ++ command k none :: [] ∧ (command k none).ends = none ∧
        s.arg.ok = decide ((command k none).kind = .mldb)) ∧
    (∀ k ∈ [MKind.mldb, .mma, .vacczr],
      let s := queued [command k (some 0)] (decide (k = .mldb)) (ready id)
      let c := getCore s (coreKey s.arg.die s.arg.unit)
      let m := command k (some 0)
      c.mq = [] ++ m :: [] ∧ m.ends = some 0 ∧ 0 ≤ s.wheel ∧ m.creg = 0 ∧ s.arg.ok = decide (m.kind = .mldb) ∧ m.m ≤ 128 ∧ m.n ≤ 128 ∧
        aElem c m 0 0 = [(0, 0)][0]? ∧ (∃ i0 row, elemAt m.rcd m.rank 0 = .at_ ⟨0x1000, 0⟩ i0 row) ∧
        bElemBytes m.k m.n (rWidth m.rcd) ≤ 65536 * ((List.range 4).filter fun j => bitAt m.bm j).length) := by
  refine ⟨by decide +kernel, by decide +kernel, by decide +kernel, ?_⟩
  intro k hk
  fin_cases hk <;> exact ⟨by decide +kernel, rfl, by decide, rfl, rfl, by decide, by decide, by decide +kernel, ⟨0, 0, by decide +kernel⟩, by decide +kernel⟩

/-- Context 0 with eight blocks of `.d` from 0, domes {0} with one window of 1 GiB, and tables that map every VA below 1 GiB to itself:
the hypervisor's at CPA 0, region 0's guest tables at GPA 0x2000, a publish table at 0x4000 that names 0x10000 and its shadow 0x20000. -/
def mapped (s : State) : State :=
  let s := modCtx s 0 fun c => { c with
    installed := true
    blk := (((((c.blk.set 6 (8 * 2 ^ 16)).set 7 0x4000).set 10 1).set 13 1).set 16 (2 ^ 50)).set 17 (2 ^ 30)
    regions := [(0, (Vector.replicate 32 0).set 4 0x2000)] }
  modDome s 0 fun d => { d with
    mem := [(0, 0x1001), (0x1000, 0x1F), (0x2000, 0x3001), (0x3000, 0x3F), (0x4000, 0x10000), (0x4008, 0x2000), (0x4010, 0x20000)].foldl
      (fun m (p : Nat × Nat) => mPut m p.1 8 p.2) [] }

/-- A landing of one bundle in segment 1, and waits for a decision from an open circuit and from a closed one. -/
def landing (s : State) : State :=
  { modCore s 0 fun c => { c with landings := [⟨1, natBytes 64 (1 + 2 ^ 127), ⟨.d, 0, 0, 0, 0x7FFB0⟩, Tid.zero, false⟩] } with arg := { s.arg with i := 1 } }
def deciding (circ : Nat) (s : State) : State :=
  setThread s Tid.zero { getThread s Tid.zero with mwait := some ⟨0, 0, 0x40, 3, circ, some 0⟩ }

/-- Statement MatrixUnitRuns, its landings. -/
theorem witness_SegmentLanded : let s := landing (mapped (ready id))
    let c := getCore s 0
    let l : Landing := ⟨1, natBytes 64 (1 + 2 ^ 127), ⟨.d, 0, 0, 0, 0x7FFB0⟩, Tid.zero, false⟩
    (c.landings.find? fun l => l.seg == s.arg.i) = some l ∧ c.quarantined = false ∧ l.poisoned = false ∧ hdrValid l.hdr = true ∧ hdrFen l.hdr = true ∧
    framesUsed c + ceilDiv (hdrLen l.hdr) 64 ≤ Config.storeFrames ∧ (readBundles s 0 l.src 0 (hdrLen l.hdr)).2.toOption = some [0] := by decide +kernel

/-- Statement MatrixUnitRuns, its waits for a decision. -/
theorem witness_McmdTimeout : let s := { deciding 70 (wired (ready id)) with wheel := 16 * State.reset.W }
    let t := { deciding 71 (ready id) with wheel := 16 * State.reset.W - 1 }
    circOpen (getCircuit s 70) s.wheel = true ∧ 0 / s.W + 16 ≤ s.wheel / s.W ∧ circOpen (getCircuit t 71) t.wheel = false ∧
    t.wheel / t.W < 0 / t.W + 16 ∧ (getThread s s.arg.t).mwait = some ⟨0, 0, 0x40, 3, 70, some 0⟩ ∧
    (getThread t t.arg.t).mwait = some ⟨0, 0, 0x40, 3, 71, some 0⟩ := by decide +kernel

/-- A request of the current thread, numbered 5, as the only one of its die. -/
def asked (kind : ReqKind) (space : Space) (accs : List Acc) (dest : Dest) (f : Req → Req) (s : State) : State :=
  { modDie s 0 fun d => { d with reqs := [f (request s 5 space kind accs .plain .th dest)] } with arg := { s.arg with i := 5 } }

def theReq (s : State) : Req := (getDie s 0).reqs.headD (request s 0 .d .load [] .plain .th .none)

/-- A translation-cache entry of 1 GiB from 0 for region 0 in U. -/
def cached (e : TlbEntry → TlbEntry) (s : State) : State :=
  modDie s 0 fun d => { d with tlb := [e ⟨0, 0, false, 0, 2 ^ 30, 0, 0, 0, 2 ^ 30, 0, 2 ^ 30, 0, true, true, false, true, true, true, true⟩] }

def sealed (s : State) : State := { s with seals := [⟨0, none, 0x1000, 0x1000, 0, none, none, none⟩, ⟨0, some 0, 0, 0x1000, 0, none, none, none⟩] }

/-- A request of the current thread that the agent may accept: in `.d` at the last byte granted, and in `.g`; refused past the grant, in a
sealed range of either space, past 2^48, without permission, without a home and, where the first dome of the mask is none, without domes. -/
theorem witness_RequestsAccepted :
    (let s := asked .load .d [wholeAcc 0x7FFF8 8 0 0] .none id (mapped (ready id));
      mayAccept s 0 (theReq s) = true ∧ sramAddr s 0 0x7FFF8 8 = some 0x7FFF8 ∧ sramAddr s 0 0x7FFF9 8 = none ∧ (theReq s).brk = none ∧
        (theReq s).who = .thread) ∧
    (let s := asked .load .d [wholeAcc 0x7FFF8 8 0 0] .none (fun r => { r with brk := some 0x7FFF8 }) (mapped (ready id));
      mayAccept s 0 (theReq s) = true ∧ (theReq s).brk = some 0x7FFF8) ∧
    (let s := sealed (cached id (asked .store .g [wholeAcc 0x2000 8 0 0] .none id (mapped (ready id))));
      mayAccept s 0 (theReq s) = true ∧ domeMask s 0 ≠ [] ∧ domeMask (ready id) 0 = [] ∧
        (∃ e, tlbFind (getDie s 0) 0 0 0 0x2000 = some e ∧ permFault e 0 .w 0x2000 = none ∧
          reqPlace s 0 (theReq s) e.mod (e.cpa + (0x2000 - e.va)) = (0, 0x2000)) ∧
        homeOf s 0 0 0x2000 ≠ .none ∧ sealedAt s 0 none (sealBase 0 0x2000) 8 s.wheel = false ∧ sealedAt s 0 none (sealBase 0 0x1FF8) 8 s.wheel = true ∧
        sealedAt s 0 (some 0) 0xFF8 8 s.wheel = true ∧ homeOf s 0 0 0x40000000 = .none ∧ tlbFind (getDie s 0) 0 0 0 0x40000000 = none) ∧
    (∃ e, tlbFind (getDie (cached (fun e => { e with w := false }) (ready id)) 0) 0 0 0 0x2000 = some e ∧ permFault e 0 .w 0x2000 = some 0x2000) ∧
    (let s := asked .load .g [wholeAcc 0x2000 8 0 0] .none id (mapped (ready id));
      mayAccept s 0 (theReq s) = true ∧ tlbFind (getDie s 0) 0 0 0 0x2000 = none ∧ walkersBusy (getDie s 0) < 64 ∧ walkShared (getDie s 0) (theReq s) 0x2000 = false) ∧
    (∀ n ∈ [0, 7], let s := asked .load .g [wholeAcc 0x2000 8 0 0] .none (fun r => { r with stage := .walking 0x2000 n (.reply 0) [] }) (mapped (ready id))
      (WalkRead.reply 0).endsBy s.wheel = true ∧
        (match (walkVa s (getDie s 0) 0 0 0 0x2000 { Walk.start (n + 1) [] with lost := none }).1 with
        | .ok _ => 1
        | .fault _ _ => 2
        | .need _ => 3) = if n = 7 then 1 else 3) ∧
    (let s := asked .load .g [wholeAcc 0x40000000 8 0 0] .none (fun r => { r with stage := .walking 0x40000000 7 (.reply 0) [] }) (mapped (ready id));
      (walkVa s (getDie s 0) 0 0 0 0x40000000 { Walk.start 8 [] with lost := none }).1 = .fault 5 0x40000000) := by
  refine ⟨by decide +kernel, by decide +kernel, ⟨by decide +kernel, by decide +kernel, by decide +kernel, ⟨_, rfl, by decide +kernel, by decide +kernel⟩, by decide +kernel⟩,
    ⟨_, rfl, by decide +kernel⟩, by decide +kernel, by decide +kernel, by decide +kernel⟩


/-- A load of `.d` and its store, queued at the die SRAM or accepted in `.g` for dome 0, at stage accepted. -/
def acceptedAt (h : Home) (q : Bool) (r : Req) : Req :=
  { r with stage := .accepted, accs := r.accs.map fun x => { x with home := h, queued := q, cpa := x.va } }

/-- Memory circuits of context 0 between tower 0 and dome 0, one each way. -/
def circuited (s : State) : State :=
  let c : Circuit := { Circuit.none with closed := none, slots := [3], mem := some (0, 0), hd := 2 }
  setCircuit (setCircuit s 80 c) 81 { c with src := 1 }

theorem witness_RequestsPerformed :
    (∀ k ∈ [ReqKind.load, .store, .amo .add],
      let s := asked k .d [wholeAcc 0x7FFF8 8 0 3] .none (acceptedAt (.sram 0x7FFF8) true) (ready id)
      sramReady (getDie s 0) = [theReq s] ∧ sramPos (getDie s 0) (theReq s) / 8 ≤ s.wheel ∧ (∀ q ∈ (getDie s 0).reqs, q = theReq s) ∧ (theReq s).who = .thread ∧ (∀ x ∈ (theReq s).accs, x.done = false ∧ x.bit + x.w ≤ 8 * x.len ∧ x.home = .sram 0x7FFF8) ∧
        homePoison s 0 (.sram 0x7FFF8) 8 = false) ∧
    (let s := circuited (asked .load .g [wholeAcc 0x2000 8 0 0] (.sreg 31 true) (acceptedAt (.dome 0 0x2000) false) (mapped (ready id)));
      findReq (getDie s 0) 5 = some (theReq s) ∧ loadTurn (getDie s 0) (theReq s) = true ∧ holders (getDie s 0) (theReq s) = [] ∧
        memCirc s 0 0 0 0 = some 80 ∧ memCirc s 0 0 0 1 = some 81 ∧ injectTime s (getCircuit s 80) s.wheel = some 3 ∧
        awaitsSeal s 0 (theReq s) = false ∧ sendsBefore (getDie s 0) (theReq s) 0 = false ∧ lostAt (getCircuit s 80) 3 = none ∧
        (∀ x ∈ (theReq s).accs, x.queued = false ∧ x.done = false ∧ sealedAt s 0 none (sealBase x.mod x.cpa) x.len s.wheel = false ∧
          sealedAt (sealed s) 0 none (sealBase 0 0x1000) x.len s.wheel = true)) ∧
    (let s := sealed (asked .load .g [wholeAcc 0x1FF8 8 0 0] .none (acceptedAt (.dome 0 0x1FF8) false) (modDie (ready id) 0 fun d => { d with
        replicas := [(0, 0x1FC0, 0, natBytes 64 7)] }));
      sealedAt s 0 none (sealBase 0 0x1FF8) 8 s.wheel = true ∧ replicaOf (getDie s 0) 0 0 0x1FF8 = some (natBytes 64 7) ∧ awaitsSeal s 0 (theReq s) = false) ∧
    (let s := asked .load .d [wholeAcc 0x1000 8 0 0] .none (acceptedAt (.sram 0x1000) false) (ready id);
      let w (a : Nat) : Req := { acceptedAt (.sram a) true (request s 3 .d .store [wholeAcc a 8 0 9] .plain .th .none) with tid := ⟨0, 0, 1⟩ }
      let d (a : Nat) : Die := { getDie s 0 with reqs := w a :: (getDie s 0).reqs }
      loadTurn (d 0x1000) (theReq s) = true ∧ awaitsSeal s 0 (theReq s) = false ∧ holders (d 0x1000) (theReq s) = [w 0x1000] ∧ givesNone (w 0x1000) = false ∧
        (∀ j < 8, (heldByte (holders (d 0x1000) (theReq s)) (wholeAcc 0x1000 8 0 0 |> fun x => { x with home := .sram 0x1000 }) j).isSome = true) ∧
        holders (d 0x1007) (theReq s) = [w 0x1007] ∧
        heldByte (holders (d 0x1007) (theReq s)) (wholeAcc 0x1000 8 0 0 |> fun x => { x with home := .sram 0x1000 }) 0 = none ∧
        holders (d 0x1000) { theReq s with cap := some 1 } = [w 0x1000] ∧ holders (d 0x1008) (theReq s) = [] ∧ (∃ x ∈ pendingStores (d 0x1000), x.id ∈ [3]) ∧ ∀ x ∈ pendingStores (d 0x1000), x.id ∉ [4]) ∧
    (let s := { asked .load .g [wholeAcc 0x2000 8 0 0] .none (acceptedAt (.dome 0 0x2000) true) (mapped (ready id)) with wheel := 96 };
      let s := modDome s 0 fun d => { d with fifo := [(0, [⟨0, 5, some 0, 0, false⟩])], table := [(17, 0)], serving := [(96, ⟨0, 5, some 0, 0, false⟩)] };
      nextPosition s 0 0 (max (16 * (0 + 1)) (mapGet 0 (getDome s 0).used 0 + 1)) = some 17 ∧ 17 / 16 ≤ s.wheel ∧
        (getDome s 0).serving[0]? = some (96, ⟨0, 5, some 0, 0, false⟩) ∧ performHome s 0 (theReq s) ((theReq s).accs.headD (wholeAcc 0 0 0 0)) = .dome 0 0x2000 ∧
        injectTime (circuited s) (getCircuit (circuited s) 81) 96 = some 259 ∧ lostAt (getCircuit (circuited s) 81) 259 = none ∧
        atDomes (modDome s 0 fun d => { d with serving := d.serving.eraseIdx 0 }) 0 5 = true ∧
        atDomes (modDome s 0 fun d => { d with serving := d.serving.eraseIdx 0, fifo := [] }) 0 5 = false) ∧
    (let s := asked .load .d [wholeAcc 0x1000 8 0 0] (.sreg 31 true) (fun r => { r with stage := .performed 0 })
        (ready fun th => { th with sfe := th.sfe.set 31 .pending });
      (theReq s).stage = .performed 0 ∧ (theReq s).who = .thread ∧ leavesPending (getThread s Tid.zero) (.sreg 31 true) = false ∧ getFeS (getThread s Tid.zero) 31 = .pending) := by
  refine ⟨?_, by decide +kernel, by decide +kernel, by decide +kernel, by decide +kernel, by decide +kernel⟩
  intro k hk
  fin_cases hk <;> decide +kernel

/-- R301: a load of TCM while a load of `.d` is on its way bounds it; writes of its bytes that come later wait, and it takes nothing from them. -/
theorem test_local_access_bounds_loads :
    let s := asked .load .d [wholeAcc 0x1000 8 0 0] .none (acceptedAt (.sram 0x1000) false) (ready id)
    let w : Req := { acceptedAt (.sram 0x1000) true (request s 3 .d .store [wholeAcc 0x1000 8 0 9] .plain .th .none) with tid := ⟨0, 0, 1⟩ }
    after (exec (.ld on .l 3 false .plain .th (.s 4) (.s 5) (.off 0)) s) (fun t =>
      let d : Die := { getDie t 0 with reqs := w :: (getDie t 0).reqs }
      ((theReq t).cap, boundedLoad d w, holders d (theReq t), boundedLoad { getDie s 0 with reqs := w :: (getDie s 0).reqs } w)) =
      some (some 0, true, [], false) := by decide +kernel

/-- A store of n bytes of `.d` at a, accepted in die 0 before the rest. -/
def storedAt (a n : Nat) (s : State) : State :=
  modDie s 0 fun d => { d with reqs := acceptedAt (.sram a) true (request s 3 .d .store [wholeAcc a n 0 9] .plain .th .none) :: d.reqs }

def holding (x : Thread) : Thread := { x with run := .parked, inflight := some ⟨[.key 6 9], [], []⟩ }

theorem witness_SealsPublishesPhases :
    (∀ p ∈ [(ReqKind.seal, Space.d), (.seal, .g), (.unseal, .d), (.unseal, .g)],
      let s := cached id (asked p.1 p.2 [wholeAcc 0x1000 0x1000 0 0] (.bundle 9) id (mapped (ready holding)))
      mayAccept s 0 (theReq s) = true ∧ (theReq s).who = .thread ∧ (theReq s).brk = none ∧ ∃ b, (sealRange s 0 (theReq s) (wholeAcc 0x1000 0x1000 0 0)).1 = .ok [] ∧
        (sealRange s 0 (theReq s) (wholeAcc 0x1000 0x1000 0 0)).2 = some b ∧ 0x1000 = b ∧ (s.seals.filter fun z => z.ctx == 0).length < 64 ∧
        (∀ z ∈ (sealed s).seals, z.die = none → b < z.base + z.len ∧ z.base < b + 0x1000) ∧ (theReq s).tid.slot < 8) ∧
    (let s : State := { asked .seal .d [wholeAcc 0 0x1000 0 0] (.bundle 9) id (ready holding) with
        seals := [⟨0, some 0, 0, 0x1000, 0, some 2048, some (0, 5), some (0, 5)⟩], wheel := 2048 };
      (s.seals.find? fun z => z.sealer == some (0, 5)) = some ⟨0, some 0, 0, 0x1000, 0, some 2048, some (0, 5), some (0, 5)⟩ ∧
        (s.seals.find? fun z => z.unsealer == some (0, 5)) = some ⟨0, some 0, 0, 0x1000, 0, some 2048, some (0, 5), some (0, 5)⟩ ∧
        findReq (getDie s 0) 5 = some (theReq s) ∧ (theReq s).dest = .bundle 9 ∧ 0 ≤ s.wheel ∧ 2048 ≤ s.wheel ∧ ¬2049 ≤ s.wheel ∧
        rangeWrites s ⟨0, some 0, 0, 0x1000, 0, some 2048, some (0, 5), some (0, 5)⟩ = false ∧
        rangeWrites (storedAt 0xFFF 1 s) ⟨0, some 0, 0, 0x1000, 1, none, some (0, 5), none⟩ = true) ∧
    (let s := asked .publish .g [wholeAcc 0x10000 0 0 0] (.bundle 9) (fun r => { r with stage := .accepted }) (mapped (ready holding));
      findReq (getDie s 0) 5 = some (theReq s) ∧
        flipPages s 0 0 0 0x10000 = some [((0, 0x10000), (0, 0x20000)), ((0, 0x11000), (0, 0x21000))] ∧ pendingWrites (getDie s 0) = [] ∧
        (∀ f ∈ (getCtx s 0).flips, f.base ≠ 0x10000) ∧
        (∃ w ∈ pendingWrites (getDie (storedAt 0 1 s) 0), w.seq < 1) ∧
        ((getCtx (modCtx s 0 fun c => { c with flips := [⟨0x10000, 2048, [((0, 0x10000), (0, 0x20000))]⟩] }) 0).flips.find? fun f => f.base == 0x10000) =
          some ⟨0x10000, 2048, [((0, 0x10000), (0, 0x20000))]⟩) ∧
    (let s := modDie (setThread (tenant (ready id)) Tid.zero { getThread (ready id) Tid.zero with phase := 3 }) 0 fun d => { d with pmax := [(0, 3)] };
      phaseCount s 0 0 = 2 ∧ livePhases s 0 0 = [3]) ∧
    (let s := sealed (mapped (ready id));
      homeOf s 0 0 0x1000 = .dome 0 0x1000 ∧ 0x1000 % 64 = 0 ∧ sealedAt s 0 none (sealBase 0 0x1FC0) 64 s.wheel = true ∧
        replicaOf (getDie s 0) 0 0 0x1FC0 = none ∧ homePoison s 0 (.dome 0 0x1FC0) 64 = false ∧ (getDie s 0).replicas.length < poolGranules s 0 ∧
        ∀ z ∈ s.seals, z.ctx = 0 → rangeWrites s z = false) := by
  refine ⟨?_, by decide +kernel, by decide +kernel, by decide +kernel, by decide +kernel⟩
  intro p hp
  fin_cases hp <;> exact ⟨by decide +kernel, rfl, rfl, _, by decide +kernel, rfl, by decide +kernel⟩

/-- One element of FP32 at an address in TCM. -/
def one (a : Word) : Rec := { Rec.zero with w0 := a, w2 := 1 + 2 ^ 16 + 2 ^ 32 + 2 ^ 48, w3 := 4 }

/-- A transfer of one element from 0x1000, begun, alone on channel 0 of the current thread's cluster. -/
def moving (src : Rec) (dst : XDst) (pos : Nat) (g : XStage) : Transfer :=
  ⟨1, Tid.zero, 0, 0, 0, 0, 0, 0, .copy, src, dst, false, 0, pos, true, g⟩
def channelled (x : Transfer) (s : State) : State := modChan s 0 0 fun c => { c with q := [x] }
def only (s : State) (ch : Nat) : Bool :=
  (List.range 16).all fun r => r == 8 + ch || if r < 8 then (coreRefill s 0 (coreAt 0 r)).isNone else !chanReady s 0 (r - 8)
/-- The answered request of channel 0, or of stream 0. -/
def answered (who : Requester) (accs : List Acc) (doom : Option (Nat × Nat × Word)) (s : State) : State :=
  { asked .load .d accs .none (fun r => { r with who := who, stage := .performed 0, doom := doom }) s with wheel := 2 }
/-- A thread with stream j on, of one element in TCM or, for a space code in bits [10:8], elsewhere. -/
def streamOn (j : Nat) (sp : Word) (a : Option (Nat × Nat)) (th : Thread) : Thread :=
  { th with streams := vset th.streams j { Stream.reset with on := true, rcd := { one 0x1000 with w1 := sp }, asked := a } }

/-- What every beat of channel 0 asks for, for a record or a register as its destination. -/
theorem witness_EngineRuns :
    (∀ d ∈ [XDst.rcd (one 0x2000), .reg false 0 2 31], let src := match d with
        | .reg _ _ _ _ => { one 0x1000 with w1 := word (tyCode .i64) }
        | _ => one 0x1000
      let x := moving src d 0 .idle
      let s := setThread (channelled x (ready id)) ⟨0, 0, 2⟩ { Thread.reset with run := .running }
      (getChan s (clusterKey s.arg.die s.arg.unit) 0).q = x :: [] ∧ x.begun = true ∧ x.stage = .idle ∧ x.pos = 0 ∧ xferCount x = 1 ∧
        only s 0 = true ∧ tyM (rTy x.src) = false ∧ rSpace x.src = .l ∧ (∃ i0 row, elemAt x.src x.rank 0 = .at_ ⟨0x1000, 0⟩ i0 row)) ∧
    (∃ i0 row, elemAt (one 0x2000) 0 0 = .at_ ⟨0x2000, 0⟩ i0 row) ∧ 0x1000 % elemBytes (rWidth (one 0)) = 0 ∧
    8 * 0x1000 + 0 + rWidth (one 0) ≤ 8 * 0x2000 + 0 ∧ 0x1000 + elemBytes (rWidth (one 0)) ≤ 512 * 1024 ∧ 0 + rWidth (one 0) ≤ 8 * elemBytes (rWidth (one 0)) ∧
    rTy { one 0x1000 with w1 := word (tyCode .i64) } = .i64 ∧
    (let s := setThread (channelled (moving (one 0x1000) (.reg false 0 2 31) 0 .idle) (ready id)) ⟨0, 0, 2⟩ { Thread.reset with run := .running };
      hasThread (getThread s ⟨0, 0, 2⟩) = true ∧ streamS (getThread s ⟨0, 0, 2⟩) 31 = none ∧ getFeS (getThread s ⟨0, 0, 2⟩) 31 ≠ .pending) ∧
    (let x := moving { one 0x1000 with w1 := 0x200 } (.rcd (one 0x2000)) 0 .idle
      let s := channelled x (ready id);
      rSpace x.src = .d ∧ only s 0 = true ∧ (beatReads x.src x.rank true x.pos 0 (beatLen x)).1 ≠ [] ∧ (getDie s 0).reqs = []) ∧
    (let x := moving (one 0x1001) (.rcd (one 0x2000)) 0 .idle
      let s := channelled x (ready id);
      only s 0 = true ∧ (∃ i0 row, elemAt x.src x.rank x.pos = .at_ ⟨0x1001, 0⟩ i0 row) ∧ 0x1001 % elemBytes (rWidth x.src) ≠ 0) ∧
    (let x := moving { one 0x1000 with w1 := 0x200 } (.rcd (one 0x2000)) 0 (.reading 5 1)
      let s := answered (.engine 0 0) [wholeAcc 0x1000 4 0 7] none (channelled x (ready id))
      let e := answered (.engine 0 0) [] (some (0, 6, 0x1000)) (channelled x (ready id));
      findReq (getDie s s.arg.die) s.arg.i = some (theReq s) ∧ (theReq s).who = .engine 0 0 ∧ (theReq s).stage = .performed 0 ∧ 0 + 2 ≤ s.wheel ∧
        (∀ y ∈ (theReq s).accs, y.bad = false) ∧ rSpace x.src ≠ rSpace (one 0x2000) ∧
        (theReq e).accs = [] ∧ (theReq e).doom = some (0, 6, 0x1000)) ∧
    (let d : Rec := { one 0x2000 with w1 := 0x200 }
      let x := moving (one 0x1000) (.rcd d) 0 (.fetched [(7, 0)] none)
      rSpace d = .d ∧ only (channelled x (ready id)) 0 = true ∧ beatWrites d x.rank x.pos (beatData x d [(7, 0)]) ≠ []) ∧
    encodes (moving (one 0x1000) (.rcd (one 0x2000)) 0 (.fetched [] (some (6, 0x1000)))) (one 0x2000) = false ∧
    (let x := moving (one 0x1000) (.rcd { one 0x2000 with w1 := 0x200 }) 0 (.writing 5 1 none)
      let s := answered (.engine 0 0) [wholeAcc 0x2000 4 0 7] none (channelled x (ready id));
      (theReq s).who = .engine 0 0 ∧ (theReq s).doom = none ∧
        (theReq (answered (.engine 0 0) [] (some (0, 7, 0x2000)) (channelled x (ready id)))).doom = some (0, 7, 0x2000)) ∧
    (let s := channelled (moving (one 0x1000) (.rcd { one 0x2000 with w1 := 2 ^ 17 + 2 ^ 40 }) 1 .idle) (ready id);
      beatsLeft s 0 0 1 = false ∧ xferCount (moving (one 0) (.rcd (one 0)) 1 .idle) ≤ 1) ∧
    (∀ j ∈ [0, 7], let s := ready (streamOn j 0 none);
      refillReady s s.arg.t j = true ∧ (getStream (getThread s s.arg.t) j).next < elemCount (one 0x1000) 0 ∧ rSpace (getStream (getThread s s.arg.t) j).rcd = .l) ∧
    (let s := ready (streamOn 0 0x200 none)
      let y := getStream (getThread s s.arg.t) 0;
      rSpace y.rcd = .d ∧ (getCluster s 0).rr = 0 ∧ coreRefill s 0 (coreAt 0 0) = some (s.arg.t, 0) ∧
        (beatReads y.rcd 0 false y.next 0 (refillLen (getThread s s.arg.t) y 0)).1 ≠ []) ∧
    (let s := answered (.stream 0) [wholeAcc 0x1000 4 0 7] none (ready (streamOn 0 0x200 (some (5, 1))));
      (getStream (getThread s s.arg.t) 0).asked = some (5, 1) ∧ findReq (getDie s s.arg.t.die) 5 = some (theReq s) ∧
        (theReq s).stage = .performed 0 ∧ (theReq s).doom = none) ∧
    refillReady (ready id) Tid.zero 0 = false := by
  refine ⟨?_, ⟨0, 0, by decide +kernel⟩, by decide +kernel, by decide +kernel, by decide +kernel, by decide +kernel, by decide +kernel, by decide +kernel, by decide +kernel,
    ⟨by decide +kernel, ⟨0, 0, by decide +kernel⟩, by decide +kernel⟩, by decide +kernel, by decide +kernel, by decide +kernel, by decide +kernel, by decide +kernel, ?_,
    by decide +kernel, by decide +kernel, by decide +kernel⟩
  · intro d hd
    fin_cases hd <;> exact ⟨by decide +kernel, rfl, rfl, rfl, by decide +kernel, by decide +kernel, by decide +kernel, by decide +kernel, 0, 0, by decide +kernel⟩
  · intro j hj
    fin_cases hj <;> decide +kernel

/-- A circuit of core 0 whose injection order holds one beat, and words at the router of core 0. -/
def injecting (s : State) : State := modCircuit s 70 fun c => { c with closed := none, slots := [3, 255], inj := [⟨⟨7, 2⟩, .unit, 0, none⟩] }
def worded (at_ : Nat) (eject : Bool) (port circ : Nat) (env : BitVec 88) (data : Vec) (s : State) : State :=
  { s with words := [⟨at_, eject, port, circ, ⟨data, env⟩, .unit, none⟩] }
def tabled (outs : Nat) (s : State) : State := { s with slotTab := [(1024 * 4 + 3, ⟨70, 0, 0, Vector.replicate 4 outs⟩)] }

theorem witness_WordsOnTheirWay :
    (let s : State := { injecting (ready id) with arg := { EvArg.none with n := 70 }, wheel := 3 };
      circStopped s (getCircuit s 70) = false ∧ ((getCircuit s 70).inj.all fun b => !heldBack s b) = true ∧ ctxFrozen s 0 0 = false ∧ injectTime s (getCircuit s 70) 0 = some 3 ∧ 3 ≤ s.wheel ∧
        (∀ x ∈ (getCircuit s 70).slots, x < s.W) ∧ injectTime { s with wheel := 2 } (getCircuit s 70) 0 = some 3) ∧
    (∀ o ∈ [1, 2, 4, 8, 16], let s := { tabled o (worded 3 false 4 70 0 0 (ready id)) with wheel := 3 }
      ∃ e d, entryAt s 4 3 = some e ∧ outDirs (vget e.outs e.cur 0) = [d] ∧ (d = 4 ∨ (nextRouter (4 / 8) d).isSome = true ∨ d = 0 ∨ d = 3) ∧ 4 / 8 < 10240) ∧
    edgeLoses 0 1 4 = false ∧
    entryAt (ready id) 4 3 = none ∧
    (let s := { tabled 16 (worded 3 false 4 70 1 0 (ready id)) with wheel := 3 };
      ∃ e, entryAt s 4 3 = some e ∧ outDirs (allOuts e) = [4] ∧ bitsAt (1 : BitVec 88) 0 4 = 1) ∧
    (let s : State := { ready id with cfgBeats := [⟨256, 1, []⟩], wheel := 256 };
      s.cfgBeats[0]? = some ⟨256, 1, []⟩ ∧ 256 ≤ s.wheel ∧ ¬ s.wheel < 256 ∧ 255 < 256) ∧
    (let s := ready fun th => { th with rx := th.rx.set 3 { Rx.reset with circ := some 71, closing := true } };
      (getRx (getThread s Tid.zero) 3).circ = some 71 ∧ circOpen (getCircuit s 71) s.wheel = false ∧ ∀ f ∈ s.words, f.circ ≠ 71) := by
  refine ⟨by decide +kernel, ?_, by decide +kernel, by decide +kernel, ⟨_, rfl, by decide +kernel⟩, by decide +kernel, by decide +kernel⟩
  intro o ho
  fin_cases ho
  · exact ⟨_, 0, rfl, by decide +kernel⟩
  · exact ⟨_, 1, rfl, by decide +kernel⟩
  · exact ⟨_, 2, rfl, by decide +kernel⟩
  · exact ⟨_, 3, rfl, by decide +kernel⟩
  · exact ⟨_, 4, rfl, by decide +kernel⟩

/-- Core 0 with its thread's receive port 3 bound to circuit 70. -/
def receiving (f : Rx → Rx) (s : State) : State :=
  setThread s Tid.zero { getThread s Tid.zero with rx := (getThread s Tid.zero).rx.set 3 (f { Rx.reset with circ := some 70, rbase := 0x7FFC0, rlen := 1 }) }

/-- A grant with capability 9 for `vacczr` of A0, in the first entry of the table. -/
def granting (bits : Nat) (s : State) : State :=
  modCore s 0 fun c => { c with tcm := mPut (mPut c.tcm 0 8 9) 8 8 bits, full := [0] }

def commandBeat : Vec := BitVec.ofNat 512 (2 + 9 <<< 256)

theorem accepted_of {x : Remote × Word} (h : (match x.1 with
    | .accept _ _ => true
    | _ => false) = true) : ∃ m o rh, x = (.accept m o, rh) := by
  obtain ⟨r, rh⟩ := x
  cases r with
  | accept m o => exact ⟨m, o, rh, rfl⟩
  | refuse _ _ => exact absurd h (by simp)
  | hold => exact absurd h (by simp)

theorem held_of {x : Remote × Word} (h : (match x.1 with
    | .hold => true
    | _ => false) = true) : ∃ rh, x = (.hold, rh) := by
  obtain ⟨r, rh⟩ := x
  cases r with
  | hold => exact ⟨rh, rfl⟩
  | refuse _ _ => exact absurd h (by simp)
  | accept _ _ => exact absurd h (by simp)

/-- A record at 0x40 of 32 FP16 whose tag word, below its elements, is Empty. -/
def awaiting (s : State) : State :=
  modCore s 0 fun c => { c with tcm := [(0x40, 0x1000), (0x48, 1 + 2 ^ 17), (0x50, 32 + 2 ^ 16 + 2 ^ 32 + 2 ^ 48), (0x58, 2)].foldl (fun m x => mPut m x.1 8 x.2) c.tcm }

theorem witness_BeatsDelivered :
    (∀ k < 7, let s := { receiving id (worded 0 true 0 70 (BitVec.ofNat 88 k) 0 (ready id)) with wheel := 2 }
      s.words[0]? = some ⟨0, true, 0, 70, ⟨0, BitVec.ofNat 88 k⟩, .unit, none⟩ ∧ (getCore s 0).quarantined = false ∧
        bitsAt (BitVec.ofNat 88 k) 0 4 = k ∧ boundRx (getCore s 0) 70 = [(0, 3)] ∧ boundRx (getCore s 0) 71 = [] ∧ 0 + 2 ≤ s.wheel) ∧
    (let r (f : Rx → Rx) := getRx (getThread (receiving f (ready id)) Tid.zero) 3;
      (r id).q.length < 16 ∧ (r id).rcount = 0 ∧ (r id).overflow = false ∧
        (r fun x => { x with q := List.replicate 16 0 }).rcount < (r id).rlen ∧ 16 ≤ (r fun x => { x with q := List.replicate 16 0 }).q.length ∧
        (r fun x => { x with rcount := 1 }).rlen ≤ (r fun x => { x with rcount := 1 }).rcount ∧ (r fun x => { x with overflow := true }).overflow = true) ∧
    (let e : BitVec 88 := 2 + 31 * 2 ^ 24;
      bitAt e 30 = false ∧ 1 ≤ bitsAt e 24 6 ∧ bitsAt e 24 6 < 32 ∧ bitAt (2 + 0x4F * 2 ^ 24 : BitVec 88) 30 = true ∧
        bitsAt (2 + 0x4F * 2 ^ 24 : BitVec 88) 24 6 < 16) ∧
    grantOf (getCore (ready id) 0) 9 = none ∧ grantOf (getCore (granting 4 (ready id)) 0) 9 = some 0 ∧
    bitAt (mWord (getCore (granting 0 (ready id)) 0).tcm 8) 2 = false ∧
    (∃ m o rh, decideRemote (getCore (granting 0x14 (ready id)) 0) (some (0x14, 0)) commandBeat = (.accept m o, rh)) ∧
    (∃ rh, decideRemote (getCore (awaiting (ready id)) 0) (some (0x101, 0)) (BitVec.ofNat 512 (2 ^ 8 + 0x40 <<< 64)) = (.hold, rh)) ∧
    (let s := worded 0 true 0 70 5 0 (ready id);
      earlierCommand s 0 ⟨0, true, 0, 70, ⟨0, 5⟩, .unit, none⟩ = false) ∧
    (let s := setThread (ready id) Tid.zero { getThread (ready id) Tid.zero with
        mwait := some ⟨9, 65535, 0, 0, 70, some 0⟩, inflight := some ⟨[.key 6 9], [], []⟩ };
      (getThread s Tid.zero).mwait = some ⟨9, 65535, 0, 0, 70, some 0⟩ ∧ 65535 % 2 ^ 16 = bitsAt (6 + 65535 * 2 ^ 24 : BitVec 88) 24 16) := by
  refine ⟨by decide +kernel, by decide +kernel, by decide +kernel, by decide +kernel, by decide +kernel, by decide +kernel, ?_, ?_, by decide +kernel, by decide +kernel⟩
  · exact accepted_of (by decide +kernel)
  · exact held_of (by decide +kernel)

/-- A request block: CMD, HANDLE, DESC, N, MEMBER and OUT. -/
def block (cmd handle desc n member out : Nat) : List Byte :=
  natBytes 64 (cmd + handle * 2 ^ 64 + desc * 2 ^ 128 + n * 2 ^ 192 + member * 2 ^ 256 + out * 2 ^ 320)

/-- The belfry with one request of the current thread in mode 3; circuit 70 of context 0 is a multicast of core 0 to core 1 with two slots,
its route laid, under a budget of `budget` slots. -/
def belling (budget maxgap : Nat) (mc : Bool) (blk : List Byte) (s : State) : State :=
  let s := modCtx (mapped s) 0 fun c => { c with blk := (c.blk.set 2 (word budget)).set 4 4, regions := [(0, (Vector.replicate 32 0).set 1 0xFF)] }
  let hops := mergeRoute [] 0 (routeCore 0 (.core 1))
  let s := setCircuit s 70 { Circuit.none with
    closed := none, mc := mc, maxgap := maxgap, slots := [3, 200], dsts := [1], hops := hops, held := linkSlots 256 (hopLinks hops) [3, 200] }
  let s := modDome s 0 fun d => { d with mem := mPut (mPut d.mem 0x9008 8 1) 0x9010 8 1 }
  { s with belfry := [(0, [⟨Tid.zero, 9, 0, 0, 3, 0x8000, blk, 0, none⟩])] }
def asking (blk : List Byte) : BelReq := ⟨Tid.zero, 9, 0, 0, 3, 0x8000, blk, 0, none⟩

theorem witness_BelfryAndChanges :
    (∀ cmd < 6, let b := block cmd 70 0x9000 1 1 0x9000
      belReady (belling 1023 0 true b (ready id)) 0 = some (asking b) ∧ blockBad b = false ∧ bBits b 0 0 4 = cmd ∧
        blockBad (block (cmd + 16) 70 0 0 0 0) = true ∧ belHandle (belTaken (belling 1023 0 true b (ready id)) 0) (asking b) = some 70 ∧
        belHandle (belTaken (belling 1023 0 true b (ready id)) 0) (asking (block cmd 71 0 0 0 0)) = none) ∧
    blockBad (block 6 0 0 0 0 0) = true ∧
    (let s := belTaken (belling 1023 0 true (block 0 70 0x9000 1 1 0x9000) (ready id)) 0;
      (readVa s 0 0 0 3 0x9000 64 .r).2.toOption = some (some (1 * 2 ^ 64 + 1 * 2 ^ 128)) ∧
        (readVa s 0 0 0 3 0x40000000 64 .r).2.toOption = none ∧
        (openCirc s 0 0 (natBytes 64 (1 * 2 ^ 64 + 1 * 2 ^ 128))).2.toOption = some 1 ∧
        descBad (natBytes 64 (1 * 2 ^ 64 + 1 * 2 ^ 128)) s.W = false ∧ descBad (natBytes 64 0) s.W = true ∧
        (openCirc s 0 0 (natBytes 64 0)).2.toOption = none ∧ endpointOk s 0 0 = true ∧ dstOk s 0 1 = true ∧ dstOk s 0 (2 ^ 10) = false) ∧
    (let s := belTaken (belling 1023 59 true (block 1 70 0 1 0 0) (ready id)) 0;
      let c := viewCirc s 70;
      c.slots.length = 2 ∧ (256 ≤ maxGapOf (c.slots.take 1) s.W) ∧ c.maxgap ≠ 0 ∧ c.maxgap < maxGapOf (c.slots.take 1) s.W ∧
        (∃ l, pickSlots s 0 0 (circLinks s c) c.slots 3 0 = some l) ∧
        pickSlots (belTaken (belling 2 59 true (block 1 70 0 1 0 0) (ready id)) 0) 0 0 (circLinks s c) c.slots 3 0 = none) ∧
    (let s := belTaken (belling 1023 0 true (block 3 70 0 0 2 0) (ready id)) 0;
      let c := viewCirc s 70;
      c.mc = true ∧ dstOk s 0 2 = true ∧ 2 ∉ c.dsts ∧ 1 ∈ c.dsts ∧ ∃ b, (routeEndOf s 2).bind (bestBranch c.hops) = some b ∧
        (let new := (hopLinks (mergeRoute c.hops 0 b) ++ portLink s 2 b).filter fun l => !(circLinks s c).contains l;
          (∀ i ∈ c.slots, i ∈ usableSlots s new) ∧ withinBudget s 0 0 c.slots.length (laneLinks new) = true)) ∧
    (let s := belling 1023 0 false (block 5 70 0 0 0 0x9000) (ready id);
      (getCircuit s 70).mc = false ∧ (bWord (block 5 70 0 0 0 0x9000) 0x28).toNat % 64 = 0 ∧ bWord (block 5 70 0 0 0 0x9000) 8 ≠ 0 ∧
        bWord (block 5 0 0 0 0 0) 8 = 0 ∧ (∀ i < 3, (writeVa (belTaken s 0) 0 0 0 3 (0x9000 + 64 * i) 64 0).2.toOption.isSome = true) ∧
        (writeVa (belTaken s 0) 0 0 0 3 0x40000000 64 0).2.toOption = none ∧
        (writeBytes (belTaken s 0) (asking (block 5 70 0 0 0 0x9000)) 0x9000 3 (queryBytes (belTaken s 0) 0 (some (getCircuit s 70)))).2 = true) ∧
    (∀ k ∈ [ChangeKind.open_, .close, .slots [3], .join 2, .leave 1, .none], let s : State := { ready holding with
        changes := [⟨512, 70, k, some (Tid.zero, 9, 0)⟩], wheel := 512 }
      s.changes[s.arg.i]? = some ⟨512, 70, k, some (Tid.zero, 9, 0)⟩ ∧ s.tabWrites = [] ∧ 512 ≤ s.wheel ∧
        (getThread s Tid.zero).inflight.isSome = true) ∧
    (let s : State := { ready id with changes := [⟨512, 70, .none, none⟩], tabWrites := [⟨0, 70, 4099, some ⟨70, 0, 0, Vector.replicate 4 16⟩⟩] };
      s.tabWrites = [⟨0, 70, 4099, some ⟨70, 0, 0, Vector.replicate 4 16⟩⟩] ∧ 0 ≤ s.arg.n ∧ s.wheel < 512 ∧ ({ s with tabWrites := [⟨0, 70, 4099, none⟩] } : State).tabWrites = [⟨0, 70, 4099, none⟩]) := by
  refine ⟨?_, by decide +kernel, by decide +kernel, ⟨by decide +kernel, by decide +kernel, by decide +kernel, by decide +kernel, ?_, by decide +kernel⟩, ?_,
    by decide +kernel, by decide +kernel, by decide +kernel⟩
  · decide +kernel
  · exact Option.isSome_iff_exists.mp (by decide +kernel)
  · exact ⟨by decide +kernel, by decide +kernel, by decide +kernel, by decide +kernel, _, rfl, by decide +kernel⟩

/-- A launch of context 0 under handle 1, and a task of it. -/
def aLaunch (stage : LaunchStage) (w0 : Nat) (f : Launch → Launch) : Launch :=
  f ⟨(Vector.replicate 16 0).set 0 (word w0), stage, 0, [], [], [], 1, 1, 0, 0, 0, 0⟩
def launched (l : List (Nat × Launch)) (s : State) : State :=
  { modCtx (tenant s) 0 fun c => { c with launches := l } with arg := { s.arg with i := 1 } }
def aTask (entry : Word) : Task := ⟨1, 0, 1, 0, false, entry, 0, 0, 1, 0, 0, 0, 0, false, 0, 0⟩
def depending (w : Word) (l : Launch) : Launch := { l with blk := l.blk.set 8 w }
def oneTask : Nat := 1 + 2 ^ 32 + 2 ^ 48

/-- Statement LaunchesRun, from LAUNCH_READY on. -/
theorem witness_LaunchesStart :
    (let s := launched [(1, aLaunch .waiting oneTask (depending (2 ^ 62 + 2))), (2, aLaunch .done 0 fun l => { l with status := 1 })] (ready id);
      (∃ l, getLaunch s 0 1 = some l ∧ l.stage = .waiting ∧ bitAt (vget l.blk 8 0) 62 = true ∧ bitsAt (vget l.blk 8 0) 0 62 = 2) ∧
        ∃ x, getLaunch s 0 2 = some x ∧ x.stage = .done ∧ x.status ≠ 0) ∧
    (let s := launched [(1, aLaunch .waiting oneTask (depending 2)), (2, aLaunch .running 0 id)] (ready id);
      (∃ l, getLaunch s 0 1 = some l ∧ bitAt (vget l.blk 8 0) 63 = false ∧ bitsAt (vget l.blk 8 0) 0 62 ≠ 0 ∧
        ∀ j < 4, depAborts s 0 (vget l.blk (8 + j) 0) = false) ∧ ∃ x, getLaunch s 0 2 = some x ∧ x.stage ≠ .done) ∧
    (∀ n ∈ [0, oneTask], let s := launched [(1, aLaunch .waiting n id)] (ready id)
      ∃ l, getLaunch s 0 1 = some l ∧ l.stage = .waiting ∧ (∀ j < 4, depMet s 0 (vget l.blk (8 + j) 0) = true) ∧
        (∀ j < 4, depAborts s 0 (vget l.blk (8 + j) 0) = false) ∧ (lTasks l.blk = 0 ∨ 0 < lTasks l.blk) ∧ lBits l.blk 0x20 37 1 = 0 ∧
        vget l.blk 5 0 = 0 ∧ lBits l.blk 0x20 20 4 = 0 ∧ lBits l.blk 0x20 24 5 = 0) ∧
    (let l := aLaunch .waiting oneTask fun l => { l with blk := l.blk.set 4 (2 ^ 37 + 3 * 2 ^ 32) };
      0 < lTasks l.blk ∧ lBits l.blk 0x20 37 1 = 1 ∧ lBits l.blk 0x20 32 5 = 3 ∧ cBits (launched [(1, l)] (ready id)) 0 0x28 3 1 = 0 ∧
        (let s := spired [] (modCtx (launched [(1, l)] (ready id)) 0 fun c => { c with blk := c.blk.set 5 8 });
          cBits s 0 0x28 3 1 = 1 ∧ (getSpire s 3).holder = some (0, 0) ∧ ((0, 0) : Nat × Nat) ≠ (0, 1) ∧
            (getSpire (setSpire s 3 SpireChan.reset) 3).holder = none) ∧ lTasks (aLaunch .waiting 0 fun l => { l with blk := l.blk.set 4 (2 ^ 37 + 3 * 2 ^ 32) }).blk = 0) := by
  refine ⟨⟨⟨_, rfl, by decide +kernel⟩, ⟨_, rfl, by decide +kernel⟩⟩, ⟨⟨_, rfl, by decide +kernel⟩, ⟨_, rfl, by decide +kernel⟩⟩, ?_, by decide +kernel⟩
  intro n hn
  fin_cases hn <;> exact ⟨_, rfl, by decide +kernel⟩

/-- Statement LaunchesRun, tasks and the end of a launch. -/
theorem witness_TasksRun :
    (let s := modDie (tenant (ready id)) 0 fun d => { d with queue := [aTask 0] };
      (∀ k ∈ (getDie s 0).selected, k.1.ctx ≠ 0) ∧ chooseTask s 0 0 = some (aTask 0, 0) ∧ chooseTask (tenant (ready id)) 0 0 = none) ∧
    (let s := modDie (launched [(1, aLaunch .running oneTask id)] (ready id)) 0 fun d => { d with selected := [(aTask 0, 0)] };
      ((getDie s 0).selected.find? fun k => k.1.ctx == 0) = some (aTask 0, 0) ∧ ctxActive s 0 0 = true ∧ taskPlace s 0 (aTask 0) = some ([0], [1]) ∧
        (landAll (setDie s 0 { getDie s 0 with selected := [] }) 0 (aTask 0) [0]).2 = true ∧
        (landAll (setDie s 0 { getDie s 0 with selected := [] }) 0 (aTask 0x10000) [0]).2 = false ∧
        (getLaunch (landAll (setDie s 0 { getDie s 0 with selected := [] }) 0 (aTask 0x10000) [0]).1 0 1).isSome = true ∧ effBits s 0 0 1 0x00 28 2 = 0) ∧
    (let s := modCtx (launched [(1, aLaunch .running oneTask id)] (ready fun th => { th with task := 1 })) 0 fun c => { c with tasks := [(1, aTask 0)] };
      mapFind (getCtx s 0).tasks s.arg.i = some (aTask 0) ∧ (getLaunch s 0 (aTask 0).launch).isSome = true ∧ effBits s 0 0 1 0x00 28 2 = 0 ∧
        hasThread (getThread s Tid.zero) = true ∧ (getThread s Tid.zero).task = 1) ∧
    (let s := spired [] (launched [(0, aLaunch .running 0 fun l => { l with left := 0 })] (ready id));
      (∃ l, getLaunch s 0 0 = some l ∧ l.stage = .running ∧ l.left = 0 ∧ l.spawned = 0) ∧ launchTransfers s 0 0 = false ∧
        launchWrites s 0 0 = false ∧ launchWrites (asked .store .d [] .none (fun r => { r with stage := .accepted }) s) 0 0 = true ∧ (getSpire s 3).holder = some (0, 0)) :=
  ⟨by decide +kernel, by decide +kernel, by decide +kernel, ⟨⟨_, rfl, by decide +kernel⟩, by decide +kernel⟩⟩

/-- The function that serves context 0, with its completion queue in host memory. -/
def completing (tail : Nat) (s : State) : State := setFunc s 1 { Func.reset with cqen := true, cqbase := 0x1000, cqtail := tail }

/-- Statement LaunchesRun, records, steals and the watchdog. -/
theorem witness_RecordsStealsWatchdog :
    (let s := completing 62 (modCtx (ready id) 0 fun c => { c with records := [⟨6, 0, 0, 0, 2⟩] });
      (getCtx s 0).records = ⟨6, 0, 0, 0, 2⟩ :: [] ∧ (getFunc s (ctxFunc s 0)).cqen = true ∧
        (getFunc s (ctxFunc s 0)).cqhead ≠ ((getFunc s (ctxFunc s 0)).cqtail + 1) % 2 ^ (getFunc s (ctxFunc s 0)).cqlog2 ∧
        (let f := getFunc (completing 63 s) (ctxFunc s 0); (f.cqtail + 1) % 2 ^ f.cqlog2 = f.cqhead)) ∧
    (let s : State := { completing 0 (launched [(1, aLaunch .done oneTask fun l => { l with blk := l.blk.set 4 (2 ^ 40) })] (ready id)) with wheel := 256 };
      (getCtx s 0).records = [] ∧ ∃ l, (getCtx s 0).launches = [(1, l)] ∧ l.stage = .done ∧ l.ordsig = 0 ∧ lBits l.blk 0x20 40 2 = 1 ∧
        l.wheel / s.W < s.wheel / s.W) ∧
    (let s := modCtx (tenant (ready id)) 0 fun c => { c with blk := c.blk.set 10 0x101 };
      dieIdle s 0 0 = true ∧ diagonals s 0 0 = [8] ∧
        dieIdle (modDie s 0 fun d => { d with queue := [aTask 0] }) 0 0 = false) ∧
    (let s := modDie (tenant (ready id)) 0 fun d => { d with queue := [aTask 0, { aTask 0 with id := 2 }], steals := [(8, 0)] };
      (getDie s 0).steals = (8, 0) :: [] ∧ (∀ k ∈ (getDie s 0).queue, k.region = 0) ∧
        ∀ k ∈ (getDie s 0).queue, k.ctx = 0 ∧ k.hard = false ∧ taskLevel s k = 0) ∧
    (let s : State := { modCtx (tenant (ready id)) 0 fun c => { c with blk := c.blk.set 3 (1 * 2 ^ 32) } with wheel := 256 };
      cBits s 0 0x18 32 32 = 1 ∧ (getCtx s 0).silent = false ∧ (getCtx s 0).out = false ∧ (getCtx s 0).sinkAt + 1 * s.W ≤ s.wheel ∧
        hasThread (getThread s Tid.zero) = true ∧ (getThread s Tid.zero).ctx = 0) :=
  ⟨by decide +kernel, ⟨by decide +kernel, _, rfl, by decide +kernel⟩, by decide +kernel, by decide +kernel, by decide +kernel⟩

/-- Function fn of port 0 with one command at the last entry of its queue. -/
def commanding (fn opc : Nat) (a b : Word) (s : State) : State :=
  let s : State := { s with
    boot := 6, arg := { s.arg with fn := fn }
    hostMem := mPut (mPut (mPut s.hostMem 0x1FC0 8 opc) 0x1FC8 8 a.toNat) 0x1FD0 8 b.toNat }
  setFunc s fn { getFunc s fn with qbase := 0x1000, qen := true, head := 63, tail := 0 }

/-- Doublewords of host memory from 0x4000. -/
def hosted (l : List Nat) (s : State) : State :=
  { s with hostMem := (l.zipIdx).foldl (fun m x => mPut m (0x4000 + 8 * x.2) 8 x.1) s.hostMem }

/-- A region block of context 0, region 5, that inherits; and a context block for context 1 with one service position. -/
def regionBlock : List Nat := [2 + 5 * 2 ^ 16, 0x7F]
def contextBlock : List Nat := [1 + 1 * 2 ^ 8, 0, 2 ^ 32 + 2 ^ 16]

/-- Statement HostCommands, queues and entries. -/
theorem witness_HostFunctions :
    (∀ p ∈ [(1, 0x01), (1, 0x02), (1, 0x03), (0, 0x10), (0, 0x11), (0, 0x12), (0, 0x13), (0, 0x14), (0, 0x15), (0, 0x16), (0, 0x17), (0, 0x18),
        (0, 0x19), (0, 0x1A), (0, 0xFF)],
      let s := commanding p.1 p.2 0x4000 0 (tenant (ready id))
      0 < s.W ∧ hostReady s 0 p.1 = true ∧ entryOpc s 0 p.1 = p.2 ∧ entryStray s 0 p.1 = false ∧ entryArg s 0 p.1 0 = 0x4000 ∧
        (getFunc s (funcKey 0 p.1)).owed = none ∧ (p.2 = 0xFF → cmdKnown p.2 = false) ∧ fnPresent s 0 p.1 = true ∧ (p.1 = 1 → vfCtx s 0 p.1 = some 0)) ∧
    fnPresent State.reset 0 129 = false ∧ fnPresent State.reset 0 128 = true ∧
    (let s := commanding 1 0x13 0 0 (ready id);
      hostReady s 0 0 = false ∧ hostReady s 0 1 = true ∧
        entryStray { s with hostMem := mPut s.hostMem 0x1FF8 8 1 } 0 1 = true ∧ (getFunc s 1).qlog2 ≤ 12 ∧ (getFunc s 1).cqlog2 ≤ 12) ∧
    (let s := setFunc (ready id) 1 { Func.reset with cqen := true, cqtail := 63, owed := some (0, 256) };
      (getFunc s 1).owed = some (0, 256) ∧ (1 : Word).toNat % 4096 < 2 ^ (getFunc s 1).cqlog2 ∧
        ((getFunc s 1).cqtail + 1) % 2 ^ (getFunc s 1).cqlog2 = (getFunc s 1).cqhead ∧
        ((getFunc s 1).cqtail + 1) % 2 ^ (getFunc s 1).cqlog2 ≠ (1 : Word).toNat % 4096) := by
  refine ⟨by decide +kernel, by decide +kernel, by decide +kernel, by decide +kernel, by decide +kernel⟩

theorem lanesOk_idle (s : State) (h : s.circuits = []) (hb : ∀ c ∈ installedCtxs s, blkBits c.2.blk 0x10 0 10 = 0) (hw : 0 < s.W) : lanesOk s = true := by
  have hr : ∀ l, laneRoom s 0 l = true := by
    intro l
    have e : betaSum s (routerX (l / 8)) (routerY (l / 8)) (l % 8) = 0 := by
      rw [betaSum, List.sum_eq_zero]
      intro x hx
      obtain ⟨c, hc, rfl⟩ := List.mem_map.mp hx
      exact hb c (List.mem_filter.mp hc).1
    simp [laneRoom, e, memSlots, h, hw]
  unfold lanesOk
  simp only [hr, Bool.and_self, List.all_eq_true]
  intro i _ d _
  split <;> simp

theorem installCtx_isSome (s s' : State) (ctx : Nat) (b : Vector Word 32) (h1 : ctxClash s ctx b = false) (h2 : positionsOk (placeBlock s ctx b) = true)
    (h3 : openMems (closeMems (placeBlock s ctx b) ctx) ctx = some s') (h4 : lanesOk s' = true) : (installCtx s ctx b).isSome = true := by
  simp [installCtx, h1, h2, h3, h4]

theorem openMems_none (s : State) (ctx : Nat) (h : ctxTowers s ctx = []) : openMems s ctx = some s := by simp [openMems, h]

/-- Statement HostCommands, the blocks. -/
theorem witness_HostBlocks :
    (let s := hosted [oneTask, 0, 0x10000] (commanding 1 0x01 0x4000 0 (tenant (ready id)));
      let l := hostBlock s 0 0x4000 16;
      bitsAt (0x4000 : Word) 0 6 = 0 ∧ launchFault s 0 (lBits l 0x08 16 6) false 0x4000 l = none ∧
        (launchFault (hosted [oneTask, 8] s) 0 0 false 0x4000 (hostBlock (hosted [oneTask, 8] s) 0 0x4000 16)).isSome = true) ∧
    (let s := hosted regionBlock (commanding 1 0x02 0x4000 0 (tenant (ready id)));
      let l := controlBlock s 0 0x4000;
      blockValid s.W 2 l = true ∧ blkBits l 0 8 8 = 0 ∧ (getCtx s 0).installed = true ∧ regionFits (getCtx s 0).blk l = true ∧
        blockValid s.W 2 (controlBlock (hosted [3] s) 0 0x4000) = false) ∧
    (let s := modCtx (tenant (ready id)) 0 fun c => { c with regions := c.regions ++ [(5, Vector.replicate 32 0)] };
      (mapFind (getCtx s 0).regions 5).isSome = true ∧ mapFind (getCtx s 0).regions 6 = none ∧ regionBusy s 0 5 = false ∧ regionBusy s 0 0 = true) ∧
    (let s := hosted contextBlock (commanding 0 0x10 0x4000 0 (tenant (ready id)));
      let l := controlBlock s 0 0x4000;
      blkBits l 0 8 8 = 1 ∧ blockValid s.W 1 l = true ∧ (∀ r ∈ (getCtx s 1).regions, regionFits l r.2 = true) ∧ ctxClash s 1 l = false ∧
        ctxClash (modCtx s 0 fun c => { c with blk := (c.blk.set 10 0x100).set 5 1 }) 1 (controlBlock (hosted [1 + 2 ^ 8, 0, 2 ^ 32 + 2 ^ 16, 0, 0, 1] s) 0 0x4000) = true) ∧
    (let s := tenant (ready id);
      ctxBusy s 0 = false ∧ ctxBusy (launched [(1, aLaunch .running oneTask id)] s) 0 = true ∧ (getCtx s 0).installed = true ∧ (getCtx s 255).installed = false) ∧
    (let s := hosted [0x0100] (modCtx (tenant (ready id)) 1 fun c => { c with installed := true });
      (List.range 2).map (fun i => hostNat s 0 (0x4000 + i) 1) = [0, 1] ∧ ∀ c ∈ [0, 1], (getCtx s c).installed = true) ∧
    portTo State.reset 1 = none ∧ portTo { State.reset with ports := [(31, { FabPort.reset with up := true, peermod := 1, lanes := 8 })] } 1 = some 31 := by
  refine ⟨by decide +kernel, by decide +kernel, by decide +kernel, by decide +kernel, by decide +kernel, by decide +kernel, by decide +kernel, by decide +kernel⟩

/-- Statement HostCommands: context 1 can be made beside context 0. -/
theorem witness_CtxsetAccepted : let s := hosted contextBlock (commanding 0 0x10 0x4000 0 (tenant (ready id)))
    (installCtx s 1 (controlBlock s 0 0x4000)).isSome = true :=
  installCtx_isSome _ _ _ _ (by decide +kernel) (by decide +kernel) (openMems_none _ _ (by decide +kernel))
    (lanesOk_idle _ (by decide +kernel) (by decide +kernel) (by decide +kernel))

/-! A hypothesis on a free value of Config (a self-test, a signature, a retrain) is left out of the witnesses: nothing decides it. -/

/-- Service words: kind, tower, x, y and edge. -/
def service (kind tower x y e : Nat) : Word := word (kind + tower * 2 ^ 8 + x * 2 ^ 16 + y * 2 ^ 20 + e * 2 ^ 24)

theorem witness_KeepCommands :
    (∀ w ∈ [service 1 159 8 7 0, service 2 159 7 7 0, service 3 159 0 0 3, service 4 159 0 0 0],
      let s := commanding 0 0x19 w 255 (ready id)
      hostReady s 0 0 = true ∧ entryOpc s 0 0 = 0x19 ∧ entryStray s 0 0 = false ∧ entryArg s 0 0 0 = w ∧ entryArg s 0 0 1 = 255 ∧ serviceOk w = true ∧
        edgeWaiting s 0 = none) ∧
    serviceOk (service 1 160 0 0 0) = false ∧ serviceOk (service 4 0 1 0 0) = false ∧ serviceOk (service 3 0 0 1 0) = false ∧
    serviceOk (service 2 0 0 0 1) = false ∧ serviceOk 0 = true ∧
    6000 ≤ (6000 : Word).toNat ∧ (24000 : Word).toNat ≤ 24000 ∧ (5999 : Word).toNat < 6000 ∧ 144 ≤ (144 : Word).toNat ∧ (65664 : Word).toNat ≤ 65664 ∧
    holeOf (ready id) 159 7 ≤ 8 ∧ archOf (ready id) 159 7 7 = some 63 ∧ archOf (ready id) 159 8 7 = none ∧
    (getCore (ready id) (coreKey 159 63)).quarantined = false ∧ physQuarantined (ready id) 159 7 7 = false ∧
    physQuarantined (modDie (ready id) 159 fun d => { d with bad := [physNum 8 7] }) 159 8 7 = true ∧
    (vget (getDie (ready id) 159).edges 3 Edge.reset).suspended = none ∧
    (let s := modDie (ready id) 0 fun d => { d with edges := d.edges.set 3 { Edge.reset with suspended := some 0, cmd := some 0 } };
      edgeWaiting s 0 = some (0, 3) ∧ (vget (getDie s 0).edges 3 Edge.reset).suspended ≠ none) ∧
    (let s : State := { modDie (ready id) 0 fun d => { d with edges := d.edges.set 3 { Edge.reset with suspended := some 0, begun := true } } with wheel := 256 };
      (vget (getDie s 0).edges 3 Edge.reset).begun = true ∧ (vget (getDie s 0).edges 3 Edge.reset).failed = false ∧ 0 + s.W ≤ s.wheel) := by
  refine ⟨fun w hw => ?_, ?_⟩
  · fin_cases hw <;> decide +kernel
  · decide +kernel

/-- A context switched out that has domes 0 and 1, of which one is to be retired; and one that runs. -/
def twoDomes (out : Bool) (s : State) : State := modCtx s 0 fun c => { c with installed := true, out := out, blk := ((c.blk.set 13 3).set 2 (2 ^ 32 + 2 ^ 16)) }

/-- Statement KeepCommands, the retirement of a dome. -/
theorem witness_DomesRetired : (domeMask (twoDomes true (ready id)) 0).contains 0 = true ∧ (getCtx (twoDomes false (ready id)) 0).out = false ∧
    (domeMask (twoDomes true (ready id)) 0).contains 2 = false ∧
    ctxClash (twoDomes true (ready id)) 0 (blkWithout (getCtx (twoDomes true (ready id)) 0).blk 0 2) = false := by decide +kernel

/-- Statement KeepCommands: block changes of each kind at their E. -/
theorem witness_BlockChanges :
    (∀ c ∈ [{ BlockChange.none with region := some 63, blk := some ((Vector.replicate 32 0).set 1 0x7F) }, { BlockChange.none with region := some 63 },
        { BlockChange.none with ctx := 1, blk := some ((Vector.replicate 32 0).set 0 0x101) }, { BlockChange.none with modules := some 0 },
        { BlockChange.none with dome := some 159 }, BlockChange.none],
      let s : State := { tenant (ready id) with blkChanges := [c] }
      s.blkChanges[s.arg.i]? = some c ∧ c.e ≤ s.wheel ∧ regionFits (getCtx s 0).blk ((Vector.replicate 32 0).set 1 0x7F) = true ∧
        regionBusy s 0 63 = false ∧ (getCtx s 0).installed = true ∧ (getCtx s 1).installed = false ∧ ctxBusy s 0 = false ∧
        regionFits (getCtx s 0).blk ((Vector.replicate 32 0).set 4 1) = false) ∧
    (installModules (tenant (ready id)) 0 0).isSome = true := ⟨by decide +kernel, by decide +kernel⟩

/-- Writes of `switch` and `hswitch`, with REV as they give it and armed. -/
def armed (out inc rev : Nat) : Word := word (2 ^ 63 + out * 2 ^ 48 + inc * 2 ^ 40 + rev)
/-- Two regions and two contexts to switch between; context 1 is out. -/
def switching (s : State) : State :=
  modCtx (modCtx (tenant s) 0 fun c => { c with regions := c.regions ++ [(63, Vector.replicate 32 0)] }) 1 fun c => { c with
    installed := true, out := true, blk := c.blk.set 10 1, regions := [(0, Vector.replicate 32 0)] }

theorem witness_ScheduledSwitches :
    (let s := switching (ready id);
      let c := getCtx s 0;
      swLocked s c.switch (regionWarn s 0 (swOutr c.switch)) = false ∧ swOutr (armed 0 63 0) ≠ swInr (armed 0 63 0) ∧ mapFind c.regions 0 ≠ none ∧
        mapFind c.regions 63 ≠ none ∧ s.wheel / s.W + 64 < 2 ^ 40 ∧ hswitchShut s (armed 0 1 0) = false ∧ (getCtx s 1).installed = true ∧
        towersTaken s 1 0 = false ∧ swOutc (armed 0 1 0) = 0 ∧ swInc (armed 0 1 0) = 1) ∧
    (let s := { modCtx (switching (ready id)) 0 fun c => { c with switch := armed 0 63 0 } with hswitch := armed 0 1 0 };
      s.hwarned = false ∧ swArm s.hswitch = true ∧ (swRev s.hswitch - ctxWarn s 0) * s.W ≤ s.wheel ∧ hwarnDue s = true ∧ warnDue s 0 = true ∧
        hswitchShut s 0 = true ∧ swLocked s (getCtx s 0).switch (regionWarn s 0 0) = true ∧ hswitchDue s = true ∧ switchDue s 0 = true ∧
        hasThread (getThread s Tid.zero) = true) ∧
    (let w : Switch := ⟨0, none, 1, .drain, 0⟩;
      let s : State := { switching (ready id) with switching := [w] };
      switchOf s 0 .drain = some w ∧ switchDrained s (switchWho w) = true ∧ (switchWho w).region = none ∧
        (∀ u ∈ threadsWhere s (switchWho w).has, (getThread s u).mwait = none) ∧ (switchWho w).towers s = [0] ∧ beatSaved (switchWho w) s 0 0xC0000 = false) ∧
    (let w : Switch := ⟨0, none, 1, .save, 0⟩;
      let s : State := { switching (ready id) with switching := [w] };
      switchOf s 0 .save = some w ∧ switchOf s 0 .drain = none ∧ w.due ≤ s.wheel ∧ (getCtx s 1).out = true ∧ swArm (getCtx s 1).switch = false ∧
        coreGone s (coreKey 0 63) = false ∧ 0 ∈ ctxTowers s 1) ∧
    (let s := modCore (ready id) 0 fun c => { c with held := true };
      (getCore s 0).held = true ∧ railCarries (modCtx s 0 fun c => { c with level := 6 }) 0 = true ∧ railCarries s 0 = false) ∧
    (let s : State := { switching (ready id) with sched := [0, 1] };
      quantumDue s = true ∧ schedTurn s = some (0, 1) ∧ (getCtx s 0).resumed + cBits s 0 0x18 0 32 < 2 ^ 40) := by
  refine ⟨by decide +kernel, by decide +kernel, by decide +kernel, by decide +kernel, by decide +kernel, by decide +kernel⟩

theorem witness_PowerAndLevels :
    (∀ n ∈ [64, 1024], n % 16 = 0 ∧ 64 ≤ n ∧ n ≤ 1024) ∧ State.reset.boot = 0 ∧ ¬ (56 : Nat) ≥ 64 ∧
    (let v (arm level rev : Nat) : Word := word (arm * 2 ^ 63 + level * 2 ^ 40 + rev);
      let s := tenant (ready id);
      fLevel (v 1 18 0) = 18 ∧ fLevel (v 0 6 0) = 6 ∧ fLevel (v 0 5 0) = 5 ∧ fLevel (v 0 19 0) = 19 ∧ fArm (fcmdReg s 0) = false ∧ fArm (v 1 18 0) = true ∧
        levelRev s (fcmdNames s 0) 18 64 < 2 ^ 40 ∧ (∃ c ∈ fcmdNames s 0, onRail c.2 0 = true ∧ c.2.level < 18)) ∧
    (let s : State := { modCtx (tenant (ready id)) 0 fun c => { c with fcmd := word (2 ^ 63 + 6 * 2 ^ 40 + 1) } with wheel := 256 };
      fcmdDue s 0 = true ∧ fcmdDue { s with wheel := 255 } 0 = false) ∧
    newEpoch (ready id) = true ∧ newEpoch { ready id with wheel := 11 } = false ∧ newEpoch { ready id with wheel := 20010 } = true ∧
    (let s := tenant (ready id);
      ∃ c ∈ runningCtxs s, ∀ d < 160, ctxTower s c.1 d = true → ∀ c' ∈ runningCtxs s, ctxTower s c'.1 d = true → c'.1 = c.1) := by
  refine ⟨by decide, rfl, by decide, by decide +kernel, by decide +kernel, by decide +kernel, by decide +kernel, by decide +kernel, by decide +kernel⟩

/-- Port 31 up with 8 lanes to module 1, and circuit 70 over it. -/
def ported (f : FabPort → FabPort) (s : State) : State :=
  { s with ports := [(31, f { FabPort.reset with up := true, peermod := 1, lanes := 8 })], arg := { s.arg with port := 31 } }
def overPort (slots : List Nat) (s : State) : State :=
  setCircuit s 70 { Circuit.none with closed := none, slots := slots, held := slots.map fun i => 1024 * portLinkNo 31 + (i + 1) % 256 }

theorem witness_FabricLinks :
    (let s : State := { ported id (overPort [3] (ready id)) with offs := -501 };
      500 < s.offs.natAbs ∧ s.offsSince = none ∧ circOpen (getCircuit s 70) s.wheel = true ∧ hasThread (getThread s Tid.zero) = true ∧
        (∃ h ∈ (getCircuit s 70).held, h / 1024 ∈ (List.range 32).map portLinkNo)) ∧
    (let s : State := { ready id with offsSince := some 0, offsBelow := some 0, wheel := 4096 }; 0 + 16 * s.W ≤ s.wheel ∧ s.offsSince ≠ none) ∧
    (let s := ported id (setCircuit (ready id) 70 { Circuit.none with
        closed := none, src := 2 ^ 15, hops := [⟨0, 3, 0, Vector.replicate 4 16⟩] });
      (getPort s 31).up = true ∧ cellCircuit s 70 0 = some (70, ⟨0, 3, 0, Vector.replicate 4 16⟩) ∧ (getPort s 0).up = false) ∧
    (let s := ported id (modDie (ready id) 0 fun d => { d with
        reqs := [{ request (ready id) 5 .g .load [{ wholeAcc 0x2000 8 0 0 with home := .far 1 0x2000 }] .plain .th .none with stage := .accepted }] });
      ∃ r, findReq (getDie s 0) (65541 - 65536) = some r ∧ waitsFar s 0 none r = true) ∧
    (let s := ported id (modDome (modCtx (asked .load .g [wholeAcc 0x2000 8 0 0] .none (fun r => { r with stage := .walking 0x2000 2 .sent [] })
        (mapped (ready id))) 0 fun c => { c with modules := 2 }) 0 fun d => { d with mem := mPut d.mem 0x1000 8 (0x1F + 2 ^ 52) });
      farEntry s 0 (theReq s) = some (1, 0x2000)) ∧
    (let s := ported (fun x => { x with next := some (4, 0) }) (ready id); (getPort s 31).next = some (4, 0) ∧ 0 ≤ s.wheel) ∧
    (let s := ported id (overPort [3] (ready id));
      applyLanes s 31 = none ∧ onLink s (portLinkNo 31) (getCircuit s 70) = true ∧ keptSlots s (portLinkNo 31) 1 (getCircuit s 70) ≠ [] ∧
        (∀ c ∈ s.circuits, getCircuit s c.1 = c.2)) ∧
    (let s := ported id (overPort [200] (ready id)); keptSlots s (portLinkNo 31) 1 (getCircuit s 70) = []) ∧
    (let s := ported id (overPort [3, 200] (ready id));
      ∃ i ∈ (getCircuit s 70).slots, i ∉ keptSlots s (portLinkNo 31) 1 (getCircuit s 70)) ∧
    (let s := ported (fun x => { x with lanes := 1 }) (ready id); (getPort s 31).failAt = none ∧ (getPort s 31).up = true ∧ (getPort s 31).lanes ≤ 1) ∧
    (∀ n < 3, let s := ported (fun x => { x with failAt := some (256, n) }) (overPort [3] (ready id))
      (getPort s 31).failAt = some (256, n) ∧ s.wheel < 256 ∧ 256 ≤ ({ s with wheel := 256 } : State).wheel ∧
        keptSlots s (portLinkNo 31) (n + 1) (getCircuit s 70) ≠ []) := by
  refine ⟨by decide +kernel, by decide +kernel, by decide +kernel, ⟨_, rfl, by decide +kernel⟩, by decide +kernel, by decide +kernel, ?_, by decide +kernel,
    by decide +kernel, by decide +kernel, by decide +kernel⟩
  refine ⟨?_, by decide +kernel, by decide +kernel, by decide +kernel⟩
  have h : (getPort (ported id (overPort [3] (ready id))) 31).next = none := by decide +kernel
  simp only [applyLanes, h]

/-- Statements GuardsSuppress, BundlesOfTwo and DecodeOfEncode: a syllable that its guard suppresses, and the pairings of a bundle of two. -/
theorem witness_GuardsAndPairs :
    (∃ op body, encodeS (.halt ⟨0x7F, 0, 0, 0⟩) = some (syl ⟨0x7F, 0, 0, 0⟩ op body)) ∧ (Instr.halt ⟨0x7F, 0, 0, 0⟩).wellFormed = true ∧
    guardBit ⟨0x7F, 0, 0, 0⟩ (me (ready id)) 0 = false ∧ (∀ k < 64, guardBit ⟨0x7F, 0, 0, 0⟩ (me (ready id)) k = false) ∧
    (let s : State := { ready id with pair := .first };
      s.pair = .first ∧ Quiet s ∧ guardBit on (me s) 0 = true ∧ (∀ k < 64, guardBit on (me s) k = true) ∧
        (15 : Nat) < 512 / tyWidth .f32 ∧ streamS (me s) 31 = none ∧ streamV (me s) 15 = none ∧ getFeS (me s) 31 = .full ∧ getFeV (me s) 15 = .full ∧
        Reads s false (opsDAB (.s 0) (.s 31) (.imm 1)) (0, (1 : BitVec 23).signExtend 64) []) :=
  ⟨⟨_, _, rfl⟩, by decide +kernel, by decide +kernel, by decide +kernel, rfl, ⟨by decide, rfl, rfl, rfl⟩, by decide +kernel, by decide +kernel, by decide,
    by decide +kernel, by decide +kernel, by decide +kernel, by decide +kernel, reads_of (by decide +kernel)⟩

/-- The machine about to issue a bundle whose halves are given, and one that has run past its segment. -/
def issuing (sv vv : BitVec 64) : State := placeBundle State.reset (BitVec.ofNat 128 (sv.toNat + 2 ^ 64 * vv.toNat))

theorem witness_StepRunsDecoded :
    (let s := issuing 0xFF00330000000000 0xF0200110C8000000;
      s.agenda = [] ∧ s.lanRun = none ∧ hasThread (me s) = true ∧ (getCore s (tidKey s.cur)).held = false ∧ ctxFrozen s (me s).ctx (me s).region = false ∧
        rotOpen (getCore s (tidKey s.cur)) = true ∧ (me s).run = .running ∧ lockHeld s s.cur = false ∧ dueInterrupt (me s) = none ∧ breakMatch (me s) = none ∧
        (me s).ranOff = false ∧ fetchBundle (codeCore s s.cur) (me s).pc = some 0xF0200110C8000000_FF00330000000000 ∧
        (decodeS (bundleS 0xF0200110C8000000_FF00330000000000)).toOption = some (.halt on) ∧
        (decodeV (bundleV 0xF0200110C8000000_FF00330000000000)).toOption = some (.vadd ⟨0xF0, 1, 0, 0⟩ .f32 .rne false (.v 2) (.v 3) (.reg (.v 4)))) ∧
    (decodeS 0xFF00010001000000).toOption = none ∧
    (let s := ready fun th => { th with pc := 16 };
      dueInterrupt (me s) = none ∧ breakMatch (me s) = none ∧ (me s).ranOff = false ∧ bitsAt (me s).pc 28 36 = 0 ∧ bitsAt (me s).pc 0 4 = 0 ∧ (me s).fresh = 0 ∧
        fetchBundle (codeCore s s.cur) (me s).pc = none) ∧
    (me (ready fun th => { th with ranOff := true })).ranOff = true ∧
    (dueInterrupt (getThread (ready pendingH) Tid.zero)).isSome = true ∧
    (let s : State := { modLantern (ready id) 0 fun l => { l with code := [0x04400000] } with lanRun := some ⟨0, [], 0, Vector.replicate 16 0⟩ };
      s.agenda = [] ∧ (getLantern s 0).code[0]? = some 0x04400000 ∧ (decodeLantern 0x04400000).toOption = some (.lanternLdr 1 0 0)) ∧
    (⟨.interrupt, EvArg.none⟩ : Event) :: [] ≠ [] := by decide +kernel

/-- The machine after reset meets the invariant of memories, and a step of it answers a next state. -/
theorem witness_StepKeepsMemories : State.reset.memoriesWf ∧ (after (step (ready id)) fun _ => ()) = some () := by
  refine ⟨?_, by decide +kernel⟩
  simp only [State.memoriesWf, State.reset, List.not_mem_nil, false_implies, implies_true, true_and]
  decide

/-- A syllable answers a next state, where no mode is the reserved one. -/
theorem witness_SyllablesStayLocal : encodeS (.halt on) ≠ none ∧ (after (exec (.halt on) (ready id)) fun _ => ()) = some () ∧
    ∀ k < 8, bitsAt (getThread (ready id) ⟨0, 0, k⟩).status 0 2 ≠ 2 ∧ bitsAt (getThread (ready id) ⟨0, 0, k⟩).hstatus 0 2 ≠ 2 := by decide +kernel

theorem witness_CoresFail :
    (getCore (ready id) (coreKey 0 63)).quarantined = false ∧ spareFree (ready id) 0 7 = true ∧ shiftAt (ready id) 0 7 = none ∧
    (let s := modCore (ready id) (coreKey 0 63) fun c => { c with quarantined := true };
      let t : State := { s with arg := { s.arg with i := 7 } };
      shiftAt t 0 7 = some 7 ∧ shiftAt s 0 0 = none ∧ rowIdle t 0 7 (shiftRange (holeOf t 0 7) 7) = true ∧ newRevolution t = true ∧
        holeOf t 0 7 = 8 ∧ holeOf { t with shifted := [(7, 0)] } 0 7 = 0 ∧ shiftAt { t with shifted := [(7, 0)] } 0 7 = some 7) ∧
    spareFree (modDie (ready id) 0 fun d => { d with bad := [physNum 8 7] }) 0 7 = false ∧ coreTasks (getCore (ready id) 0) = [(0, 0)] ∧
    (∃ r ∈ pendingStores (getDie (modDie (ready id) 0 fun d => { d with
      reqs := [acceptedAt (.dome 3 0x40) true (request (ready id) 3 .g .store [wholeAcc 0 8 0 9] .plain .th .none)] }) 0),
      ∃ a ∈ r.accs, a.done = false ∧ a.home = .dome 3 0x40) := by decide +kernel

end Sys2Proof.Tests
end

section
/-! Guards (spec/02 R29 to R32, R58): a syllable is issued under the guard that its word names, and one that its guard suppresses
issues as a NOP does. -/

namespace Sys2Proof.Machine

set_option Elab.async false

/-! ## Guard bits -/

/-- The bit of the truth table that three predicate bits choose (R29). -/
def ttIndex (a b c : Bool) : Nat := 4 * (if a then 1 else 0) + 2 * (if b then 1 else 0) + if c then 1 else 0

theorem ttAt_eq (tt : BitVec 8) (a b c : Bool) : ttAt tt a b c = tt.getLsbD (ttIndex a b c) := by
  cases a <;> cases b <;> cases c <;> rfl

theorem guardBit_eq (g : Guard) (th : Thread) (k : Nat) :
    guardBit g th k = g.tt.getLsbD (ttIndex (bitAt (getP th g.pa.toNat) k) (bitAt (getP th g.pb.toNat) k) (bitAt (getP th g.pc.toNat) k)) :=
  ttAt_eq _ _ _ _

theorem ttAt_ones (a b c : Bool) : ttAt 0xFF a b c = true := by cases a <;> cases b <;> cases c <;> rfl

theorem ttAt_zero (a b c : Bool) : ttAt 0 a b c = false := by rw [ttAt_eq]; exact BitVec.getLsbD_zero

/-- p0 reads as all ones (R24). -/
theorem bitAt_getP_zero (th : Thread) {k : Nat} (h : k < 64) : bitAt (getP th 0) k = true := by
  rw [bitAt, getP, if_pos rfl, BitVec.getLsbD_allOnes]
  exact decide_eq_true h

theorem guardBit_p0 (th : Thread) {k : Nat} (tt : BitVec 8) (h : k < 64) : guardBit ⟨tt, 0, 0, 0⟩ th k = tt.getLsbD 7 := by
  rw [guardBit_eq]
  show tt.getLsbD (ttIndex (bitAt (getP th 0) k) (bitAt (getP th 0) k) (bitAt (getP th 0) k)) = _
  rw [bitAt_getP_zero th h]
  rfl

theorem predBits_le (w : Nat) : predBits w ≤ 64 := by
  unfold predBits
  split
  · exact le_rfl
  · exact Nat.div_le_of_le_mul (by omega)

/-- A V syllable all of whose guard bits are clear has no enabled element, whatever its governing width (R32). -/
theorem anyGuard_eq_false {g : Guard} {th : Thread} (h : ∀ k < 64, guardBit g th k = false) (w : Nat) : anyGuard g th w = false := by
  have hlow : ∀ k < predBits w, guardBit g th k = false := fun k hk => h k (hk.trans_le (predBits_le w))
  simpa [anyGuard] using hlow

/-- The bit that governs an element of a register is one of the 64 of a predicate (R30). -/
theorem predBit_lt {t : Ty} {i : Nat} (h : i < tyElems t) : predBit (tyWidth t) i < 64 := by
  cases t <;> simp [tyElems, tyWidth, predBit] at h ⊢ <;> omega

/-! ## A suppressed syllable -/

/-- In which slot a syllable that is not enabled stands makes no difference to its bundle. -/
theorem issueOut_off_slot (v u : Bool) (s : State) : issueOut v .off s = issueOut u .off s := by
  unfold issueOut
  cases s.pair <;> cases v <;> cases u <;> rfl

theorem exec_nop (g : Guard) (s : State) (v : Bool) : exec (.nop g) s = .next (issueOut v .off s) :=
  congrArg Host.Outcome.next (issueOut_off_slot _ v s)

theorem exec_nop_alone {s : State} (h : s.pair = .alone) (g : Guard) : exec (.nop g) s = .next (completes s []) := by
  rw [exec_nop g s false, issueOut_off h]

theorem issueS_suppressed {g : Guard} {s : State} (h : guardBit g (me s) 0 = false) (d : List (Loc × Nat)) (b : Ev Unit) :
    issueS g d b s = exec (.nop g) s := by
  have hg : ¬ guardBit g (getThread s s.cur) 0 = true := Bool.eq_false_iff.mp h
  rw [exec_nop g s false, issueS, if_neg hg]

/-- The ways in which a V syllable is issued under a guard: by the guard of its elements, by Guard(0) alone, or by the guard of the one
element that it names (R30, R32, R179, R180, R235). -/
inductive IssuesV (g : Guard) : (State → Out) → Prop
  | elements (w : Nat) (d : List (Loc × Nat)) (b : Ev Unit) : IssuesV g (issueV g w d b)
  | whole (d : List (Loc × Nat)) (b : Ev Unit) : IssuesV g (issueV0 g d b)
  | element (w i : Nat) (d : List (Loc × Nat)) (b : Ev Unit) (h : predBit w i < 64) : IssuesV g (issueVAt g w i d b)

theorem IssuesV.suppressed {g : Guard} {f : State → Out} (hf : IssuesV g f) {s : State} (h : ∀ k < 64, guardBit g (me s) k = false) :
    f s = exec (.nop g) s := by
  rw [exec_nop g s true]
  cases hf with
  | elements w d b =>
    have hg : ¬ anyGuard g (getThread s s.cur) w = true := Bool.eq_false_iff.mp (anyGuard_eq_false h w)
    simp only [issueV, if_neg hg]
  | whole d b =>
    have hg : ¬ guardBit g (getThread s s.cur) 0 = true := Bool.eq_false_iff.mp (h 0 (by omega))
    simp only [issueV0, if_neg hg]
  | element w i d b hi =>
    have hg : ¬ elemGuard g (getThread s s.cur) w i = true := Bool.eq_false_iff.mp (h _ hi)
    simp only [issueVAt, if_neg hg]

/-! ## The guard of a word is the guard under which it is issued -/

theorem headGuard_syl (g : Guard) (op : BitVec 7) (b : BitVec 40) : headGuard (unpackHead (syl g op b)) = g := by
  rw [syl, unpackHead_packHead]
  rfl

theorem guard_of_syl_eq {g g' : Guard} {op op' : BitVec 7} {b b' : BitVec 40} (h : syl g op b = syl g' op' b') : g = g' := by
  rw [← headGuard_syl g op b, h, headGuard_syl]

/-- Every instruction of the S map but the NOP is issued under the guard of its word (R29, R54). -/
theorem issuesS_of_encodeS {i : Instr} {w : BitVec 64} (h : encodeS i = some w) :
    (∃ g, i = .nop g) ∨ ∃ g op body, syl g op body = w ∧ ∃ d b, exec i = issueS g d b := by
  cases i
  case nop g => exact .inl ⟨g, rfl⟩
  all_goals cases h -- an instruction without an S word goes out here
  all_goals exact .inr ⟨_, _, _, rfl, _, _, rfl⟩

/-- Every instruction of the V map but the NOP is issued under the guard of its word (R30, R55). -/
theorem issuesV_of_encodeV {i : Instr} {w : BitVec 64} (hw : i.wellFormed = true) (h : encodeV i = some w) :
    (∃ g, i = .nop g) ∨ ∃ g op body, syl g op body = w ∧ IssuesV g (exec i) := by
  cases i
  case nop g => exact .inl ⟨g, rfl⟩
  all_goals cases h -- an instruction without a V word goes out here
  case vext g t r va n | vins g t vd r n =>
    have hn : n.toNat < tyElems t := of_decide_eq_true (Bool.and_elim_right hw)
    exact .inr ⟨_, _, _, rfl, .element _ _ _ _ (predBit_lt hn)⟩
  case vacczr | mldb | mma | mclaim | mrel | mfence | spjoin | spscan | spred | spbar | spbc =>
    exact .inr ⟨_, _, _, rfl, .whole _ _⟩
  all_goals exact .inr ⟨_, _, _, rfl, .elements _ _ _⟩

/-- An S syllable whose guard is not met is a NOP (R31). -/
theorem exec_suppressedS {i : Instr} {s : State} {g : Guard} {op : BitVec 7} {body : BitVec 40}
    (h : encodeS i = some (syl g op body)) (hg : guardBit g (me s) 0 = false) : exec i s = exec (.nop g) s := by
  obtain ⟨g', rfl⟩ | ⟨g', op', body', hw, d, b, hi⟩ := issuesS_of_encodeS h
  · rfl
  · obtain rfl := guard_of_syl_eq hw
    rw [hi, issueS_suppressed hg]

/-- A V syllable none of whose guard bits is set is a NOP (R32). -/
theorem exec_suppressedV {i : Instr} {s : State} {g : Guard} {op : BitVec 7} {body : BitVec 40} (hwf : i.wellFormed = true)
    (h : encodeV i = some (syl g op body)) (hg : ∀ k < 64, guardBit g (me s) k = false) : exec i s = exec (.nop g) s := by
  obtain ⟨g', rfl⟩ | ⟨g', op', body', hw, hi⟩ := issuesV_of_encodeV hwf h
  · rfl
  · obtain rfl := guard_of_syl_eq hw
    exact hi.suppressed hg

/-- Settles O51, by the guard under which each instruction of the two maps is issued. -/
theorem guardsSuppress : Obligations.GuardsSuppress := by
  refine ⟨fun _ g h => exec_nop_alone h g, fun _ _ _ _ _ hwf => ⟨exec_suppressedS, exec_suppressedV hwf⟩,
    fun _ _ _ _ _ => ⟨ttAt_ones _ _ _, ttAt_zero _ _ _⟩, fun th _ tt => guardBit_p0 th tt, by decide, by decide,
    fun th k tt p q r => guardBit_eq ⟨tt, p, q, r⟩ th k⟩

end Sys2Proof.Machine
end

section
/-! Integer arithmetic, compares and predicates (spec/05 R77 to R80, R85, R86, R91 to R100): the value of each result, and the bundle
that writes it. -/

namespace Sys2Proof.Machine

set_option Elab.async false

/-! ## Operands, and the syllables that use them -/

theorem onlyPops_opsAB (ra rb : SOp) : OnlyPops (opsAB ra rb) :=
  onlyPops_bind (onlyPops_srcS _) fun _ => onlyPops_bind (onlyPops_srcS _) fun _ => onlyPops_pure _

theorem onlyPops_opsDAB (rd ra : SOp) (b : SrcB) : OnlyPops (opsDAB rd ra b) :=
  onlyPops_bind (onlyPops_examS _) fun _ => onlyPops_bind (onlyPops_srcS _) fun _ =>
    onlyPops_bind (onlyPops_srcB _) fun _ => onlyPops_pure _

theorem onlyPops_opsDABC (rd ra rb rc : SOp) : OnlyPops (opsDABC rd ra rb rc) :=
  onlyPops_bind (onlyPops_examS _) fun _ => onlyPops_bind (onlyPops_srcS _) fun _ =>
    onlyPops_bind (onlyPops_srcS _) fun _ => onlyPops_bind (onlyPops_srcS _) fun _ => onlyPops_pure _

/-- A sequence that begins with a form's operands uses them in the order of step 4 of R35. -/
theorem opsAB_bind {α : Type} (ra rb : SOp) (f : Word × Word → Ev α) :
    opsAB ra rb >>= f = (do let x ← srcS ra; let y ← srcS rb; f (x, y)) := by
  simp only [opsAB, bind_assoc, pure_bind]

theorem opsDAB_bind {α : Type} (rd ra : SOp) (b : SrcB) (f : Word × Word → Ev α) :
    opsDAB rd ra b >>= f = (do examS rd; let x ← srcS ra; let y ← srcB b; f (x, y)) := by
  simp only [opsDAB, bind_assoc, pure_bind]

theorem opsDABC_bind {α : Type} (rd ra rb rc : SOp) (f : Word × Word × Word → Ev α) :
    opsDABC rd ra rb rc >>= f = (do examS rd; let x ← srcS ra; let y ← srcS rb; let z ← srcS rc; f (x, y, z)) := by
  simp only [opsDABC, bind_assoc, pure_bind]

/-- A syllable with two operands writes its function of them (R77). -/
theorem issueS_bin {s : State} {g : Guard} {d : List (Loc × Nat)} {rd ra : SOp} {b : SrcB} {x y v : Word} {es : List Eff}
    {f : Word → Word → Word} (he : Enabled s g) (hr : Reads s false (opsDAB rd ra b) (x, y) es) (hv : f x y = v) :
    issueS g d (bodyBin rd ra b f) s = .next (completes s (es ++ [toS rd v])) := by
  subst hv
  have hbody : bodyBin rd ra b f = opsDAB rd ra b >>= fun r => dstS rd (f r.1 r.2) :=
    (opsDAB_bind rd ra b fun r => dstS rd (f r.1 r.2)).symm
  rw [hbody]
  exact issueS_reads he.1 he.2 hr (onlyPops_opsDAB rd ra b) fun c => dstS_apply rd (f x y) c

/-- A syllable that reads its operands and then has effects which depend on its thread. -/
theorem issueS_reads_thread {α : Type} {s : State} {g : Guard} {d : List (Loc × Nat)} {p : Ev α} {x : α} {es fs : List Eff}
    {f : α → Ev Unit} (he : Enabled s g) (hr : Reads s false p x es) (hp : OnlyPops p)
    (hf : ∀ c, c.th = me s → f x c = .ok ((), { c with eff6 := c.eff6 ++ fs })) :
    issueS g d (p >>= f) s = .next (completes s (es ++ fs)) := by
  obtain ⟨c, h, rfl⟩ := hr
  obtain ⟨-, -, hth, -, -, h5, hw, hk⟩ := hp _ _ _ h
  have hg : guardBit g (getThread s s.cur) 0 = true := he.2
  rw [issueS, if_pos hg, issueOut_plain he.1 ((ev_bind_ok h).trans (hf c hth)) h5 hw hk]

/-- A syllable whose operands are predicates alone. -/
theorem issueS_thread {s : State} {g : Guard} {d : List (Loc × Nat)} {fs : List Eff} {body : Ev Unit} (he : Enabled s g)
    (hb : ∀ c, c.th = me s → body c = .ok ((), { c with eff6 := c.eff6 ++ fs })) :
    issueS g d body s = .next (completes s fs) := by
  have hread : Reads s false (pure () : Ev Unit) () [] := ⟨issueCtx s false, rfl, rfl⟩
  have h := issueS_reads_thread (d := d) (f := fun _ => body) he hread (onlyPops_pure ()) hb
  rwa [pure_bind] at h

/-! ## Integer results -/

/-- The upper half of a number taken modulo 2^128. -/
theorem ofInt_div_eq_extract (z : Int) : BitVec.ofInt 64 (z / 2 ^ 64) = (BitVec.ofInt 128 z).extractLsb' 64 64 := by
  apply BitVec.eq_of_toNat_eq
  rw [BitVec.toNat_ofInt, BitVec.extractLsb'_toNat, BitVec.toNat_ofInt, Nat.shiftRight_eq_div_pow]
  omega

theorem mulHigh_signed (x y : Word) : mulHigh false x y = (x.signExtend 128 * y.signExtend 128).extractLsb' 64 64 := by
  rw [BitVec.signExtend, BitVec.signExtend, ← BitVec.ofInt_mul, ← ofInt_div_eq_extract]
  rfl

theorem mulHigh_unsigned (x y : Word) : mulHigh true x y = (x.setWidth 128 * y.setWidth 128).extractLsb' 64 64 := by
  have hx : (x.setWidth 128).toNat = x.toNat := BitVec.toNat_setWidth_of_le (by decide)
  have hy : (y.setWidth 128).toNat = y.toNat := BitVec.toNat_setWidth_of_le (by decide)
  have hlt : x.toNat * y.toNat < 2 ^ 128 := (Nat.mul_lt_mul'' x.isLt y.isLt).trans_eq (pow_add 2 64 64).symm
  apply BitVec.eq_of_toNat_eq
  rw [BitVec.extractLsb'_toNat, BitVec.toNat_mul, hx, hy, Nat.mod_eq_of_lt hlt, Nat.shiftRight_eq_div_pow]
  rfl

/-- The truncated quotient; that of the least word by -1 wraps (R79). -/
theorem ofInt_tdiv (x y : Word) : BitVec.ofInt 64 (x.toInt.tdiv y.toInt) = x.sdiv y := by
  apply BitVec.eq_of_toInt_eq
  rw [BitVec.toInt_sdiv, BitVec.toInt_ofInt]

theorem ofInt_tmod (x y : Word) : BitVec.ofInt 64 (x.toInt.tmod y.toInt) = x.srem y := by
  rw [← BitVec.toInt_srem, BitVec.ofInt_toInt]

theorem word_div (x y : Word) : word (x.toNat / y.toNat) = x / y := by
  rw [word, ← BitVec.toNat_udiv, BitVec.ofNat_toNat, BitVec.setWidth_eq]

theorem word_mod (x y : Word) : word (x.toNat % y.toNat) = x % y := by
  rw [word, ← BitVec.toNat_umod, BitVec.ofNat_toNat, BitVec.setWidth_eq]

theorem divide_signed (x y : Word) : divide false x y = if y = 0 then -1 else x.sdiv y := by
  rw [← ofInt_tdiv]
  rfl

theorem divide_unsigned (x y : Word) : divide true x y = if y = 0 then -1 else x / y := by
  rw [← word_div]
  rfl

theorem remainder_signed (x y : Word) : remainder false x y = if y = 0 then x else x.srem y := by
  rw [← ofInt_tmod]
  rfl

theorem remainder_unsigned (x y : Word) : remainder true x y = if y = 0 then x else x % y := by
  rw [← word_mod]
  rfl

theorem minWord_signed (x y : Word) : minWord false x y = if x.sle y then x else y := by
  simp [minWord, BitVec.sle]

theorem minWord_unsigned (x y : Word) : minWord true x y = if x.ule y then x else y := by
  simp [minWord, BitVec.ule]

theorem maxWord_signed (x y : Word) : maxWord false x y = if x.sle y then y else x := by
  simp [maxWord, BitVec.sle]

theorem maxWord_unsigned (x y : Word) : maxWord true x y = if x.ule y then y else x := by
  simp [maxWord, BitVec.ule]

/-- A shift to the left is a product with a power of two (R86). -/
theorem shiftLeft_eq_mul (x : Word) (k : Nat) : x <<< k = x * (2 ^ k : Nat) := by
  apply BitVec.eq_of_toNat_eq
  simp [Nat.shiftLeft_eq]

/-- Settles O1: each result is the model's function of the operands, told as the specification tells it. -/
theorem integerArithmetic : Obligations.IntegerArithmetic := by
  refine ⟨fun s g rd ra b x y es he hr => ⟨issueS_bin he hr rfl, issueS_bin he hr rfl, issueS_bin he hr rfl,
      issueS_bin he hr (mulHigh_signed x y), issueS_bin he hr (mulHigh_unsigned x y),
      issueS_bin he hr (divide_signed x y), issueS_bin he hr (divide_unsigned x y),
      issueS_bin he hr (remainder_signed x y), issueS_bin he hr (remainder_unsigned x y)⟩,
    fun s g rd ra x y es he => ⟨fun b hr => ⟨issueS_bin he hr (minWord_signed x y), issueS_bin he hr (minWord_unsigned x y),
      issueS_bin he hr (maxWord_signed x y), issueS_bin he hr (maxWord_unsigned x y),
      fun k => issueS_bin he hr (congrArg (· + y) (shiftLeft_eq_mul x k.toNat))⟩, fun rb rc z hr => ?_⟩⟩
  show issueS g (locS rd) _ s = _
  rw [← opsDABC_bind rd ra rb rc fun r => dstS rd (r.1 * r.2.1 + r.2.2)]
  exact issueS_reads he.1 he.2 hr (onlyPops_opsDABC rd ra rb rc) fun c => dstS_apply _ _ c

/-! ## Compares (R91, R92) -/

theorem allOr_eq (b : Bool) : allOr b = allOnesIf b := by cases b <;> rfl

theorem condInt_eq (c : Cond) (x y : Word) : condInt c x y = holdsFor c x y := by
  cases c
  case eq | ne | tst => simp [condInt, holdsFor, bne, beq_eq_decide]
  all_goals rfl

/-- The two halves of a pair are written together, each from its own value before (R91). -/
theorem dstPair_apply (m : PMode) (pd pe : BitVec 3) (v : Word) (c : EvCtx) :
    dstPair m pd pe v c = .ok ((), { c with eff6 := c.eff6 ++ pairWrites c.th m pd pe v }) := by
  have happly : dstPair m pd pe v c = .ok ((), { c with eff6 := c.eff6 ++
      [.preg pd.toNat (combine m (getP c.th pd.toNat) (getP c.th pe.toNat) v).1] ++
      [.preg pe.toNat (combine m (getP c.th pd.toNat) (getP c.th pe.toNat) v).2] }) := rfl
  rw [happly, List.append_assoc]
  cases m <;> rfl

theorem dstPair_thread {s : State} (m : PMode) (pd pe : BitVec 3) (v : Word) {c : EvCtx} (h : c.th = me s) :
    dstPair m pd pe v c = .ok ((), { c with eff6 := c.eff6 ++ pairWrites (me s) m pd pe v }) := by
  rw [dstPair_apply, h]

theorem exec_cmp {s : State} {g : Guard} {ra rb : SOp} {x y : Word} {es : List Eff} (pd pe : BitVec 3) (m : PMode) (cond : Cond)
    (he : Enabled s g) (hr : Reads s false (opsAB ra rb) (x, y) es) :
    exec (.cmp g pd pe m cond ra rb) s = .next (completes s (es ++ pairWrites (me s) m pd pe (allOnesIf (holdsFor cond x y)))) := by
  show issueS g (locP pd ++ locP pe) _ s = _
  rw [← opsAB_bind ra rb fun r => dstPair m pd pe (allOr (condInt cond r.1 r.2)), ← condInt_eq, ← allOr_eq]
  exact issueS_reads_thread he hr (onlyPops_opsAB ra rb) fun _ hc => dstPair_thread m pd pe _ hc

theorem exec_cmpi {s : State} {g : Guard} {ra : SOp} {x : Word} {es : List Eff} (pd pe : BitVec 3) (m : PMode) (cond : Cond)
    (i : BitVec 22) (he : Enabled s g) (hr : Reads s false (srcS ra) x es) :
    exec (.cmpi g pd pe m cond ra i) s =
      .next (completes s (es ++ pairWrites (me s) m pd pe (allOnesIf (holdsFor cond x (i.signExtend 64))))) := by
  rw [← condInt_eq, ← allOr_eq]
  exact issueS_reads_thread he hr (onlyPops_srcS ra) fun _ hc => dstPair_thread m pd pe _ hc

/-! ## Predicates (R95, R97 to R100) -/

/-- The number whose bits below n a function gives. -/
def bitSum (f : Nat → Bool) (n : Nat) : Nat := (List.range n).foldl (fun m j => if f j then m + 2 ^ j else m) 0

theorem bitSum_succ (f : Nat → Bool) (n : Nat) : bitSum f (n + 1) = bitSum f n + 2 ^ n * (f n).toNat := by
  rw [bitSum, List.range_succ, List.foldl_append, ← bitSum]
  cases h : f n <;> simp [h]

theorem bitSum_lt (f : Nat → Bool) (n : Nat) : bitSum f n < 2 ^ n := by
  induction n with
  | zero => exact Nat.one_pos
  | succ n ih =>
    rw [bitSum_succ]
    cases f n <;> simp <;> omega

theorem testBit_bitSum (f : Nat → Bool) {n j : Nat} (h : j < n) : (bitSum f n).testBit j = f j := by
  induction n with
  | zero => omega
  | succ n ih =>
    rw [bitSum_succ, Nat.add_comm, Nat.testBit_two_pow_mul_add _ (bitSum_lt f n)]
    split
    · next hj => exact ih hj
    · next hj =>
      obtain rfl : j = n := by omega
      cases f j <;> simp

theorem ttIndex_eq (a b c : Bool) : ttIndex a b c = 4 * a.toNat + 2 * b.toNat + c.toNat := by
  cases a <;> cases b <;> cases c <;> rfl

/-- ptt gives bit j of its result by the truth table at the three bits j (R97). -/
theorem getLsbD_pttMask (tt : BitVec 8) (a b c : Word) {j : Nat} (h : j < 64) : (pttMask tt a b c).getLsbD j =
    tt.getLsbD (4 * (a.getLsbD j).toNat + 2 * (b.getLsbD j).toNat + (c.getLsbD j).toNat) := by
  have hmask : pttMask tt a b c = BitVec.ofNat 64 (bitSum (fun j => ttAt tt (bitAt a j) (bitAt b j) (bitAt c j)) 64) := rfl
  rw [hmask, BitVec.getLsbD_ofNat, testBit_bitSum _ h, decide_eq_true h, Bool.true_and, ttAt_eq, ttIndex_eq]
  rfl

theorem any_lanes (p : Word) (lw : BitVec 2) :
    ((List.range (lanes lw)).any fun i => bitAt p i) = true ↔ ∃ j < lanes lw, p.getLsbD j = true := by
  simp [bitAt]

theorem all_lanes (p : Word) (lw : BitVec 2) :
    ((List.range (lanes lw)).all fun i => bitAt p i) = true ↔ ∀ j < lanes lw, p.getLsbD j = true := by
  simp [bitAt]

theorem countOnes_eq_sum {w : Nat} (x : BitVec w) (n : Nat) : countOnes x n = ∑ j ∈ Finset.range n, (x.getLsbD j).toNat := by
  induction n with
  | zero => rfl
  | succ n ih =>
    rw [Finset.sum_range_succ, ← ih, countOnes, List.range_succ, List.filter_append, List.length_append, ← countOnes]
    cases h : x.getLsbD n <;> simp [bitAt, h]

/-- The lowest set bit stands at `firstOne`, which is n where the n low bits are clear (R100). -/
theorem firstOne_spec {w : Nat} (x : BitVec w) (n : Nat) :
    firstOne x n ≤ n ∧ (∀ j < firstOne x n, x.getLsbD j = false) ∧ (firstOne x n < n → x.getLsbD (firstOne x n) = true) := by
  unfold firstOne
  cases h : (List.range n).find? fun i => bitAt x i with
  | none =>
    have hclear : ∀ j < n, x.getLsbD j = false := by simpa [bitAt] using h
    exact ⟨le_rfl, hclear, fun hn => absurd hn (lt_irrefl n)⟩
  | some k =>
    obtain ⟨hk, hn, hbelow⟩ := List.find?_range_eq_some.mp h
    refine ⟨(List.mem_range.mp hn).le, fun j hj => ?_, fun _ => hk⟩
    simpa [bitAt] using hbelow j hj

/-- A predicate source stops for nothing (R91, R97). -/
theorem srcP_bind {α : Type} (q : BitVec 3) (f : Word → Ev α) (c : EvCtx) : (srcP q >>= f) c = f (getP c.th q.toNat) c := rfl

/-- A syllable that examines its destination and writes a function of a predicate (R98, R100). -/
theorem issueS_ofPredicate {s : State} {g : Guard} {d : List (Loc × Nat)} {rd : SOp} {es : List Eff} (q : BitVec 3) (f : Word → Word)
    (he : Enabled s g) (hr : Reads s false (opsD rd) () es) :
    issueS g d (do examS rd; let p ← srcP q; dstS rd (f p)) s = .next (completes s (es ++ [toS rd (f (getP (me s) q.toNat))])) := by
  refine issueS_reads_thread he hr (onlyPops_examS rd) fun c hc => ?_
  rw [srcP_bind, dstS_apply, hc]

/-- A syllable that writes a predicate pair from a function of a predicate (R99). -/
theorem issueS_pairOfPredicate {s : State} {g : Guard} {d : List (Loc × Nat)} (m : PMode) (pd pe q : BitVec 3) (f : Word → Word)
    (he : Enabled s g) :
    issueS g d (do let p ← srcP q; dstPair m pd pe (f p)) s =
      .next (completes s (pairWrites (me s) m pd pe (f (getP (me s) q.toNat)))) := by
  refine issueS_thread he fun c hc => ?_
  rw [srcP_bind, dstPair_apply, hc]

theorem exec_ptt {s : State} {g : Guard} (m : PMode) (pd pe : BitVec 3) (tt : BitVec 8) (qa qb qc : BitVec 3) (he : Enabled s g) :
    exec (.ptt g pd pe m tt qa qb qc) s = .next (completes s (pairWrites (me s) m pd pe
      (pttMask tt (getP (me s) qa.toNat) (getP (me s) qb.toNat) (getP (me s) qc.toNat)))) := by
  refine issueS_thread he fun c hc => ?_
  rw [srcP_bind, srcP_bind, srcP_bind, dstPair_apply, hc]

theorem exec_pany {s : State} {g : Guard} (m : PMode) (pd pe qa : BitVec 3) (lw : BitVec 2) (he : Enabled s g) :
    exec (.pany g pd pe m qa lw) s = .next (completes s (pairWrites (me s) m pd pe
      (allOnesIf ((List.range (lanes lw)).any fun i => bitAt (getP (me s) qa.toNat) i)))) := by
  rw [← allOr_eq]
  exact issueS_pairOfPredicate m pd pe qa (fun p => allOr ((List.range (lanes lw)).any fun i => bitAt p i)) he

theorem exec_pall {s : State} {g : Guard} (m : PMode) (pd pe qa : BitVec 3) (lw : BitVec 2) (he : Enabled s g) :
    exec (.pall g pd pe m qa lw) s = .next (completes s (pairWrites (me s) m pd pe
      (allOnesIf ((List.range (lanes lw)).all fun i => bitAt (getP (me s) qa.toNat) i)))) := by
  rw [← allOr_eq]
  exact issueS_pairOfPredicate m pd pe qa (fun p => allOr ((List.range (lanes lw)).all fun i => bitAt p i)) he

theorem exec_pmov {s : State} {g : Guard} {ra : SOp} {x : Word} {es : List Eff} (pd : BitVec 3) (he : Enabled s g)
    (hr : Reads s false (srcS ra) x es) : exec (.pmov g pd ra) s = .next (completes s (es ++ [.preg pd.toNat x])) :=
  issueS_reads he.1 he.2 hr (onlyPops_srcS ra) fun c => evEff_apply _ c

/-- Settles O4: the compares and the predicate instructions by the writes that their bodies collect. -/
theorem comparesAndPredicates : Obligations.ComparesAndPredicates := by
  refine ⟨fun s g pd pe m cond es he => ⟨fun _ _ _ _ hr => exec_cmp pd pe m cond he hr, fun _ i _ hr => exec_cmpi pd pe m cond i he hr⟩,
    fun s g m pd pe qa qb qc rd ra lw es he => ⟨fun tt => ⟨_, exec_ptt m pd pe tt qa qb qc he, fun _ => getLsbD_pttMask tt _ _ _⟩,
      fun _ hr => exec_pmov pd he hr, ⟨_, exec_pany m pd pe qa lw he, any_lanes _ lw⟩, ⟨_, exec_pall m pd pe qa lw he, all_lanes _ lw⟩,
      fun hr => ⟨issueS_ofPredicate qa (fun p => p) he hr, ?_, ?_⟩⟩⟩
  · rw [← countOnes_eq_sum]
    exact issueS_ofPredicate qa (fun p => word (countOnes p (lanes lw))) he hr
  · obtain ⟨hle, hbelow, hat⟩ := firstOne_spec (getP (me s) qa.toNat) (lanes lw)
    exact ⟨_, hle, issueS_ofPredicate qa (fun p => word (firstOne p (lanes lw))) he hr, hbelow, hat⟩

end Sys2Proof.Machine
end
